-- ==== Sys2Proof/Word.lean ====
section
/-! DEFINITION. The word types of the machine: bit vectors of the widths the spec names (R1, R2). -/

namespace Sys2Proof

/-- An 8-bit byte, the addressable unit (R2). -/
abbrev Byte := BitVec 8
/-- A 16-bit halfword. -/
abbrev Half := BitVec 16
/-- A 32-bit word: a syllable (R72), a lane (R12), an accumulator word. -/
abbrev W32 := BitVec 32
/-- A 64-bit word: an `s` or `m` register (R12), a microprogram word (R198). -/
abbrev W64 := BitVec 64
/-- A 56-bit virtual or device physical address (R7, R279). -/
abbrev Addr := BitVec 56

end Sys2Proof
end

