-- ==== Sys2Proof/Machine/Bits.lean ====
section
/-! DEFINITION. Bit fields, sign extension, byte order and saturation, which every layer above uses (R2, R16, R17). -/

namespace Sys2Proof.Machine

/-- Bits [lo+len-1 : lo] of `x`, as a number (R2). -/
def fld {w : Nat} (x : BitVec w) (lo len : Nat) : Nat := (x.toNat >>> lo) % 2 ^ len

/-- Bit `i` of `x`. -/
def bit {w : Nat} (x : BitVec w) (i : Nat) : Bool := x.getLsbD i

/-- Bits [lo+len-1 : lo] of a number. -/
def nfld (x lo len : Nat) : Nat := (x >>> lo) % 2 ^ len

/-- `x` with bits [lo+len-1 : lo] replaced by the low bits of `v`. -/
def setFld {w : Nat} (x : BitVec w) (lo len v : Nat) : BitVec w :=
  BitVec.ofNat w (x.toNat - nfld x.toNat lo len * 2 ^ lo + (v % 2 ^ len) * 2 ^ lo)

/-- The two's-complement value of the low `w` bits of `n` (R16). -/
def toSigned (w n : Nat) : Int :=
  let m := n % 2 ^ w
  if m < 2 ^ (w - 1) then (m : Int) else (m : Int) - (2 ^ w : Nat)

/-- The low `w` bits of the two's complement of `i` (R16, R17). -/
def ofSigned (w : Nat) (i : Int) : Nat := (i % ((2 ^ w : Nat) : Int)).toNat

/-- `sat(x, lo, hi)` and whether the clamp changed the value (R17). -/
def satI (x lo hi : Int) : Int × Bool :=
  if x < lo then (lo, true) else if x > hi then (hi, true) else (x, false)

/-- `sat` to a signed width. -/
def satS (w : Nat) (x : Int) : Int × Bool := satI x (-((2 ^ (w - 1) : Nat) : Int)) (((2 ^ (w - 1) : Nat) : Int) - 1)

/-- The `n` little-endian bytes of a number (R2). -/
def leBytes : Nat → Nat → List Byte
  | 0, _ => []
  | n + 1, v => BitVec.ofNat 8 v :: leBytes n (v / 256)

/-- The number whose little-endian bytes these are (R2). -/
def ofLe : List Byte → Nat
  | [] => 0
  | b :: bs => b.toNat + 256 * ofLe bs

/-- One CRC-64 (ECMA-182, not reflected) step over a byte (R340, R447). -/
def crc64Byte (crc : BitVec 64) (b : Byte) : BitVec 64 :=
  (List.range 8).foldl
    (fun c _ => if c.getLsbD 63 then (c <<< 1) ^^^ 0x42F0E1EBA9EA3693#64 else c <<< 1)
    (crc ^^^ ((b.setWidth 64) <<< 56))

/-- CRC-64 (ECMA-182 polynomial, no reflection, no final XOR) of bytes, from a starting value (R447). -/
def crc64 (init : BitVec 64) (bs : List Byte) : BitVec 64 := bs.foldl crc64Byte init

/-- One round of Philox4x32 on the counter words, with the two key words. -/
def philoxRound (c : Nat × Nat × Nat × Nat) (k0 k1 : Nat) : Nat × Nat × Nat × Nat :=
  let p0 := c.1 * 0xD2511F53
  let p1 := c.2.2.1 * 0xCD9E8D57
  ((p1 / 2 ^ 32) ^^^ c.2.1 ^^^ k0, p1 % 2 ^ 32, (p0 / 2 ^ 32) ^^^ c.2.2.2 ^^^ k1, p0 % 2 ^ 32)

/-- `n` rounds of Philox4x32, the key words advancing by the Weyl constants after each. -/
def philoxRounds : Nat → Nat × Nat × Nat × Nat → Nat → Nat → Nat × Nat × Nat × Nat
  | 0, c, _, _ => c
  | n + 1, c, k0, k1 => philoxRounds n (philoxRound c k0 k1) ((k0 + 0x9E3779B9) % 2 ^ 32) ((k1 + 0xBB67AE85) % 2 ^ 32)

/-- `philox(key, ctr)`: one Philox4x32-10 block, its four words in order (R211, R260, R395). The key's low word is the
first key word. PRESUMED: the round function and its constants are the published ones (log 7). -/
def philox (key : BitVec 64) (c0 c1 c2 c3 : Nat) : List W32 :=
  let r := philoxRounds 10 (c0 % 2 ^ 32, c1 % 2 ^ 32, c2 % 2 ^ 32, c3 % 2 ^ 32) (key.toNat % 2 ^ 32) (key.toNat / 2 ^ 32)
  [BitVec.ofNat 32 r.1, BitVec.ofNat 32 r.2.1, BitVec.ofNat 32 r.2.2.1, BitVec.ofNat 32 r.2.2.2]

/-- Word `i` of a list of words, 0 past its end. -/
def nth {w : Nat} (xs : List (BitVec w)) (i : Nat) : BitVec w := xs.getD i 0

/-- The list with element `i` replaced (unchanged past its end). -/
def setNth {α : Type} (xs : List α) (i : Nat) (x : α) : List α := xs.set i x

/-- Replaces the elements that `p` picks. -/
def mapIf {α : Type} (p : α → Bool) (f : α → α) (xs : List α) : List α := xs.map (fun x => if p x then f x else x)

/-- Stable insertion by a Nat key: behind every element of the same or a smaller key. -/
def insertBy {α : Type} (key : α → Nat) (x : α) : List α → List α
  | [] => [x]
  | y :: ys => if key x < key y then x :: y :: ys else y :: insertBy key x ys

/-- Stable sort by a Nat key. -/
def sortBy {α : Type} (key : α → Nat) (xs : List α) : List α := xs.foldl (fun acc x => insertBy key x acc) []

end Sys2Proof.Machine
end

