-- ==== Sys2Proof/Syntax.lean ====
section
/-! DEFINITION. The syntax: one constructor of `Instr` per row of spec/opcode_table.json. A slot operation, a triad unit,
a microprogram word, an epilogue instruction and a management-core instruction carry the raw fields of their encoding
(R93, R94, R96, R199, R216, R261); a row that is an event of the machine (95_what_each_step_holds.md) carries what
names the thing it happens to. -/

namespace Sys2Proof

/-- The fields of an S or M syllable: [31:12] operands, [5:2] guard, [1] sticky (R93). -/
structure SF where
  x : BitVec 20
  g : BitVec 4
  st : Bool
  deriving DecidableEq, Repr

/-- The fields of an X syllable (R93). -/
structure XF where
  fn : BitVec 4
  d : BitVec 5
  v : BitVec 5
  h : BitVec 3
  j : BitVec 3
  g : BitVec 4
  st : Bool
  deriving DecidableEq, Repr

/-- The fields of the two A syllables (R94, R104). -/
structure AF where
  w : BitVec 2
  b : BitVec 6
  a : BitVec 6
  d : BitVec 6
  q : BitVec 3
  cls : BitVec 4
  imm : BitVec 24
  g : BitVec 4
  st : Bool
  deriving DecidableEq, Repr

/-- The fields of the two V syllables (R94, R164). -/
structure VF where
  peer : Bool
  ty : BitVec 4
  base : BitVec 6
  gs : BitVec 4
  v : BitVec 5
  q : BitVec 3
  cls : BitVec 4
  imm : BitVec 24
  g : BitVec 4
  st : Bool
  deriving DecidableEq, Repr

/-- The fields of the two E syllables (R94, R228). -/
structure EF where
  sig : BitVec 8
  thr : BitVec 4
  wsem : BitVec 8
  q : BitVec 2
  vc : BitVec 3
  toff : BitVec 16
  dreg : BitVec 6
  inc : BitVec 4
  g : BitVec 4
  st : Bool
  deriving DecidableEq, Repr

/-- The fields of the two O syllables, the must-be-zero fields `z0`, `z1`, `z2` among them (R94, R181). -/
structure OF where
  z0 : BitVec 2
  seg : BitVec 3
  v : BitVec 5
  row : BitVec 7
  acc : BitVec 3
  z1 : BitVec 3
  cls : BitVec 4
  z2 : BitVec 13
  cnt : BitVec 7
  gs : BitVec 4
  g : BitVec 4
  st : Bool
  deriving DecidableEq, Repr

/-- The three units of a triad, in cascade order (R98). -/
inductive UPos where
  | alpha
  | beta
  | gamma
  deriving DecidableEq, Repr

/-- The fields of the two triad syllables (R96), with the lane group (the slot position, R62) and the unit of the
cascade that an instruction is. The three units of one triad carry the same fields. -/
structure TF where
  grp : BitVec 3
  pos : UPos
  fuse : Bool
  srcA : BitVec 6
  ga : BitVec 5
  be : BitVec 5
  al : BitVec 5
  k : BitVec 4
  g : BitVec 4
  st : Bool
  z : Bool
  sel : BitVec 3
  ty : BitVec 3
  dest : BitVec 6
  srcD : BitVec 6
  srcC : BitVec 6
  srcB : BitVec 6
  deriving DecidableEq, Repr

/-- The fields of a microprogram word (R199). -/
structure WF where
  imm : BitVec 24
  f4 : BitVec 8
  f3 : BitVec 8
  f2 : BitVec 6
  f1 : BitVec 6
  f0 : BitVec 6
  deriving DecidableEq, Repr

/-- The fields of an epilogue instruction (R216). -/
structure PF where
  f : BitVec 15
  c : BitVec 3
  b : BitVec 3
  a : BitVec 3
  d : BitVec 3
  deriving DecidableEq, Repr

/-- The register fields of a management-core R-type instruction (R261). -/
structure RF where
  rs2 : BitVec 5
  rs1 : BitVec 5
  rd : BitVec 5
  deriving DecidableEq, Repr

/-- The engines (R230). MULOAD and EPLOAD are commands of the copy engine. -/
inductive Engine where
  | copy
  | weight
  | coll
  | mcast
  | sketch
  | quiet
  deriving DecidableEq, Repr

/-- The levels of the ordering machine between CTX and home that hold bytes (R285). -/
inductive Level where
  | core
  | cluster
  | die
  deriving DecidableEq, Repr

/-- One entry of a queue latch: 16 lanes and their valid mask (R148). -/
structure QEntry where
  mask : BitVec 16
  lanes : List (BitVec 32)
  deriving DecidableEq, Repr

/-- Who waits on a tile state (R273): a context's bundle, an engine command, or the matrix call. -/
inductive TileWaiter where
  | bundle (c : Fin 4)
  | command (c : Fin 4) (id : BitVec 16)
  | call
  deriving DecidableEq, Repr

/-- A multicast block submitted by an issuer on another package (R243, R417). -/
structure McBlock where
  pkg : BitVec 10
  offs : BitVec 64
  tag : BitVec 64
  notice : Bool
  bytes : List (BitVec 8)
  deriving DecidableEq, Repr

/-- What the surviving resident kernels agree at a view change (R418): the two settling numbers, the numbers up to the first
that some survivor has applied or holds in full, those of them that this package has not received with their blocks, whether
the new sequencer is here, its package, the members less one, and, where it is here, the member list and its place (R412). -/
structure ViewInfo where
  c : BitVec 48
  s : BitVec 48
  held : List (BitVec 48)
  blocks : List (BitVec 48 × McBlock)
  seqHere : Bool
  seqPkg : BitVec 10
  nmemb : BitVec 10
  mlist : BitVec 56
  members : List (BitVec 10)
  deriving DecidableEq, Repr

/-- A write of another core of the cluster to this core's scratchpad (R266, R267, R269): the peer's x, its launch and who makes it, the
status it is reported with, whether it counts, its operation (0 a plain write, else an accumulate of R268), the bytes of a plain write by
their offsets, and the elements of an accumulate: offset, operand, random word. -/
structure PeerReq where
  x : Fin 24
  lid : BitVec 32
  coord : BitVec 28
  bundle : Nat
  cmd : BitVec 32
  counted : Bool
  acc : Fin 6
  cells : List (BitVec 21 × BitVec 8)
  elts : List (BitVec 21 × BitVec 32 × BitVec 32)
  deriving DecidableEq, Repr

/-- What other cores of the cluster bring to the banks (R266, R269): a request for this core's bank, or the entry of a tile of another
core as that core has set it, which counts this core's writes there. -/
inductive PeerEvent where
  | request (r : PeerReq)
  | tile (x : Fin 24) (n : BitVec 8) (base size : BitVec 21) (expected arrived : BitVec 24) (state : BitVec 2) (lid : BitVec 32)
  deriving DecidableEq, Repr

/-- A bank, and what a peer brings to it, if it is not the bank's own service (R266). -/
structure BankEvent where
  bank : Fin 48
  peer : Option PeerEvent := none
  deriving DecidableEq, Repr

/-- A parity error of a context's registers: whether the shadow copy fails as well, and the register bank whose self-test it starts
(R427, R433). -/
structure ParityEvent where
  shadowBad : Bool
  bank : Option (BitVec 16) := none
  deriving DecidableEq, Repr

/-- What a member of a collective on another core sends: its rank and its digest (R340). -/
structure MemberDigest where
  rank : BitVec 16
  word : BitVec 64
  deriving DecidableEq, Repr

/-- What SEND_PERMIT does (R337): the engine grants a permit, a peer's permit for a chunk of a step arrives, or a peer's acknowledgement
of a chunk; peers by their rank. -/
inductive PermitEvent where
  | grant
  | permit (r : BitVec 16) (step : Nat)
  | ack (r : BitVec 16)
  deriving DecidableEq, Repr

/-- The units a targeted self-test covers (R429, R433). -/
inductive UnitKind where
  | arrayRow
  | arrayCol
  | spBank
  | l1
  | l2Slice
  | lane
  | regBank
  | linkLane
  | dramRow
  deriving DecidableEq, Repr

/-- One unit: its kind and its index (R433); the die of an L2 slice or a port; the bank of a DRAM row. -/
structure UnitRef where
  kind : UnitKind
  index : BitVec 16
  die : BitVec 2 := 0
  bank : BitVec 16 := 0
  deriving DecidableEq, Repr

/-- Where words lie that check bits of their own protect (R426): scratchpad and accumulators by 32 bits; the L1, home memory in an L2 slice, and
the microprogram and epilogue stores and the scale cache by 64; home memory in DRAM by 64 bytes. -/
inductive Space where
  | sp
  | acc
  | l1
  | l2
  | dram
  | mu
  | ep
  | scale
  deriving DecidableEq, Repr

/-- A protected word: its space, and the key, word number or physical address of something in it. -/
structure WordRef where
  space : Space
  addr : Nat
  deriving DecidableEq, Repr

/-- Who has read a word whose check fails (R428): nobody; an access of a context on its way, by its identifier; an engine command,
by its identifier; the matrix call that runs; a store that writes a part of the word; or a read that the device makes for a context (a
walk, node table, save area or descriptor). -/
inductive Reader where
  | nobody
  | access (ctx : Fin 4) (id : Nat)
  | command (ctx : Fin 4) (id : BitVec 16)
  | call
  | merge (ctx : Fin 4) (id : Nat)
  | device (ctx : Fin 4)
  deriving DecidableEq, Repr

/-- What may start a targeted self-test (R429), in the order of the error record's KIND codes (R433): one error that has been corrected, or one
link retry, which count towards a burst; an uncorrectable error, with the word and who has read it; a checksum mismatch, with the other rows
and columns that the disagreeing checksums name; a parity error. -/
inductive TestCause where
  | sramCorrected
  | sramUncorrectable (by_ : Reader) (word : Option WordRef := none)
  | dramCorrected
  | dramUncorrectable (by_ : Reader) (word : Option WordRef := none)
  | linkRetried
  | checksum (others : List UnitRef := [])
  | parity
  deriving DecidableEq, Repr

/-- The TLBs an invalidation reaches (R261, R380). -/
inductive TlbRef where
  | compute
  | netPort
  | storagePort
  deriving DecidableEq, Repr

/-- The instructions and events of the Sarier 4800, one constructor per row of spec/opcode_table.json: the rows whose
constructor carries something first (an object of the runtime), then the others; a register write takes its value from the
`inbox` of the state. -/
inductive Instr where
  /-- RESULT_LAND (R319). -/
  | resultLand (c : Fin 4)
  /-- LOAD_RETURN (R107). -/
  | loadReturn (c : Fin 4)
  /-- QUEUE_ENTRY_VISIBLE (R148). -/
  | queueEntryVisible (c : Fin 4) (q : Fin 8) (arr : Option QEntry)
  /-- SKQRY_ANSWER (R177). -/
  | skqryAnswer (c : Fin 4)
  /-- SEM_WAIT_SATISFIED (R226). -/
  | semWaitSatisfied (n : BitVec 8)
  /-- SSIG_SIGNAL (R252). -/
  | ssigSignal (c : Fin 4)
  /-- COMMAND_START (R232). -/
  | commandStart (c : Fin 4) (e : Engine) (timed : Bool)
  /-- COPY_ELEMENT (R236). -/
  | copyElement (c : Fin 4) (id : BitVec 16)
  /-- COMMAND_COMPLETE (R233). -/
  | commandComplete (c : Fin 4) (id : BitVec 16)
  /-- WEIGHT_BLOCK_DELIVER (R240). -/
  | weightBlockDeliver (c : Fin 4)
  /-- BANK_ACCESS (R266): the bank's service, or what another core of the cluster brings to it. -/
  | bankAccess (bank : BankEvent)
  /-- TILE_DRAIN_COMPLETE (R127). -/
  | tileDrainComplete (t : BitVec 8)
  /-- TILE_STALL_TIMEOUT (R274). -/
  | tileStallTimeout (w : TileWaiter)
  /-- STORE_PERFORM (R292). -/
  | storePerform (c : Fin 4) (id : Nat)
  /-- PROPAGATE_STEP (R293): the dirty bytes of one unit; `id` is its store's identifier × 4 + context + 2^64 × unit. -/
  | propagateStep (lvl : Level) (id : Nat)
  /-- FILL_STEP (R294). -/
  | fillStep (lvl : Level) (pa : BitVec 56)
  /-- DROP_STEP (R294). -/
  | dropStep (lvl : Level) (pa : BitVec 56)
  /-- LOAD_STEP (R295). -/
  | loadStep (c : Fin 4) (id : Nat)
  /-- RELEASE_COMPLETE (R297). -/
  | releaseComplete (c : Fin 4)
  /-- HOME_SERVE (R300): an operation of a home-slice queue; from 2^64 on, the next counter of the sketch command with
  context × 2^16 + command number. -/
  | homeServe (id : Nat)
  /-- HASP_RELEASE_DELIVERY (R309). -/
  | haspReleaseDelivery (c : Fin 4)
  /-- TRAP_RESTORE (R320). -/
  | trapRestore (c : Fin 4)
  /-- PARITY_TRAP (R427). -/
  | parityTrap (c : Fin 4) (p : ParityEvent)
  /-- DEBUGGER_STOP (R443). -/
  | debuggerStop (c : Fin 4)
  /-- LAUNCH_END (R358). -/
  | launchEnd (lid : BitVec 32)
  /-- TIME_LIMIT (R360). -/
  | timeLimit (lid : BitVec 32)
  /-- KILLED (R361). -/
  | killed (lid : BitVec 32)
  /-- RESUME (R375). -/
  | resume (c : Fin 4)
  /-- TLB_WALK (R384). -/
  | tlbWalk (asid : BitVec 16) (va : BitVec 56)
  /-- WRITE_RETRANSLATE (R389). -/
  | writeRetranslate (c : Fin 4) (id : Nat)
  /-- MCST_STAMP (R303). -/
  | mcstStamp (g : BitVec 12) (ext : Option McBlock)
  /-- BLOCK_APPLY (R416). -/
  | blockApply (g : BitVec 12)
  /-- VIEW_CHANGE (R418). -/
  | viewChange (g : BitVec 12) (v : ViewInfo)
  /-- PACKAGE_LOSS (R408). -/
  | packageLoss (p : BitVec 10)
  /-- DIGEST (R340). -/
  | digest (c : Fin 4) (id : BitVec 16) (d : MemberDigest)
  /-- SEND_PERMIT (R337). -/
  | sendPermit (c : Fin 4) (id : BitVec 16) (e : PermitEvent)
  /-- CHUNK_RECEIVE (R335). -/
  | chunkReceive (c : Fin 4) (id : BitVec 16) (bytes : List (BitVec 8))
  /-- SELF_TEST (R429). -/
  | selfTest (u : UnitRef) (cause : TestCause)
  /-- SELF_TEST_RESULT (R430). -/
  | selfTestResult (u : UnitRef) (pass : Bool)
  /-- SENSOR_REFRESH (R450). -/
  | sensorRefresh (die : Fin 6) (n : BitVec 8) (raw : BitVec 16)
  /-- DRAM_REFRESH (R458). -/
  | dramRefresh (bank : Nat)
  /-- ACTIVATION_ALERT (R459). -/
  | activationAlert (bank : Nat)
  /-- BOOT (R460). -/
  | boot (fail : Option (Fin 6)) (rollback : BitVec 32)
  /-- ATTESTATION_REPORT (R462). -/
  | attestationReport (nonce : BitVec 256) (lid : BitVec 32)
  /-- HOST_BAR2_ACCESS (R420). -/
  | hostBar2Access (wr : Bool) (off : BitVec 39) (bytes : List (BitVec 8))
  /-- SNOP (R81). -/
  | snop (f : SF)
  /-- BR (R136). -/
  | br (f : SF)
  /-- BRI (R136). -/
  | bri (f : SF)
  /-- CALL (R136). -/
  | callS (f : SF)
  /-- RET (R136). -/
  | ret (f : SF)
  /-- LOOP (R137). -/
  | loopS (f : SF)
  /-- LOOPSP (R138). -/
  | loopsp (f : SF)
  /-- LBRK (R140). -/
  | lbrk (f : SF)
  /-- GLOG (R141). -/
  | glog (f : SF)
  /-- KLOG (R141). -/
  | klog (f : SF)
  /-- KMOV_FROM_K (R142). -/
  | kmovFromK (f : SF)
  /-- KMOV_TO_K (R142). -/
  | kmovToK (f : SF)
  /-- MARK (R255). -/
  | markS (f : SF)
  /-- NODE (R253). -/
  | nodeS (f : SF)
  /-- END (R254). -/
  | endCtx (f : SF)
  /-- SSTEP (R250). -/
  | sstep (f : SF)
  /-- BARA (R249). -/
  | bara (f : SF)
  /-- BARW (R249). -/
  | barw (f : SF)
  /-- SWAIT (R252). -/
  | swait (f : SF)
  /-- SSIG (R252). -/
  | ssig (f : SF)
  /-- SSIG_CLR (R252). -/
  | ssigClr (f : SF)
  /-- FCRW (R144). -/
  | fcrw (f : SF)
  /-- FSRR (R145). -/
  | fsrr (f : SF)
  /-- FSRR_CLEAR (R145). -/
  | fsrrClear (f : SF)
  /-- SYSR (R256). -/
  | sysr (f : SF)
  /-- SYSW (R256). -/
  | sysw (f : SF)
  /-- LSUPD (R259). -/
  | lsupd (f : SF)
  /-- RSEEK (R260). -/
  | rseek (f : SF)
  /-- BRK (R255). -/
  | brk (f : SF)
  /-- SEMRD (R252). -/
  | semrd (f : SF)
  /-- GTBR (R251). -/
  | gtbr (f : SF)
  /-- WAITT (R251). -/
  | waitt (f : SF)
  /-- QMASK (R146). -/
  | qmask (f : SF)
  /-- ANOP (R81). -/
  | anop (f : AF)
  /-- ADD (R108). -/
  | add (f : AF)
  /-- SUB (R108). -/
  | sub (f : AF)
  /-- MUL (R108). -/
  | mul (f : AF)
  /-- MULH (R108). -/
  | mulh (f : AF)
  /-- DIV (R109). -/
  | div (f : AF)
  /-- DIVU (R109). -/
  | divu (f : AF)
  /-- AND (R108). -/
  | andA (f : AF)
  /-- OR (R108). -/
  | orA (f : AF)
  /-- XOR (R108). -/
  | xorA (f : AF)
  /-- SHL (R108). -/
  | shl (f : AF)
  /-- SHR (R108). -/
  | shr (f : AF)
  /-- SRA (R108). -/
  | sra (f : AF)
  /-- MIN (R108). -/
  | minA (f : AF)
  /-- MAX (R108). -/
  | maxA (f : AF)
  /-- ADDI (R110). -/
  | addi (f : AF)
  /-- LI (R110). -/
  | li (f : AF)
  /-- LIH (R110). -/
  | lih (f : AF)
  /-- LIH_CHUNK1 (R110). -/
  | lihChunk1 (f : AF)
  /-- CMP (R111). -/
  | cmp (f : AF)
  /-- CMP_IMMEDIATE (R111). -/
  | cmpImmediate (f : AF)
  /-- SEL (R112). -/
  | selA (f : AF)
  /-- MOVM_TO_M (R114). -/
  | movmToM (f : AF)
  /-- MOVM_FROM_M (R114). -/
  | movmFromM (f : AF)
  /-- MOVS_TO_S (R113). -/
  | movsToS (f : AF)
  /-- MOVS_TO_G (R113). -/
  | movsToG (f : AF)
  /-- LDS (R115). -/
  | lds (f : AF)
  /-- STS (R115). -/
  | sts (f : AF)
  /-- AMO (R118). -/
  | amo (f : AF)
  /-- FENCE (R122). -/
  | fence (f : AF)
  /-- PROBE (R123). -/
  | probe (f : AF)
  /-- TDEF (R126). -/
  | tdef (f : AF)
  /-- TFREE (R127). -/
  | tfree (f : AF)
  /-- TSTAT (R128). -/
  | tstat (f : AF)
  /-- TDESC (R128). -/
  | tdesc (f : AF)
  /-- BFXCFG (R129). -/
  | bfxcfg (f : AF)
  /-- SSRCFG (R130). -/
  | ssrcfg (f : AF)
  /-- SSRCLR (R130). -/
  | ssrclr (f : AF)
  /-- SSRCLR_SATD (R130). -/
  | ssrclrSatd (f : AF)
  /-- SSRRD (R130). -/
  | ssrrd (f : AF)
  /-- SSRWR (R130). -/
  | ssrwr (f : AF)
  /-- CVTS (R133). -/
  | cvts (f : AF)
  /-- FADDS (R132). -/
  | fadds (f : AF)
  /-- FADDS_NEGATED (R132). -/
  | faddsNegated (f : AF)
  /-- FMULS (R132). -/
  | fmuls (f : AF)
  /-- FMAS (R132). -/
  | fmas (f : AF)
  /-- FCMPS (R134). -/
  | fcmps (f : AF)
  /-- MNOP (R81). -/
  | mnop (f : SF)
  /-- MCALL (R185). -/
  | mcall (f : SF)
  /-- MQUIET (R190). -/
  | mquiet (f : SF)
  /-- ENOP (R81). -/
  | enop (f : EF)
  /-- COPY (R236). -/
  | copy (f : EF)
  /-- TLOAD (R240). -/
  | tload (f : EF)
  /-- COLL (R241). -/
  | coll (f : EF)
  /-- MCST (R243). -/
  | mcst (f : EF)
  /-- SKADD (R245). -/
  | skadd (f : EF)
  /-- SKSCL (R245). -/
  | skscl (f : EF)
  /-- SKZERO (R245). -/
  | skzero (f : EF)
  /-- MULOAD (R246). -/
  | muload (f : EF)
  /-- EPLOAD (R246). -/
  | epload (f : EF)
  /-- EQUIET (R247). -/
  | equiet (f : EF)
  /-- ONOP (R81). -/
  | onop (f : OF)
  /-- ORD (R183). -/
  | ord (f : OF)
  /-- OWR (R183). -/
  | owr (f : OF)
  /-- OADD (R183). -/
  | oadd (f : OF)
  /-- OZERO (R183). -/
  | ozero (f : OF)
  /-- OSCL (R183). -/
  | oscl (f : OF)
  /-- XNOP (R81). -/
  | xnop (f : XF)
  /-- XCP (R179). -/
  | xcp (f : XF)
  /-- XBC (R179). -/
  | xbc (f : XF)
  /-- XSUM (R180). -/
  | xsum (f : XF)
  /-- XMAX (R180). -/
  | xmax (f : XF)
  /-- XSHF (R179). -/
  | xshf (f : XF)
  /-- XS2V (R179). -/
  | xs2v (f : XF)
  /-- XV2S (R179). -/
  | xv2s (f : XF)
  /-- VNOP (R81). -/
  | vnop (f : VF)
  /-- LDV (R170). -/
  | ldv (f : VF)
  /-- STV (R170). -/
  | stv (f : VF)
  /-- LDG (R170). -/
  | ldg (f : VF)
  /-- STG (R170). -/
  | stg (f : VF)
  /-- LDT (R171). -/
  | ldt (f : VF)
  /-- LDX (R172). -/
  | ldx (f : VF)
  /-- UNPK (R173). -/
  | unpk (f : VF)
  /-- GATH (R174). -/
  | gath (f : VF)
  /-- SCAT (R174). -/
  | scat (f : VF)
  /-- VAMO (R175). -/
  | vamo (f : VF)
  /-- SKUPD (R396). -/
  | skupd (f : VF)
  /-- SKQRY (R397). -/
  | skqry (f : VF)
  /-- PUSHQ (R178). -/
  | pushq (f : VF)
  /-- NONE (R98). -/
  | unitNone (f : TF)
  /-- IADD (R152). -/
  | iadd (f : TF)
  /-- ISUB (R152). -/
  | isub (f : TF)
  /-- IMUL (R152). -/
  | imul (f : TF)
  /-- IMULH (R152). -/
  | imulh (f : TF)
  /-- TRIAD_AND (R152). -/
  | triadAnd (f : TF)
  /-- TRIAD_OR (R152). -/
  | triadOr (f : TF)
  /-- TRIAD_XOR (R152). -/
  | triadXor (f : TF)
  /-- TRIAD_SHL (R152). -/
  | triadShl (f : TF)
  /-- TRIAD_SHR (R152). -/
  | triadShr (f : TF)
  /-- TRIAD_SRA (R152). -/
  | triadSra (f : TF)
  /-- IMIN (R152). -/
  | imin (f : TF)
  /-- IMAX (R152). -/
  | imax (f : TF)
  /-- FADD (R153). -/
  | fadd (f : TF)
  /-- FSUB (R153). -/
  | fsub (f : TF)
  /-- FMUL (R153). -/
  | fmul (f : TF)
  /-- FMIN (R153). -/
  | fmin (f : TF)
  /-- FMAX (R153). -/
  | fmax (f : TF)
  /-- CMPLT (R154). -/
  | cmplt (f : TF)
  /-- CMPEQ (R154). -/
  | cmpeq (f : TF)
  /-- TRIAD_SEL (R155). -/
  | triadSel (f : TF)
  /-- TRIAD_CVT (R158). -/
  | triadCvt (f : TF)
  /-- TRIAD_NRW (R160). -/
  | triadNrw (f : TF)
  /-- SRND (R159). -/
  | srnd (f : TF)
  /-- TRIAD_EXP2 (R163). -/
  | triadExp2 (f : TF)
  /-- LOG2 (R163). -/
  | triadLog2 (f : TF)
  /-- RCP (R163). -/
  | triadRcp (f : TF)
  /-- RSQ (R163). -/
  | triadRsq (f : TF)
  /-- PERM (R156). -/
  | perm (f : TF)
  /-- ABS (R152). -/
  | triadAbs (f : TF)
  /-- PACK (R157). -/
  | pack (f : TF)
  /-- MUNOP (R201). -/
  | munop (f : WF)
  /-- ZACC (R206). -/
  | zacc (f : WF)
  /-- WLD (R204). -/
  | wld (f : WF)
  /-- WSTR (R203). -/
  | wstr (f : WF)
  /-- ASTR (R203). -/
  | astr (f : WF)
  /-- ACHN (R210). -/
  | achn (f : WF)
  /-- RUN (R207). -/
  | runW (f : WF)
  /-- OPRK (R209). -/
  | oprk (f : WF)
  /-- SPSEL (R205). -/
  | spsel (f : WF)
  /-- DRN (R212). -/
  | drn (f : WF)
  /-- CKSV (R214). -/
  | cksv (f : WF)
  /-- MLP (R201). -/
  | mlp (f : WF)
  /-- MBRN (R201). -/
  | mbrn (f : WF)
  /-- MEND (R201). -/
  | mend (f : WF)
  /-- MWAIT (R202). -/
  | mwait (f : WF)
  /-- MSIG (R202). -/
  | msig (f : WF)
  /-- PADD (R201). -/
  | padd (f : WF)
  /-- PSET (R201). -/
  | pset (f : WF)
  /-- DONE (R219). -/
  | epiDone (f : PF)
  /-- LDB (R220). -/
  | ldb (f : PF)
  /-- EPI_ADD (R219). -/
  | epiAdd (f : PF)
  /-- EPI_MUL (R219). -/
  | epiMul (f : PF)
  /-- FMA (R219). -/
  | epiFma (f : PF)
  /-- EPI_MAX (R219). -/
  | epiMax (f : PF)
  /-- EPI_MIN (R219). -/
  | epiMin (f : PF)
  /-- RELU (R219). -/
  | relu (f : PF)
  /-- TBL (R221). -/
  | epiTbl (f : PF)
  /-- EPI_EXP2 (R219). -/
  | epiExp2 (f : PF)
  /-- EPI_CVT (R219). -/
  | epiCvt (f : PF)
  /-- EPI_NRW (R222). -/
  | epiNrw (f : PF)
  /-- RMAX (R219). -/
  | rmax (f : PF)
  /-- RSUM (R219). -/
  | rsum (f : PF)
  /-- WRT (R223). -/
  | wrt (f : PF)
  /-- PUSH (R224). -/
  | epiPush (f : PF)
  /-- SCAL (R219). -/
  | scal (f : PF)
  /-- CLMP (R219). -/
  | clmp (f : PF)
  /-- EPI_SEL (R219). -/
  | epiSel (f : PF)
  /-- HTLBI (R261). -/
  | htlbi (f : RF)
  /-- HTLBF (R261). -/
  | htlbf (f : RF)
  /-- DEBUGGER_RESUME (R320). -/
  | debuggerResume (c : Fin 4)
  /-- PREEMPTION_ORDER (R366). -/
  | preemptionOrder (c : Fin 4)
  /-- RANDOM_ENTRY_GENERATED (R260). -/
  | randomEntryGenerated (c : Fin 4)
  /-- TLB_INVALIDATION_APPLIED (R261). -/
  | tlbInvalidationApplied (t : TlbRef)
  /-- MANAGEMENT_CORE_ACCESS (R385). -/
  | managementCoreAccess (wr : Bool) (pa : BitVec 56) (bytes : List (BitVec 8))
  /-- WHOLE_CORE_SELF_TEST (R434). -/
  | wholeCoreSelfTest (pass : Bool)
  /-- LINK_RETRY (R426). -/
  | linkRetry (port : BitVec 8)
  /-- FABRIC_PATH_LOSS (R341). -/
  | fabricPathLoss (p : BitVec 10)
  /-- BUNDLE_ISSUE (R86). -/
  | bundleIssue
  /-- BUNDLE_SKIP (R91). -/
  | bundleSkip
  /-- CONTEXT_SWITCH (R318). -/
  | contextSwitch
  /-- CALL_SELECT (R187). -/
  | callSelect
  /-- CALL_COMPLETE (R189). -/
  | callComplete
  /-- SCHEDULER_PASS (R355). -/
  | schedulerPass
  /-- BALLAST_ADMIT (R362). -/
  | ballastAdmit
  /-- INVALIDATE (R391). -/
  | invalidate
  /-- CHUNK_SEND (R339). -/
  | chunkSend
  /-- HOLD_RELEASE (R444). -/
  | holdRelease
  /-- HOLD_TIMEOUT (R444). -/
  | holdTimeout
  /-- SAMPLE (R441). -/
  | sample
  /-- THERMAL_EVALUATION (R453). -/
  | thermalEvaluation
  /-- QTAIL (R422). -/
  | qtail
  /-- QSTAT (R421). -/
  | qstat
  /-- IQTAIL (R423). -/
  | iqtail
  /-- PFACK (R388). -/
  | pfack
  /-- ERRDROP (R407). -/
  | errdrop
  /-- DBGSEL (R445). -/
  | dbgsel
  /-- THCFG (R451). -/
  | thcfg
  /-- THSTAT (R452). -/
  | thstat
  /-- PWRCFG (R455). -/
  | pwrcfg
  /-- MGMT_REG_WRITE (R407). -/
  | mgmtRegWrite
  /-- GTB_TARGET_REACHED (R251). -/
  | gtbTargetReached
  /-- POWER_OFF (R461). -/
  | powerOff
  deriving DecidableEq, Repr

end Sys2Proof
end

