-- ==== Sys2Proof/Machine/Check.lean ====
section
/-! DEFINITION. Check 8 of R75: every must-be-zero operand bit is zero and no reserved operand code is used, entry by
entry (R95, R104, R150, R164, R181, R199, R216, R228, R248). `operandsOk` is what `Instr.wf` (WellFormed.lean), the bundle
decoder, the matrix sequencer and the epilogue unit ask. -/

namespace Sys2Proof

open Sys2Proof.Machine

/-! ### S and M slots (R135 to R146, R184, R248); bit b of the syllable is bit b − 12 of `x` -/

/-- The operand field of an S or M syllable, in syllable bit numbers. -/
def SF.f (f : SF) (lo len : Nat) : Nat := nfld f.x.toNat (lo - 12) len

/-- The bits of the operand field from `lo` up are zero. -/
def SF.top (f : SF) (lo : Nat) : Bool := decide (f.x.toNat < 2 ^ (lo - 12))

def okLoop (f : SF) : Bool := f.top 29 && decide (f.f 18 3 ≤ 5) && decide (f.f 12 6 + f.f 18 3 ≤ 63)

/-- GLOG and KLOG: operands that an operation ignores are zero (R141). -/
def okLog (f : SF) : Bool :=
  f.top 27 && (decide (f.f 24 3 < 5) || (f.f 20 4 == 0 && (f.f 24 3 == 5 || f.f 16 4 == 0)))

/-! ### A slot (R104 to R134) -/

/-- Qualifier and class are zero. -/
def AF.plain (f : AF) : Bool := f.q == 0 && f.cls == 0

/-- The register form s[d] := op(s[a], s[b]) (R108). -/
def okReg (f : AF) (ws : Nat) : Bool := decide (f.w.toNat < ws) && f.plain && f.imm == 0

/-- LDS and STS (R115), with the qualifiers allowed. -/
def okMem (f : AF) (q : BitVec 3) : Bool := decide (f.b.toNat < 6) && (f.q == 0 || f.q == q)

/-- AMO (R118 to R120). -/
def okAmo (f : AF) : Bool :=
  let op := nfld f.imm.toNat 0 4
  let sc := nfld f.imm.toNat 4 3
  !f.st && decide (f.w.toNat < 2) && decide (f.imm.toNat < 128) && decide (op < 12) && decide (sc < 6) &&
    decide (f.q.toNat < 5) && (decide (op < 10) || f.w == 0) && (f.q != 4 || decide (4 ≤ sc))

/-- FENCE (R122). -/
def okFence (f : AF) : Bool :=
  !f.st && f.w == 0 && f.a == 0 && f.b == 0 && f.d == 0 && f.cls == 0 && decide (1 ≤ f.q.toNat) && decide (f.q.toNat ≤ 3) &&
    decide (f.imm.toNat < 2 ^ 19) && decide (nfld f.imm.toNat 0 16 ≠ 0) && decide (nfld f.imm.toNat 16 3 < 6)

/-- The tile-table instructions (R125). -/
def okTile (f : AF) (a b d : Bool) : Bool :=
  !f.st && f.w == 0 && f.plain && decide (f.imm.toNat < 256) && (a || f.a == 0) && (b || f.b == 0) && (d || f.d == 0)

/-- CVTS (R133). -/
def okCvts (f : AF) : Bool :=
  !f.st && f.w == 0 && f.b == 0 && f.plain && decide (f.imm.toNat < 512) && decide (nfld f.imm.toNat 0 4 < 7) &&
    decide (nfld f.imm.toNat 4 4 < 7)

/-! ### V slot (R164 to R178) -/

/-- An address form: group select 0–8 and an element type or operation below `tys` (R95, R165). -/
def okVec (f : VF) (tys : Nat) : Bool := decide (f.gs.toNat ≤ 8) && decide (f.ty.toNat < tys)

/-- The pair v[N], v[N+1], without a sticky form (R174). -/
def okPair (f : VF) (qs : Nat) : Bool := !f.st && decide (f.v.toNat < 31) && decide (f.q.toNat < qs)

/-- VAMO: which operations a bank has (R175). -/
def okVamo (f : VF) : Bool :=
  okVec f 8 && okPair f 3 && (f.q != 1 || !f.peer) && (f.q == 1 || !(f.ty == 0 || f.ty == 6 || f.ty == 7))

/-- UNPK (R173). -/
def okUnpk (f : VF) : Bool :=
  !f.peer && !f.st && decide (f.ty.toNat < 4) && f.base == 0 && decide (f.gs.toNat < 8) && f.q == 0 && f.cls == 0 &&
    decide (f.imm.toNat < 512) && nfld f.imm.toNat 2 2 == 0 && (decide (2 ≤ f.ty.toNat) || decide (nfld f.imm.toNat 0 2 < 2))

/-! ### E slot (R228) -/

/-- The tokens and zero fields of a command; `vc` and `dreg` say whether the command has those fields. -/
def okCmd (f : EF) (vc dreg : Bool) : Bool :=
  f.q == 0 && (f.thr != 0 || f.wsem == 0) && (f.inc != 0 || f.sig == 0) && (vc || f.vc == 0) && (dreg || f.dreg == 0)

/-! ### O slot (R181, R183) -/

def OF.zeros (f : OF) : Bool := f.z0 == 0 && f.z1 == 0 && f.z2 == 0 && f.cls == 0
/-- Rows row to row + count − 1 exist. -/
def OF.rowsOk (f : OF) : Bool := decide (f.row.toNat + f.cnt.toNat + 1 ≤ 128)
def okOrow (f : OF) : Bool := f.zeros && f.cnt == 0 && decide (f.gs.toNat ≤ 8) && (f.gs != 8 || f.seg == 0)

/-! ### Triads (R97, R98, R150) -/

/-- The opcode of the unit that an instruction is. -/
def TF.code (f : TF) : Nat :=
  match f.pos with
  | .alpha => f.al.toNat
  | .beta => f.be.toNat
  | .gamma => f.ga.toNat

/-- Whether a unit's opcode is assigned and allowed in that unit (check 7, R98). -/
def unitAllowed (p : UPos) (c : Nat) : Bool :=
  decide (c < 31) &&
    (match p with
     | .alpha => !(c == 3 || c == 4 || c == 15 || (decide (22 ≤ c) && decide (c ≤ 27)) || c == 30)
     | .beta => !((decide (22 ≤ c) && decide (c ≤ 28)) || c == 30)
     | .gamma => !(c == 3 || c == 4 || c == 15 || c == 28))

/-- Check 7 of a triad. -/
def TF.unitsOk (f : TF) : Bool :=
  unitAllowed .alpha f.al.toNat && unitAllowed .beta f.be.toNat && unitAllowed .gamma f.ga.toNat

/-- The working type after a unit (R150). -/
def typeAfter (c : Nat) (t sel : Nat) : Nat := if c = 21 ∨ c = 23 then sel else t

/-- The working type at the unit that an instruction is (R150). -/
def TF.typeAt (f : TF) : Nat :=
  let t0 := f.ty.toNat
  let t1 := typeAfter f.al.toNat t0 f.sel.toNat
  match f.pos with
  | .alpha => t0
  | .beta => t1
  | .gamma => typeAfter f.be.toNat t1 f.sel.toNat

/-- Whether a unit gives `sel` a meaning (R155 to R160). -/
def usesSel (c : Nat) : Bool := c == 20 || c == 21 || c == 22 || c == 23 || c == 30

/-- A unit's working type and `sel` code are allowed (R150, R159). -/
def unitOk (c t sel : Nat) : Bool :=
  (!(decide (13 ≤ c) && decide (c ≤ 17)) || decide (3 ≤ t)) &&
  (!((decide (24 ≤ c) && decide (c ≤ 27)) || c == 22) || t == 3) &&
  (!(c == 21 || c == 23 || c == 30) || decide (sel < 6)) &&
  (c != 22 || decide (sel < 4)) &&
  (c != 23 || t == 0 || t == 3)

/-- Check 8 of a triad. Lane types 6 and 7 are only for a first unit CVT; `sel` is zero where no unit gives it a meaning,
and with PERM (R156). -/
def TF.operandsOk (f : TF) : Bool :=
  let a := f.al.toNat
  let b := f.be.toNat
  let g := f.ga.toNat
  let t1 := typeAfter a f.ty.toNat f.sel.toNat
  let t2 := typeAfter b t1 f.sel.toNat
  let first := if a ≠ 0 then a else if b ≠ 0 then b else g
  let s := f.sel.toNat
  !f.z && !(decide (52 ≤ f.dest.toNat) && decide (f.dest.toNat ≤ 62)) && (decide (f.ty.toNat < 6) || first == 21) &&
    (!f.fuse || (b == 15 && (g == 13 || g == 14))) && (s == 0 || ((usesSel a || usesSel b || usesSel g) && a != 28)) &&
    unitOk a f.ty.toNat s && unitOk b t1 s && unitOk g t2 s

/-- A triad instruction carries the opcode it stands for, in a unit that allows it, in a well-formed triad. -/
def okUnit (f : TF) (c : Nat) : Bool := f.code == c && f.unitsOk && f.operandsOk

/-! ### Microprogram words (R199 to R214) -/

def WF.mid (f : WF) (f1 f2 f3 f4 : Bool) : Bool := (f1 || f.f1 == 0) && (f2 || f.f2 == 0) && (f3 || f.f3 == 0) && (f4 || f.f4 == 0)
/-- Rows row0 to row0 + count − 1 exist (R206). -/
def WF.rowsOk (f : WF) : Bool := decide (f.f3.toNat + f.f4.toNat + 1 ≤ 128)
/-- An operand format code that is assigned (R193). -/
def fmtOk (c : Nat) : Bool := decide (c < 4) || (decide (8 ≤ c) && decide (c < 16))
/-- A scratchpad source: format, scale register (KB only) and stride (R203). -/
def WF.srcOk (f : WF) : Bool :=
  decide (f.f1.toNat < 16) && fmtOk f.f1.toNat && decide (f.f2.toNat < 8) && (decide (8 ≤ f.f1.toNat) || f.f2 == 0) &&
    f.mid true true false false && decide (1 ≤ f.imm.toNat) && decide (f.imm.toNat ≤ 0x180000)
/-- A branch target (R201). -/
def WF.targetOk (f : WF) : Bool := decide (256 ≤ f.imm.toNat) && decide (f.imm.toNat < 8192)

/-! ### Epilogue instructions (R216 to R224) -/

def PF.uses (f : PF) (d a b c : Bool) (fs : Nat) : Bool :=
  (d || f.d == 0) && (a || f.a == 0) && (b || f.b == 0) && (c || f.c == 0) && decide (f.f.toNat < fs)

/-- Check 8 for every instruction; a machine event has no encoding. -/
def operandsOk (i : Instr) : Bool :=
  match i with
  | .bundleIssue => true
  | .bundleSkip => true
  | .resultLand _ => true
  | .loadReturn _ => true
  | .contextSwitch => true
  | .queueEntryVisible _ _ _ => true
  | .skqryAnswer _ => true
  | .semWaitSatisfied _ => true
  | .ssigSignal _ => true
  | .commandStart _ _ _ => true
  | .copyElement _ _ => true
  | .commandComplete _ _ => true
  | .weightBlockDeliver _ => true
  | .callSelect => true
  | .callComplete => true
  | .bankAccess _ => true
  | .tileDrainComplete _ => true
  | .tileStallTimeout _ => true
  | .storePerform _ _ => true
  | .propagateStep _ _ => true
  | .fillStep _ _ => true
  | .dropStep _ _ => true
  | .loadStep _ _ => true
  | .releaseComplete _ => true
  | .homeServe _ => true
  | .haspReleaseDelivery _ => true
  | .trapRestore _ => true
  | .parityTrap _ _ => true
  | .debuggerStop _ => true
  | .schedulerPass => true
  | .launchEnd _ => true
  | .timeLimit _ => true
  | .killed _ => true
  | .resume _ => true
  | .ballastAdmit => true
  | .tlbWalk _ _ => true
  | .writeRetranslate _ _ => true
  | .invalidate => true
  | .mcstStamp _ _ => true
  | .blockApply _ => true
  | .viewChange _ _ => true
  | .packageLoss _ => true
  | .digest _ _ _ => true
  | .sendPermit _ _ _ => true
  | .chunkSend => true
  | .chunkReceive _ _ _ => true
  | .selfTest _ _ => true
  | .selfTestResult _ _ => true
  | .holdRelease => true
  | .holdTimeout => true
  | .sample => true
  | .sensorRefresh _ _ _ => true
  | .thermalEvaluation => true
  | .dramRefresh _ => true
  | .activationAlert _ => true
  | .boot _ _ => true
  | .attestationReport _ _ => true
  | .hostBar2Access _ _ _ => true
  | .qtail => true
  | .qstat => true
  | .iqtail => true
  | .pfack => true
  | .errdrop => true
  | .dbgsel => true
  | .thcfg => true
  | .thstat => true
  | .pwrcfg => true
  | .mgmtRegWrite => true
  | .snop f => f.x == 0
  | .br _ => true
  | .bri f => f.top 18
  | .callS _ => true
  | .ret f => f.x == 0
  | .loopS f => okLoop f
  | .loopsp f => f.top 29
  | .lbrk f => f.top 14
  | .glog f => okLog f
  | .klog f => okLog f
  | .kmovFromK f => f.top 23
  | .kmovToK f => f.top 24 && f.f 23 1 == 1
  | .markS _ => true
  | .nodeS f => f.top 28
  | .endCtx f => f.x == 0
  | .sstep f => f.x == 0
  | .bara f => decide (f.x.toNat < 48)
  | .barw f => decide (f.x.toNat < 48)
  | .swait f => decide (f.f 20 10 ≠ 0)
  | .ssig f => f.top 30 && decide (f.f 20 10 ≠ 0)
  | .ssigClr f => f.f 31 1 == 1 && f.f 20 11 == 0
  | .fcrw f => f.top 18
  | .fsrr f => f.top 18
  | .fsrrClear f => f.top 25 && f.f 24 1 == 1
  | .sysr f => f.top 24 && decide (f.f 18 6 ≠ 0) && decide (f.f 18 6 < 0xF)
  | .sysw f => f.top 24 && decide (f.f 18 6 ≠ 0) && decide (f.f 18 6 < 0xF)
  | .lsupd f => f.top 22
  | .rseek f => f.top 24
  | .brk _ => true
  | .semrd f => f.top 26
  | .gtbr f => f.top 18
  | .waitt f => f.top 19
  | .qmask f => f.top 21
  | .anop f => okReg f 1 && f.a == 0 && f.b == 0 && f.d == 0
  | .add f => okReg f 2
  | .sub f => okReg f 2
  | .mul f => okReg f 2
  | .mulh f => okReg f 2
  | .div f => okReg f 2
  | .divu f => okReg f 2
  | .andA f => okReg f 2
  | .orA f => okReg f 2
  | .xorA f => okReg f 2
  | .shl f => okReg f 2
  | .shr f => okReg f 2
  | .sra f => okReg f 2
  | .minA f => okReg f 2
  | .maxA f => okReg f 2
  | .addi f => decide (f.w.toNat < 2) && f.b == 0 && f.plain
  | .li f => f.w == 0 && f.a == 0 && f.b == 0 && f.plain
  | .lih f => f.w == 0 && f.a == 0 && f.b == 0 && f.plain
  | .lihChunk1 f => f.w == 1 && f.a == 0 && f.b == 0 && f.plain && (f.st || decide (f.imm.toNat < 2 ^ 16))
  | .cmp f => f.w == 0 && f.q != 7 && f.cls == 0 && f.imm == 0 && decide (f.d.toNat < 16)
  | .cmpImmediate f => f.w == 1 && f.b == 0 && f.q != 7 && f.cls == 0 && decide (f.d.toNat < 16)
  | .selA f => !f.st && f.w == 0 && f.plain && decide (f.imm.toNat < 16)
  | .movmToM f => okReg f 1 && f.b == 0 && decide (f.d.toNat < 8)
  | .movmFromM f => f.w == 1 && okReg f 2 && f.b == 0 && decide (f.a.toNat < 8)
  | .movsToS f => okReg f 1 && f.a == 0 && f.b == 0
  | .movsToG f => f.w == 1 && okReg f 2 && f.b == 0 && f.d == 0
  | .lds f => okMem f 1
  | .sts f => okMem f 2
  | .amo f => okAmo f
  | .fence f => okFence f
  | .probe f => !f.st && f.w != 3 && f.b == 0 && f.plain
  | .tdef f => okTile f true true false
  | .tfree f => okTile f false false false
  | .tstat f => okTile f false false true
  | .tdesc f => okTile f false false true
  | .bfxcfg f => okReg f 1 && decide (f.d.toNat < 4)
  | .ssrcfg f => okReg f 1 && decide (f.d.toNat < 4)
  | .ssrclr f => okReg f 1 && f.a == 0 && f.b == 0 && decide (f.d.toNat < 4)
  | .ssrclrSatd f => f.w == 1 && okReg f 2 && f.a == 0 && f.b == 0 && decide (f.d.toNat < 4)
  | .ssrrd f => okReg f 1 && decide (f.a.toNat < 4)
  | .ssrwr f => okReg f 1 && decide (f.d.toNat < 4)
  | .cvts f => okCvts f
  | .fadds f => okReg f 1
  | .faddsNegated f => f.w == 1 && okReg f 2
  | .fmuls f => okReg f 1
  | .fmas f => okReg f 4
  | .fcmps f => f.w == 0 && decide (f.q.toNat < 5) && f.cls == 0 && f.imm == 0 && decide (f.d.toNat < 16)
  | .mnop f => f.x == 0
  | .mcall f => f.top 20
  | .mquiet f => f.x == 0
  | .enop f => okCmd f false false && f.thr == 0 && f.inc == 0 && f.toff == 0
  | .copy f => okCmd f true true
  | .tload f => okCmd f true true
  | .coll f => okCmd f false true
  | .mcst f => okCmd f true true
  | .skadd f => okCmd f true true
  | .skscl f => okCmd f false true
  | .skzero f => okCmd f false true
  | .muload f => okCmd f false true
  | .epload f => okCmd f false true
  | .equiet f => okCmd f false false && f.toff == 0xFFFF
  | .onop f => f.zeros && f.seg == 0 && f.v == 0 && f.row == 0 && f.acc == 0 && f.cnt == 0 && f.gs == 0
  | .ord f => okOrow f
  | .owr f => okOrow f
  | .oadd f => okOrow f
  | .ozero f => f.zeros && f.seg == 0 && f.v == 0 && f.gs == 0 && f.rowsOk
  | .oscl f => f.zeros && f.seg == 0 && decide (f.gs.toNat < 8) && f.rowsOk
  | .xnop f => f.fn == 0 && f.d == 0 && f.v == 0 && f.h == 0 && f.j == 0
  | .xcp _ => true
  | .xbc f => f.h == 0
  | .xsum f => decide (f.j.toNat < 6)
  | .xmax f => decide (f.j.toNat < 6)
  | .xshf f => decide (f.fn.toNat < 2)
  | .xs2v f => f.j == 0
  | .xv2s f => f.h == 0
  | .vnop f => !f.peer && f.ty == 0 && f.base == 0 && f.gs == 0 && f.v == 0 && f.q == 0 && f.cls == 0 && f.imm == 0
  | .ldv f => okVec f 9 && decide (f.q.toNat < 2)
  | .stv f => okVec f 9 && decide (f.q.toNat < 2) && (f.q == 0 || f.ty == 0)
  | .ldg f => okVec f 9 && !f.peer && decide (f.q.toNat < 3)
  | .stg f => okVec f 9 && !f.peer && decide (f.q.toNat < 3)
  | .ldt f => okVec f 16 && f.q == 0
  | .ldx f => okVec f 8 && f.q == 0
  | .unpk f => okUnpk f
  | .gath f => okVec f 9 && okPair f 2 && (f.q == 0 || !f.peer)
  | .scat f => okVec f 9 && okPair f 2 && (f.q == 0 || !f.peer)
  | .vamo f => okVamo f
  | .skupd f => okVec f 1 && okPair f 2 && !f.peer
  | .skqry f => okVec f 1 && f.q == 0 && !f.peer && !f.st
  | .pushq f => okVec f 9 && f.q == 0 && decide (f.v.toNat < 4)
  | .unitNone f => okUnit f 0
  | .iadd f => okUnit f 1
  | .isub f => okUnit f 2
  | .imul f => okUnit f 3
  | .imulh f => okUnit f 4
  | .triadAnd f => okUnit f 5
  | .triadOr f => okUnit f 6
  | .triadXor f => okUnit f 7
  | .triadShl f => okUnit f 8
  | .triadShr f => okUnit f 9
  | .triadSra f => okUnit f 10
  | .imin f => okUnit f 11
  | .imax f => okUnit f 12
  | .fadd f => okUnit f 13
  | .fsub f => okUnit f 14
  | .fmul f => okUnit f 15
  | .fmin f => okUnit f 16
  | .fmax f => okUnit f 17
  | .cmplt f => okUnit f 18
  | .cmpeq f => okUnit f 19
  | .triadSel f => okUnit f 20
  | .triadCvt f => okUnit f 21
  | .triadNrw f => okUnit f 22
  | .srnd f => okUnit f 23
  | .triadExp2 f => okUnit f 24
  | .triadLog2 f => okUnit f 25
  | .triadRcp f => okUnit f 26
  | .triadRsq f => okUnit f 27
  | .perm f => okUnit f 28
  | .triadAbs f => okUnit f 29
  | .pack f => okUnit f 30
  | .munop f => f.f0 == 0 && f.mid false false false false && f.imm == 0
  | .zacc f => decide (f.f0.toNat < 8) && f.mid false false true true && f.rowsOk && f.imm == 0
  | .wld f => decide (f.f0.toNat < 2) && f.mid false false true true && decide (f.f4.toNat < 2)
  | .wstr f => decide (f.f0.toNat < 16) && (if f.f0.toNat < 8 then f.srcOk else f.f0 == 8 && decide (f.f1.toNat < 16) && fmtOk f.f1.toNat && f.mid true false false false && f.imm == 0)
  | .astr f => decide (f.f0.toNat < 8) && f.srcOk
  | .achn f => decide (f.f0.toNat < 8) && decide (f.f1.toNat < 4) && f.mid true false true true && f.rowsOk && decide (f.imm.toNat < 128)
  | .runW f => decide (f.f0.toNat < 32) && f.mid false false true true && f.rowsOk
  | .oprk f => decide (f.f0.toNat < 8) && f.mid false false true true && decide (f.f4.toNat < 2) && f.imm == 0
  | .spsel f => nfld f.f0.toNat 1 2 == 0 && f.mid false false false false
  | .drn f => f.mid true false true true && decide (f.f1.toNat < 32) && (nfld f.f1.toNat 3 1 == 1 || nfld f.f1.toNat 0 3 == 0) && f.rowsOk && f.imm != 0 && nfld f.imm.toNat 0 6 == 0
  | .cksv f => decide (f.f0.toNat < 16) && f.mid false false false false
  | .mlp f => decide (f.f0.toNat < 8) && f.mid false false false false && f.targetOk
  | .mbrn f => decide (f.f0.toNat < 8) && decide (f.f1.toNat < 8) && decide (f.f2.toNat < 6) && f.mid true true false false && f.targetOk
  | .mend f => f.f0 == 0 && f.mid false false false false && f.imm == 0
  | .mwait f => f.f0 == 0 && f.mid false false true true && f.f4 != 0 && decide (f.f4.toNat < 16) && f.imm == 0
  | .msig f => f.f0 == 0 && f.mid false false true true && f.f4 != 0 && decide (f.f4.toNat < 16) && f.imm == 0
  | .padd f => decide (f.f0.toNat < 8) && decide (f.f1.toNat < 8) && f.mid true false false false
  | .pset f => decide (f.f0.toNat < 8) && f.mid false false false true && decide (f.f4.toNat < 3) && (f.f4 != 2 || decide (f.imm.toNat < 2 ^ 16))
  | .epiDone f => f.uses false false false false 1
  | .ldb f => f.uses true true false false (2 ^ 15) && nfld f.f.toNat 0 2 != 3
  | .epiAdd f => f.uses true true true false 1
  | .epiMul f => f.uses true true true false 1
  | .epiFma f => f.uses true true true true 1
  | .epiMax f => f.uses true true true false 1
  | .epiMin f => f.uses true true true false 1
  | .relu f => f.uses true true false false 1
  | .epiTbl f => f.uses true true false false 8
  | .epiExp2 f => f.uses true true false false 1
  | .epiCvt f => f.uses true true false false 6
  | .epiNrw f => f.uses true true false false 4
  | .rmax f => f.uses true true false false 1
  | .rsum f => f.uses true true false false 1
  | .wrt f => f.uses false true false false (2 ^ 15) && (nfld f.f.toNat 0 2 == 3 || nfld f.f.toNat 2 5 == 0)
  | .epiPush f => f.uses false true false false 1
  | .scal f => f.uses true true false false 8
  | .clmp f => f.uses true true true true 1
  | .epiSel f => f.uses true true true true 1
  | .htlbi f => f.rd == 0
  | .htlbf f => f.rd == 0 && f.rs1 == 0 && f.rs2 == 0
  | .debuggerResume _ => true
  | .preemptionOrder _ => true
  | .gtbTargetReached => true
  | .randomEntryGenerated _ => true
  | .tlbInvalidationApplied _ => true
  | .managementCoreAccess _ _ _ => true
  | .wholeCoreSelfTest _ => true
  | .linkRetry _ => true
  | .fabricPathLoss _ => true
  | .powerOff => true

end Sys2Proof
end

