-- ==== Sys2Proof/WellFormed.lean ====
section
/-! DEFINITION. Well-formed instructions: those that pass check 8 of R75. An instruction that the decoder reads and that is
not well formed makes its bundle fault ILLEGAL_OPERAND (R75), or its word or epilogue instruction fault (R191). -/

namespace Sys2Proof

/-- Every must-be-zero field is zero and no reserved code is used. -/
def Instr.wf (i : Instr) : Bool := operandsOk i

end Sys2Proof
end

