-- ==== Sys2Proof/Decode.lean ====
section
/-! DEFINITION. The decoder and the encoder: slots (R93 to R98, R103), microprogram words (R199), epilogue instructions
(R216), the two management-core instructions (R261), and the framing of a bundle with the decode checks of R75. -/

namespace Sys2Proof

open Sys2Proof.Machine

/-! ### Fields -/

def sfOf (w : W32) : SF := ⟨w.extractLsb' 12 20, w.extractLsb' 2 4, w.getLsbD 1⟩
def xfOf (w : W32) : XF :=
  ⟨w.extractLsb' 28 4, w.extractLsb' 23 5, w.extractLsb' 18 5, w.extractLsb' 15 3, w.extractLsb' 12 3, w.extractLsb' 2 4,
   w.getLsbD 1⟩
def afOf (w0 w1 : W32) : AF :=
  ⟨w0.extractLsb' 30 2, w0.extractLsb' 24 6, w0.extractLsb' 18 6, w0.extractLsb' 12 6, w1.extractLsb' 29 3,
   w1.extractLsb' 25 4, w1.extractLsb' 1 24, w0.extractLsb' 2 4, w0.getLsbD 1⟩
def vfOf (w0 w1 : W32) : VF :=
  ⟨w0.getLsbD 31, w0.extractLsb' 27 4, w0.extractLsb' 21 6, w0.extractLsb' 17 4, w0.extractLsb' 12 5,
   w1.extractLsb' 29 3, w1.extractLsb' 25 4, w1.extractLsb' 1 24, w0.extractLsb' 2 4, w0.getLsbD 1⟩
def efOf (w0 w1 : W32) : EF :=
  ⟨w0.extractLsb' 24 8, w0.extractLsb' 20 4, w0.extractLsb' 12 8, w1.extractLsb' 30 2, w1.extractLsb' 27 3,
   w1.extractLsb' 11 16, w1.extractLsb' 5 6, w1.extractLsb' 1 4, w0.extractLsb' 2 4, w0.getLsbD 1⟩
def ofOf (w0 w1 : W32) : OF :=
  ⟨w0.extractLsb' 30 2, w0.extractLsb' 27 3, w0.extractLsb' 22 5, w0.extractLsb' 15 7, w0.extractLsb' 12 3,
   w1.extractLsb' 29 3, w1.extractLsb' 25 4, w1.extractLsb' 12 13, w1.extractLsb' 5 7, w1.extractLsb' 1 4,
   w0.extractLsb' 2 4, w0.getLsbD 1⟩
def tfOf (grp : BitVec 3) (pos : UPos) (w0 w1 : W32) : TF :=
  ⟨grp, pos, w0.getLsbD 31, w0.extractLsb' 25 6, w0.extractLsb' 20 5, w0.extractLsb' 15 5, w0.extractLsb' 10 5,
   w0.extractLsb' 6 4, w0.extractLsb' 2 4, w0.getLsbD 1, w1.getLsbD 31, w1.extractLsb' 28 3, w1.extractLsb' 25 3,
   w1.extractLsb' 19 6, w1.extractLsb' 13 6, w1.extractLsb' 7 6, w1.extractLsb' 1 6⟩
def wfOf (w : W64) : WF :=
  ⟨w.extractLsb' 40 24, w.extractLsb' 32 8, w.extractLsb' 24 8, w.extractLsb' 18 6, w.extractLsb' 12 6, w.extractLsb' 6 6⟩
def pfOf (w : W32) : PF :=
  ⟨w.extractLsb' 17 15, w.extractLsb' 14 3, w.extractLsb' 11 3, w.extractLsb' 8 3, w.extractLsb' 5 3⟩
def rfOf (w : W32) : RF := ⟨w.extractLsb' 20 5, w.extractLsb' 15 5, w.extractLsb' 7 5⟩

/-- Opcode [11:6] of a slot (R93, R94). -/
def opField (w : W32) : Nat := nfld w.toNat 6 6

/-! ### Slots (R103) -/

/-- The S slot. -/
def decodeS (w : W32) : Option Instr :=
  match opField w with
  | 0 => some (.snop (sfOf w))
  | 1 => some (.br (sfOf w))
  | 2 => some (.bri (sfOf w))
  | 3 => some (.callS (sfOf w))
  | 4 => some (.ret (sfOf w))
  | 5 => some (.loopS (sfOf w))
  | 6 => some (.loopsp (sfOf w))
  | 7 => some (.lbrk (sfOf w))
  | 8 => some (.glog (sfOf w))
  | 9 => some (.klog (sfOf w))
  | 10 => some (if w.getLsbD 23 then .kmovToK (sfOf w) else .kmovFromK (sfOf w))
  | 11 => some (.markS (sfOf w))
  | 12 => some (.nodeS (sfOf w))
  | 13 => some (.endCtx (sfOf w))
  | 14 => some (.sstep (sfOf w))
  | 15 => some (.bara (sfOf w))
  | 16 => some (.barw (sfOf w))
  | 17 => some (.swait (sfOf w))
  | 18 => some (if w.getLsbD 31 then .ssigClr (sfOf w) else .ssig (sfOf w))
  | 19 => some (.fcrw (sfOf w))
  | 20 => some (if w.getLsbD 24 then .fsrrClear (sfOf w) else .fsrr (sfOf w))
  | 21 => some (.sysr (sfOf w))
  | 22 => some (.sysw (sfOf w))
  | 23 => some (.lsupd (sfOf w))
  | 24 => some (.rseek (sfOf w))
  | 25 => some (.brk (sfOf w))
  | 26 => some (.semrd (sfOf w))
  | 27 => some (.gtbr (sfOf w))
  | 28 => some (.waitt (sfOf w))
  | 29 => some (.qmask (sfOf w))
  | _ => none

/-- The two forms of one A opcode: w = 0b01 picks the second. -/
def aVar (w0 : W32) (a b : Instr) : Instr := if w0.extractLsb' 30 2 = 1 then b else a

/-- The A slot. -/
def decodeA (w0 w1 : W32) : Option Instr :=
  match opField w0 with
  | 0 => some (.anop (afOf w0 w1))
  | 1 => some (.add (afOf w0 w1))
  | 2 => some (.sub (afOf w0 w1))
  | 3 => some (.mul (afOf w0 w1))
  | 4 => some (.mulh (afOf w0 w1))
  | 5 => some (.div (afOf w0 w1))
  | 6 => some (.divu (afOf w0 w1))
  | 7 => some (.andA (afOf w0 w1))
  | 8 => some (.orA (afOf w0 w1))
  | 9 => some (.xorA (afOf w0 w1))
  | 10 => some (.shl (afOf w0 w1))
  | 11 => some (.shr (afOf w0 w1))
  | 12 => some (.sra (afOf w0 w1))
  | 13 => some (.minA (afOf w0 w1))
  | 14 => some (.maxA (afOf w0 w1))
  | 15 => some (.addi (afOf w0 w1))
  | 16 => some (.li (afOf w0 w1))
  | 17 => some (aVar w0 (.lih (afOf w0 w1)) (.lihChunk1 (afOf w0 w1)))
  | 18 => some (aVar w0 (.cmp (afOf w0 w1)) (.cmpImmediate (afOf w0 w1)))
  | 19 => some (.selA (afOf w0 w1))
  | 20 => some (aVar w0 (.movmToM (afOf w0 w1)) (.movmFromM (afOf w0 w1)))
  | 21 => some (aVar w0 (.movsToS (afOf w0 w1)) (.movsToG (afOf w0 w1)))
  | 22 => some (.lds (afOf w0 w1))
  | 23 => some (.sts (afOf w0 w1))
  | 24 => some (.amo (afOf w0 w1))
  | 25 => some (.fence (afOf w0 w1))
  | 26 => some (.probe (afOf w0 w1))
  | 27 => some (.tdef (afOf w0 w1))
  | 28 => some (.tfree (afOf w0 w1))
  | 29 => some (.tstat (afOf w0 w1))
  | 30 => some (.tdesc (afOf w0 w1))
  | 31 => some (.bfxcfg (afOf w0 w1))
  | 32 => some (.ssrcfg (afOf w0 w1))
  | 33 => some (aVar w0 (.ssrclr (afOf w0 w1)) (.ssrclrSatd (afOf w0 w1)))
  | 34 => some (.ssrrd (afOf w0 w1))
  | 35 => some (.ssrwr (afOf w0 w1))
  | 36 => some (.cvts (afOf w0 w1))
  | 37 => some (aVar w0 (.fadds (afOf w0 w1)) (.faddsNegated (afOf w0 w1)))
  | 38 => some (.fmuls (afOf w0 w1))
  | 39 => some (.fmas (afOf w0 w1))
  | 40 => some (.fcmps (afOf w0 w1))
  | _ => none

/-- The M slot. -/
def decodeM (w : W32) : Option Instr :=
  match opField w with
  | 0 => some (.mnop (sfOf w))
  | 1 => some (.mcall (sfOf w))
  | 2 => some (.mquiet (sfOf w))
  | _ => none

/-- The E slot. -/
def decodeE (w0 w1 : W32) : Option Instr :=
  match opField w0 with
  | 0 => some (.enop (efOf w0 w1))
  | 1 => some (.copy (efOf w0 w1))
  | 2 => some (.tload (efOf w0 w1))
  | 3 => some (.coll (efOf w0 w1))
  | 4 => some (.mcst (efOf w0 w1))
  | 5 => some (.skadd (efOf w0 w1))
  | 6 => some (.skscl (efOf w0 w1))
  | 7 => some (.skzero (efOf w0 w1))
  | 8 => some (.muload (efOf w0 w1))
  | 9 => some (.epload (efOf w0 w1))
  | 10 => some (.equiet (efOf w0 w1))
  | _ => none

/-- The O slot. -/
def decodeO (w0 w1 : W32) : Option Instr :=
  match opField w0 with
  | 0 => some (.onop (ofOf w0 w1))
  | 1 => some (.ord (ofOf w0 w1))
  | 2 => some (.owr (ofOf w0 w1))
  | 3 => some (.oadd (ofOf w0 w1))
  | 4 => some (.ozero (ofOf w0 w1))
  | 5 => some (.oscl (ofOf w0 w1))
  | _ => none

/-- The X slot. -/
def decodeX (w : W32) : Option Instr :=
  match opField w with
  | 0 => some (.xnop (xfOf w))
  | 1 => some (.xcp (xfOf w))
  | 2 => some (.xbc (xfOf w))
  | 3 => some (.xsum (xfOf w))
  | 4 => some (.xmax (xfOf w))
  | 5 => some (.xshf (xfOf w))
  | 6 => some (.xs2v (xfOf w))
  | 7 => some (.xv2s (xfOf w))
  | _ => none

/-- The V slot. -/
def decodeV (w0 w1 : W32) : Option Instr :=
  match opField w0 with
  | 0 => some (.vnop (vfOf w0 w1))
  | 1 => some (.ldv (vfOf w0 w1))
  | 2 => some (.stv (vfOf w0 w1))
  | 3 => some (.ldg (vfOf w0 w1))
  | 4 => some (.stg (vfOf w0 w1))
  | 5 => some (.ldt (vfOf w0 w1))
  | 6 => some (.ldx (vfOf w0 w1))
  | 7 => some (.unpk (vfOf w0 w1))
  | 8 => some (.gath (vfOf w0 w1))
  | 9 => some (.scat (vfOf w0 w1))
  | 10 => some (.vamo (vfOf w0 w1))
  | 11 => some (.skupd (vfOf w0 w1))
  | 12 => some (.skqry (vfOf w0 w1))
  | 13 => some (.pushq (vfOf w0 w1))
  | _ => none

/-- The unit operation of a triad by its 5-bit opcode. -/
def unitInstr (c : Nat) (f : TF) : Option Instr :=
  match c with
  | 0 => some (.unitNone f)
  | 1 => some (.iadd f)
  | 2 => some (.isub f)
  | 3 => some (.imul f)
  | 4 => some (.imulh f)
  | 5 => some (.triadAnd f)
  | 6 => some (.triadOr f)
  | 7 => some (.triadXor f)
  | 8 => some (.triadShl f)
  | 9 => some (.triadShr f)
  | 10 => some (.triadSra f)
  | 11 => some (.imin f)
  | 12 => some (.imax f)
  | 13 => some (.fadd f)
  | 14 => some (.fsub f)
  | 15 => some (.fmul f)
  | 16 => some (.fmin f)
  | 17 => some (.fmax f)
  | 18 => some (.cmplt f)
  | 19 => some (.cmpeq f)
  | 20 => some (.triadSel f)
  | 21 => some (.triadCvt f)
  | 22 => some (.triadNrw f)
  | 23 => some (.srnd f)
  | 24 => some (.triadExp2 f)
  | 25 => some (.triadLog2 f)
  | 26 => some (.triadRcp f)
  | 27 => some (.triadRsq f)
  | 28 => some (.perm f)
  | 29 => some (.triadAbs f)
  | 30 => some (.pack f)
  | _ => none

/-- A triad: its three units, where check 7 holds (R98). -/
def decodeT (grp : BitVec 3) (w0 w1 : W32) : List Instr :=
  if (tfOf grp .alpha w0 w1).unitsOk then
    [UPos.alpha, .beta, .gamma].filterMap (fun p => unitInstr (tfOf grp p w0 w1).code (tfOf grp p w0 w1))
  else []

/-- The instructions of the slot at a position: one, or three for a triad; none where check 7 fails. -/
def decodeSlot (pos : Nat) (w0 w1 : W32) : List Instr :=
  match pos with
  | 0 => (decodeS w0).toList
  | 1 => (decodeA w0 w1).toList
  | 2 => (decodeM w0).toList
  | 3 => (decodeE w0 w1).toList
  | 4 => (decodeO w0 w1).toList
  | 5 => (decodeX w0).toList
  | 6 => (decodeV w0 w1).toList
  | p => decodeT (BitVec.ofNat 3 (p - 7)) w0 w1

/-! ### Words of the matrix stores and of the management cores -/

/-- A microprogram word (R199, R103). -/
def decodeWord (w : W64) : Option Instr :=
  match nfld w.toNat 0 6 with
  | 0 => some (.munop (wfOf w))
  | 1 => some (.zacc (wfOf w))
  | 2 => some (.wld (wfOf w))
  | 3 => some (.wstr (wfOf w))
  | 4 => some (.astr (wfOf w))
  | 5 => some (.achn (wfOf w))
  | 6 => some (.runW (wfOf w))
  | 7 => some (.oprk (wfOf w))
  | 8 => some (.spsel (wfOf w))
  | 9 => some (.drn (wfOf w))
  | 10 => some (.cksv (wfOf w))
  | 11 => some (.mlp (wfOf w))
  | 12 => some (.mbrn (wfOf w))
  | 13 => some (.mend (wfOf w))
  | 14 => some (.mwait (wfOf w))
  | 15 => some (.msig (wfOf w))
  | 16 => some (.padd (wfOf w))
  | 17 => some (.pset (wfOf w))
  | _ => none

/-- An epilogue instruction (R216, R103). -/
def decodeEpi (w : W32) : Option Instr :=
  match nfld w.toNat 0 5 with
  | 0 => some (.epiDone (pfOf w))
  | 1 => some (.ldb (pfOf w))
  | 2 => some (.epiAdd (pfOf w))
  | 3 => some (.epiMul (pfOf w))
  | 4 => some (.epiFma (pfOf w))
  | 5 => some (.epiMax (pfOf w))
  | 6 => some (.epiMin (pfOf w))
  | 7 => some (.relu (pfOf w))
  | 8 => some (.epiTbl (pfOf w))
  | 9 => some (.epiExp2 (pfOf w))
  | 10 => some (.epiCvt (pfOf w))
  | 11 => some (.epiNrw (pfOf w))
  | 12 => some (.rmax (pfOf w))
  | 13 => some (.rsum (pfOf w))
  | 14 => some (.wrt (pfOf w))
  | 15 => some (.epiPush (pfOf w))
  | 16 => some (.scal (pfOf w))
  | 17 => some (.clmp (pfOf w))
  | 18 => some (.epiSel (pfOf w))
  | _ => none

/-- A custom-0 instruction of a management core (R261); none is the illegal-instruction exception. -/
def decodeMgmt (w : W32) : Option Instr :=
  if nfld w.toNat 0 7 = 0x0B ∧ nfld w.toNat 25 7 = 0 then
    match nfld w.toNat 12 3 with
    | 0 => some (.htlbi (rfOf w))
    | 1 => some (.htlbf (rfOf w))
    | _ => none
  else none

/-! ### The encoder -/

/-- [11:0] of a slot's first syllable. -/
def low12 (op : Nat) (g : BitVec 4) (st stop : Bool) : Nat := op * 64 + g.toNat * 4 + st.toNat * 2 + stop.toNat

def encS (op : Nat) (f : SF) (stop : Bool) : List W32 := [BitVec.ofNat 32 (f.x.toNat * 2 ^ 12 + low12 op f.g f.st stop)]
def encX (op : Nat) (f : XF) (stop : Bool) : List W32 :=
  [BitVec.ofNat 32 (f.fn.toNat * 2 ^ 28 + f.d.toNat * 2 ^ 23 + f.v.toNat * 2 ^ 18 + f.h.toNat * 2 ^ 15 + f.j.toNat * 2 ^ 12 +
    low12 op f.g f.st stop)]
def encA (op : Nat) (f : AF) (stop : Bool) : List W32 :=
  [BitVec.ofNat 32 (f.w.toNat * 2 ^ 30 + f.b.toNat * 2 ^ 24 + f.a.toNat * 2 ^ 18 + f.d.toNat * 2 ^ 12 + low12 op f.g f.st false),
   BitVec.ofNat 32 (f.q.toNat * 2 ^ 29 + f.cls.toNat * 2 ^ 25 + f.imm.toNat * 2 + stop.toNat)]
def encV (op : Nat) (f : VF) (stop : Bool) : List W32 :=
  [BitVec.ofNat 32 (f.peer.toNat * 2 ^ 31 + f.ty.toNat * 2 ^ 27 + f.base.toNat * 2 ^ 21 + f.gs.toNat * 2 ^ 17 + f.v.toNat * 2 ^ 12 +
    low12 op f.g f.st false),
   BitVec.ofNat 32 (f.q.toNat * 2 ^ 29 + f.cls.toNat * 2 ^ 25 + f.imm.toNat * 2 + stop.toNat)]
def encE (op : Nat) (f : EF) (stop : Bool) : List W32 :=
  [BitVec.ofNat 32 (f.sig.toNat * 2 ^ 24 + f.thr.toNat * 2 ^ 20 + f.wsem.toNat * 2 ^ 12 + low12 op f.g f.st false),
   BitVec.ofNat 32 (f.q.toNat * 2 ^ 30 + f.vc.toNat * 2 ^ 27 + f.toff.toNat * 2 ^ 11 + f.dreg.toNat * 2 ^ 5 + f.inc.toNat * 2 +
    stop.toNat)]
def encO (op : Nat) (f : OF) (stop : Bool) : List W32 :=
  [BitVec.ofNat 32 (f.z0.toNat * 2 ^ 30 + f.seg.toNat * 2 ^ 27 + f.v.toNat * 2 ^ 22 + f.row.toNat * 2 ^ 15 + f.acc.toNat * 2 ^ 12 +
    low12 op f.g f.st false),
   BitVec.ofNat 32 (f.z1.toNat * 2 ^ 29 + f.cls.toNat * 2 ^ 25 + f.z2.toNat * 2 ^ 12 + f.cnt.toNat * 2 ^ 5 + f.gs.toNat * 2 +
    stop.toNat)]
def encT (f : TF) (stop : Bool) : List W32 :=
  [BitVec.ofNat 32 (f.fuse.toNat * 2 ^ 31 + f.srcA.toNat * 2 ^ 25 + f.ga.toNat * 2 ^ 20 + f.be.toNat * 2 ^ 15 + f.al.toNat * 2 ^ 10 +
    f.k.toNat * 2 ^ 6 + f.g.toNat * 4 + f.st.toNat * 2),
   BitVec.ofNat 32 (f.z.toNat * 2 ^ 31 + f.sel.toNat * 2 ^ 28 + f.ty.toNat * 2 ^ 25 + f.dest.toNat * 2 ^ 19 + f.srcD.toNat * 2 ^ 13 +
    f.srcC.toNat * 2 ^ 7 + f.srcB.toNat * 2 + stop.toNat)]
/-- A microprogram word, as its low and high halves. -/
def encW (op : Nat) (f : WF) : List W32 :=
  [BitVec.ofNat 32 (f.f3.toNat * 2 ^ 24 + f.f2.toNat * 2 ^ 18 + f.f1.toNat * 2 ^ 12 + f.f0.toNat * 2 ^ 6 + op),
   BitVec.ofNat 32 (f.imm.toNat * 2 ^ 8 + f.f4.toNat)]
def encP (op : Nat) (f : PF) : List W32 :=
  [BitVec.ofNat 32 (f.f.toNat * 2 ^ 17 + f.c.toNat * 2 ^ 14 + f.b.toNat * 2 ^ 11 + f.a.toNat * 2 ^ 8 + f.d.toNat * 2 ^ 5 + op)]
def encH (funct : Nat) (f : RF) : List W32 :=
  [BitVec.ofNat 32 (f.rs2.toNat * 2 ^ 20 + f.rs1.toNat * 2 ^ 15 + funct * 2 ^ 12 + f.rd.toNat * 2 ^ 7 + 0x0B)]

/-- Where an instruction's encoding stands. -/
inductive Place where
  | slot (pos : Nat)
  | word
  | epi
  | mgmt
  | event
  deriving DecidableEq, Repr

/-- The position of a triad (R73). -/
def TF.place (f : TF) : Place := .slot (7 + f.grp.toNat)

/-- Where an instruction stands (R73, R198, R215, R261); a machine event has no encoding. -/
def Instr.place (i : Instr) : Place :=
  match i with
  | .bundleIssue => .event
  | .bundleSkip => .event
  | .resultLand _ => .event
  | .loadReturn _ => .event
  | .contextSwitch => .event
  | .queueEntryVisible _ _ _ => .event
  | .skqryAnswer _ => .event
  | .semWaitSatisfied _ => .event
  | .ssigSignal _ => .event
  | .commandStart _ _ _ => .event
  | .copyElement _ _ => .event
  | .commandComplete _ _ => .event
  | .weightBlockDeliver _ => .event
  | .callSelect => .event
  | .callComplete => .event
  | .bankAccess _ => .event
  | .tileDrainComplete _ => .event
  | .tileStallTimeout _ => .event
  | .storePerform _ _ => .event
  | .propagateStep _ _ => .event
  | .fillStep _ _ => .event
  | .dropStep _ _ => .event
  | .loadStep _ _ => .event
  | .releaseComplete _ => .event
  | .homeServe _ => .event
  | .haspReleaseDelivery _ => .event
  | .trapRestore _ => .event
  | .parityTrap _ _ => .event
  | .debuggerStop _ => .event
  | .schedulerPass => .event
  | .launchEnd _ => .event
  | .timeLimit _ => .event
  | .killed _ => .event
  | .resume _ => .event
  | .ballastAdmit => .event
  | .tlbWalk _ _ => .event
  | .writeRetranslate _ _ => .event
  | .invalidate => .event
  | .mcstStamp _ _ => .event
  | .blockApply _ => .event
  | .viewChange _ _ => .event
  | .packageLoss _ => .event
  | .digest _ _ _ => .event
  | .sendPermit _ _ _ => .event
  | .chunkSend => .event
  | .chunkReceive _ _ _ => .event
  | .selfTest _ _ => .event
  | .selfTestResult _ _ => .event
  | .holdRelease => .event
  | .holdTimeout => .event
  | .sample => .event
  | .sensorRefresh _ _ _ => .event
  | .thermalEvaluation => .event
  | .dramRefresh _ => .event
  | .activationAlert _ => .event
  | .boot _ _ => .event
  | .attestationReport _ _ => .event
  | .hostBar2Access _ _ _ => .event
  | .qtail => .event
  | .qstat => .event
  | .iqtail => .event
  | .pfack => .event
  | .errdrop => .event
  | .dbgsel => .event
  | .thcfg => .event
  | .thstat => .event
  | .pwrcfg => .event
  | .mgmtRegWrite => .event
  | .snop _ => .slot 0
  | .br _ => .slot 0
  | .bri _ => .slot 0
  | .callS _ => .slot 0
  | .ret _ => .slot 0
  | .loopS _ => .slot 0
  | .loopsp _ => .slot 0
  | .lbrk _ => .slot 0
  | .glog _ => .slot 0
  | .klog _ => .slot 0
  | .kmovFromK _ => .slot 0
  | .kmovToK _ => .slot 0
  | .markS _ => .slot 0
  | .nodeS _ => .slot 0
  | .endCtx _ => .slot 0
  | .sstep _ => .slot 0
  | .bara _ => .slot 0
  | .barw _ => .slot 0
  | .swait _ => .slot 0
  | .ssig _ => .slot 0
  | .ssigClr _ => .slot 0
  | .fcrw _ => .slot 0
  | .fsrr _ => .slot 0
  | .fsrrClear _ => .slot 0
  | .sysr _ => .slot 0
  | .sysw _ => .slot 0
  | .lsupd _ => .slot 0
  | .rseek _ => .slot 0
  | .brk _ => .slot 0
  | .semrd _ => .slot 0
  | .gtbr _ => .slot 0
  | .waitt _ => .slot 0
  | .qmask _ => .slot 0
  | .anop _ => .slot 1
  | .add _ => .slot 1
  | .sub _ => .slot 1
  | .mul _ => .slot 1
  | .mulh _ => .slot 1
  | .div _ => .slot 1
  | .divu _ => .slot 1
  | .andA _ => .slot 1
  | .orA _ => .slot 1
  | .xorA _ => .slot 1
  | .shl _ => .slot 1
  | .shr _ => .slot 1
  | .sra _ => .slot 1
  | .minA _ => .slot 1
  | .maxA _ => .slot 1
  | .addi _ => .slot 1
  | .li _ => .slot 1
  | .lih _ => .slot 1
  | .lihChunk1 _ => .slot 1
  | .cmp _ => .slot 1
  | .cmpImmediate _ => .slot 1
  | .selA _ => .slot 1
  | .movmToM _ => .slot 1
  | .movmFromM _ => .slot 1
  | .movsToS _ => .slot 1
  | .movsToG _ => .slot 1
  | .lds _ => .slot 1
  | .sts _ => .slot 1
  | .amo _ => .slot 1
  | .fence _ => .slot 1
  | .probe _ => .slot 1
  | .tdef _ => .slot 1
  | .tfree _ => .slot 1
  | .tstat _ => .slot 1
  | .tdesc _ => .slot 1
  | .bfxcfg _ => .slot 1
  | .ssrcfg _ => .slot 1
  | .ssrclr _ => .slot 1
  | .ssrclrSatd _ => .slot 1
  | .ssrrd _ => .slot 1
  | .ssrwr _ => .slot 1
  | .cvts _ => .slot 1
  | .fadds _ => .slot 1
  | .faddsNegated _ => .slot 1
  | .fmuls _ => .slot 1
  | .fmas _ => .slot 1
  | .fcmps _ => .slot 1
  | .mnop _ => .slot 2
  | .mcall _ => .slot 2
  | .mquiet _ => .slot 2
  | .enop _ => .slot 3
  | .copy _ => .slot 3
  | .tload _ => .slot 3
  | .coll _ => .slot 3
  | .mcst _ => .slot 3
  | .skadd _ => .slot 3
  | .skscl _ => .slot 3
  | .skzero _ => .slot 3
  | .muload _ => .slot 3
  | .epload _ => .slot 3
  | .equiet _ => .slot 3
  | .onop _ => .slot 4
  | .ord _ => .slot 4
  | .owr _ => .slot 4
  | .oadd _ => .slot 4
  | .ozero _ => .slot 4
  | .oscl _ => .slot 4
  | .xnop _ => .slot 5
  | .xcp _ => .slot 5
  | .xbc _ => .slot 5
  | .xsum _ => .slot 5
  | .xmax _ => .slot 5
  | .xshf _ => .slot 5
  | .xs2v _ => .slot 5
  | .xv2s _ => .slot 5
  | .vnop _ => .slot 6
  | .ldv _ => .slot 6
  | .stv _ => .slot 6
  | .ldg _ => .slot 6
  | .stg _ => .slot 6
  | .ldt _ => .slot 6
  | .ldx _ => .slot 6
  | .unpk _ => .slot 6
  | .gath _ => .slot 6
  | .scat _ => .slot 6
  | .vamo _ => .slot 6
  | .skupd _ => .slot 6
  | .skqry _ => .slot 6
  | .pushq _ => .slot 6
  | .unitNone f => f.place
  | .iadd f => f.place
  | .isub f => f.place
  | .imul f => f.place
  | .imulh f => f.place
  | .triadAnd f => f.place
  | .triadOr f => f.place
  | .triadXor f => f.place
  | .triadShl f => f.place
  | .triadShr f => f.place
  | .triadSra f => f.place
  | .imin f => f.place
  | .imax f => f.place
  | .fadd f => f.place
  | .fsub f => f.place
  | .fmul f => f.place
  | .fmin f => f.place
  | .fmax f => f.place
  | .cmplt f => f.place
  | .cmpeq f => f.place
  | .triadSel f => f.place
  | .triadCvt f => f.place
  | .triadNrw f => f.place
  | .srnd f => f.place
  | .triadExp2 f => f.place
  | .triadLog2 f => f.place
  | .triadRcp f => f.place
  | .triadRsq f => f.place
  | .perm f => f.place
  | .triadAbs f => f.place
  | .pack f => f.place
  | .munop _ => .word
  | .zacc _ => .word
  | .wld _ => .word
  | .wstr _ => .word
  | .astr _ => .word
  | .achn _ => .word
  | .runW _ => .word
  | .oprk _ => .word
  | .spsel _ => .word
  | .drn _ => .word
  | .cksv _ => .word
  | .mlp _ => .word
  | .mbrn _ => .word
  | .mend _ => .word
  | .mwait _ => .word
  | .msig _ => .word
  | .padd _ => .word
  | .pset _ => .word
  | .epiDone _ => .epi
  | .ldb _ => .epi
  | .epiAdd _ => .epi
  | .epiMul _ => .epi
  | .epiFma _ => .epi
  | .epiMax _ => .epi
  | .epiMin _ => .epi
  | .relu _ => .epi
  | .epiTbl _ => .epi
  | .epiExp2 _ => .epi
  | .epiCvt _ => .epi
  | .epiNrw _ => .epi
  | .rmax _ => .epi
  | .rsum _ => .epi
  | .wrt _ => .epi
  | .epiPush _ => .epi
  | .scal _ => .epi
  | .clmp _ => .epi
  | .epiSel _ => .epi
  | .htlbi _ => .mgmt
  | .htlbf _ => .mgmt
  | .debuggerResume _ => .event
  | .preemptionOrder _ => .event
  | .gtbTargetReached => .event
  | .randomEntryGenerated _ => .event
  | .tlbInvalidationApplied _ => .event
  | .managementCoreAccess _ _ _ => .event
  | .wholeCoreSelfTest _ => .event
  | .linkRetry _ => .event
  | .fabricPathLoss _ => .event
  | .powerOff => .event

/-- The words of an instruction; `stop` is the stop bit of the last syllable of a slot (R74). -/
def encode (stop : Bool) (i : Instr) : List W32 :=
  match i with
  | .bundleIssue => []
  | .bundleSkip => []
  | .resultLand _ => []
  | .loadReturn _ => []
  | .contextSwitch => []
  | .queueEntryVisible _ _ _ => []
  | .skqryAnswer _ => []
  | .semWaitSatisfied _ => []
  | .ssigSignal _ => []
  | .commandStart _ _ _ => []
  | .copyElement _ _ => []
  | .commandComplete _ _ => []
  | .weightBlockDeliver _ => []
  | .callSelect => []
  | .callComplete => []
  | .bankAccess _ => []
  | .tileDrainComplete _ => []
  | .tileStallTimeout _ => []
  | .storePerform _ _ => []
  | .propagateStep _ _ => []
  | .fillStep _ _ => []
  | .dropStep _ _ => []
  | .loadStep _ _ => []
  | .releaseComplete _ => []
  | .homeServe _ => []
  | .haspReleaseDelivery _ => []
  | .trapRestore _ => []
  | .parityTrap _ _ => []
  | .debuggerStop _ => []
  | .schedulerPass => []
  | .launchEnd _ => []
  | .timeLimit _ => []
  | .killed _ => []
  | .resume _ => []
  | .ballastAdmit => []
  | .tlbWalk _ _ => []
  | .writeRetranslate _ _ => []
  | .invalidate => []
  | .mcstStamp _ _ => []
  | .blockApply _ => []
  | .viewChange _ _ => []
  | .packageLoss _ => []
  | .digest _ _ _ => []
  | .sendPermit _ _ _ => []
  | .chunkSend => []
  | .chunkReceive _ _ _ => []
  | .selfTest _ _ => []
  | .selfTestResult _ _ => []
  | .holdRelease => []
  | .holdTimeout => []
  | .sample => []
  | .sensorRefresh _ _ _ => []
  | .thermalEvaluation => []
  | .dramRefresh _ => []
  | .activationAlert _ => []
  | .boot _ _ => []
  | .attestationReport _ _ => []
  | .hostBar2Access _ _ _ => []
  | .qtail => []
  | .qstat => []
  | .iqtail => []
  | .pfack => []
  | .errdrop => []
  | .dbgsel => []
  | .thcfg => []
  | .thstat => []
  | .pwrcfg => []
  | .mgmtRegWrite => []
  | .snop f => encS 0 f stop
  | .br f => encS 1 f stop
  | .bri f => encS 2 f stop
  | .callS f => encS 3 f stop
  | .ret f => encS 4 f stop
  | .loopS f => encS 5 f stop
  | .loopsp f => encS 6 f stop
  | .lbrk f => encS 7 f stop
  | .glog f => encS 8 f stop
  | .klog f => encS 9 f stop
  | .kmovFromK f => encS 10 f stop
  | .kmovToK f => encS 10 f stop
  | .markS f => encS 11 f stop
  | .nodeS f => encS 12 f stop
  | .endCtx f => encS 13 f stop
  | .sstep f => encS 14 f stop
  | .bara f => encS 15 f stop
  | .barw f => encS 16 f stop
  | .swait f => encS 17 f stop
  | .ssig f => encS 18 f stop
  | .ssigClr f => encS 18 f stop
  | .fcrw f => encS 19 f stop
  | .fsrr f => encS 20 f stop
  | .fsrrClear f => encS 20 f stop
  | .sysr f => encS 21 f stop
  | .sysw f => encS 22 f stop
  | .lsupd f => encS 23 f stop
  | .rseek f => encS 24 f stop
  | .brk f => encS 25 f stop
  | .semrd f => encS 26 f stop
  | .gtbr f => encS 27 f stop
  | .waitt f => encS 28 f stop
  | .qmask f => encS 29 f stop
  | .anop f => encA 0 f stop
  | .add f => encA 1 f stop
  | .sub f => encA 2 f stop
  | .mul f => encA 3 f stop
  | .mulh f => encA 4 f stop
  | .div f => encA 5 f stop
  | .divu f => encA 6 f stop
  | .andA f => encA 7 f stop
  | .orA f => encA 8 f stop
  | .xorA f => encA 9 f stop
  | .shl f => encA 10 f stop
  | .shr f => encA 11 f stop
  | .sra f => encA 12 f stop
  | .minA f => encA 13 f stop
  | .maxA f => encA 14 f stop
  | .addi f => encA 15 f stop
  | .li f => encA 16 f stop
  | .lih f => encA 17 f stop
  | .lihChunk1 f => encA 17 f stop
  | .cmp f => encA 18 f stop
  | .cmpImmediate f => encA 18 f stop
  | .selA f => encA 19 f stop
  | .movmToM f => encA 20 f stop
  | .movmFromM f => encA 20 f stop
  | .movsToS f => encA 21 f stop
  | .movsToG f => encA 21 f stop
  | .lds f => encA 22 f stop
  | .sts f => encA 23 f stop
  | .amo f => encA 24 f stop
  | .fence f => encA 25 f stop
  | .probe f => encA 26 f stop
  | .tdef f => encA 27 f stop
  | .tfree f => encA 28 f stop
  | .tstat f => encA 29 f stop
  | .tdesc f => encA 30 f stop
  | .bfxcfg f => encA 31 f stop
  | .ssrcfg f => encA 32 f stop
  | .ssrclr f => encA 33 f stop
  | .ssrclrSatd f => encA 33 f stop
  | .ssrrd f => encA 34 f stop
  | .ssrwr f => encA 35 f stop
  | .cvts f => encA 36 f stop
  | .fadds f => encA 37 f stop
  | .faddsNegated f => encA 37 f stop
  | .fmuls f => encA 38 f stop
  | .fmas f => encA 39 f stop
  | .fcmps f => encA 40 f stop
  | .mnop f => encS 0 f stop
  | .mcall f => encS 1 f stop
  | .mquiet f => encS 2 f stop
  | .enop f => encE 0 f stop
  | .copy f => encE 1 f stop
  | .tload f => encE 2 f stop
  | .coll f => encE 3 f stop
  | .mcst f => encE 4 f stop
  | .skadd f => encE 5 f stop
  | .skscl f => encE 6 f stop
  | .skzero f => encE 7 f stop
  | .muload f => encE 8 f stop
  | .epload f => encE 9 f stop
  | .equiet f => encE 10 f stop
  | .onop f => encO 0 f stop
  | .ord f => encO 1 f stop
  | .owr f => encO 2 f stop
  | .oadd f => encO 3 f stop
  | .ozero f => encO 4 f stop
  | .oscl f => encO 5 f stop
  | .xnop f => encX 0 f stop
  | .xcp f => encX 1 f stop
  | .xbc f => encX 2 f stop
  | .xsum f => encX 3 f stop
  | .xmax f => encX 4 f stop
  | .xshf f => encX 5 f stop
  | .xs2v f => encX 6 f stop
  | .xv2s f => encX 7 f stop
  | .vnop f => encV 0 f stop
  | .ldv f => encV 1 f stop
  | .stv f => encV 2 f stop
  | .ldg f => encV 3 f stop
  | .stg f => encV 4 f stop
  | .ldt f => encV 5 f stop
  | .ldx f => encV 6 f stop
  | .unpk f => encV 7 f stop
  | .gath f => encV 8 f stop
  | .scat f => encV 9 f stop
  | .vamo f => encV 10 f stop
  | .skupd f => encV 11 f stop
  | .skqry f => encV 12 f stop
  | .pushq f => encV 13 f stop
  | .unitNone f => encT f stop
  | .iadd f => encT f stop
  | .isub f => encT f stop
  | .imul f => encT f stop
  | .imulh f => encT f stop
  | .triadAnd f => encT f stop
  | .triadOr f => encT f stop
  | .triadXor f => encT f stop
  | .triadShl f => encT f stop
  | .triadShr f => encT f stop
  | .triadSra f => encT f stop
  | .imin f => encT f stop
  | .imax f => encT f stop
  | .fadd f => encT f stop
  | .fsub f => encT f stop
  | .fmul f => encT f stop
  | .fmin f => encT f stop
  | .fmax f => encT f stop
  | .cmplt f => encT f stop
  | .cmpeq f => encT f stop
  | .triadSel f => encT f stop
  | .triadCvt f => encT f stop
  | .triadNrw f => encT f stop
  | .srnd f => encT f stop
  | .triadExp2 f => encT f stop
  | .triadLog2 f => encT f stop
  | .triadRcp f => encT f stop
  | .triadRsq f => encT f stop
  | .perm f => encT f stop
  | .triadAbs f => encT f stop
  | .pack f => encT f stop
  | .munop f => encW 0 f
  | .zacc f => encW 1 f
  | .wld f => encW 2 f
  | .wstr f => encW 3 f
  | .astr f => encW 4 f
  | .achn f => encW 5 f
  | .runW f => encW 6 f
  | .oprk f => encW 7 f
  | .spsel f => encW 8 f
  | .drn f => encW 9 f
  | .cksv f => encW 10 f
  | .mlp f => encW 11 f
  | .mbrn f => encW 12 f
  | .mend f => encW 13 f
  | .mwait f => encW 14 f
  | .msig f => encW 15 f
  | .padd f => encW 16 f
  | .pset f => encW 17 f
  | .epiDone f => encP 0 f
  | .ldb f => encP 1 f
  | .epiAdd f => encP 2 f
  | .epiMul f => encP 3 f
  | .epiFma f => encP 4 f
  | .epiMax f => encP 5 f
  | .epiMin f => encP 6 f
  | .relu f => encP 7 f
  | .epiTbl f => encP 8 f
  | .epiExp2 f => encP 9 f
  | .epiCvt f => encP 10 f
  | .epiNrw f => encP 11 f
  | .rmax f => encP 12 f
  | .rsum f => encP 13 f
  | .wrt f => encP 14 f
  | .epiPush f => encP 15 f
  | .scal f => encP 16 f
  | .clmp f => encP 17 f
  | .epiSel f => encP 18 f
  | .htlbi f => encH 0 f
  | .htlbf f => encH 1 f
  | .debuggerResume _ => []
  | .preemptionOrder _ => []
  | .gtbTargetReached => []
  | .randomEntryGenerated _ => []
  | .tlbInvalidationApplied _ => []
  | .managementCoreAccess _ _ _ => []
  | .wholeCoreSelfTest _ => []
  | .linkRetry _ => []
  | .fabricPathLoss _ => []
  | .powerOff => []

/-- What the decoder reads from words at a place. -/
def decodeAt (p : Place) (ws : List W32) : List Instr :=
  match p with
  | .slot n => decodeSlot n (nth ws 0) (nth ws 1)
  | .word => (decodeWord (BitVec.ofNat 64 ((nth ws 1).toNat * 2 ^ 32 + (nth ws 0).toNat))).toList
  | .epi => (decodeEpi (nth ws 0)).toList
  | .mgmt => (decodeMgmt (nth ws 0)).toList
  | .event => []

/-! ### Bundles (R72 to R81) -/

/-- Syllables of a slot position (R73). -/
def slotSize (pos : Nat) : Nat := if pos = 0 ∨ pos = 2 ∨ pos = 5 then 1 else 2

/-- The positions a template encodes, in order (R72, R73). -/
def encoded (h : W32) : List Nat := (List.range 15).filter (fun p => h.getLsbD (14 + p))

/-- The length of a bundle in syllables, from its header (R73). -/
def bundleLen (h : W32) : Nat := 1 + (encoded h).foldl (fun n p => n + slotSize p) 0

/-- One encoded slot of a bundle. -/
structure Slot where
  pos : Nat
  w0 : W32
  w1 : W32
  ops : List Instr
  deriving DecidableEq, Repr

/-- The guard field of any slot's first syllable (R93, R94, R96). -/
def guardOf (w0 : W32) : BitVec 4 := w0.extractLsb' 2 4

/-- A decoded bundle (R72). -/
structure Bundle where
  pop : BitVec 8
  rep : Nat
  ckpt : Bool
  len : Nat
  slots : List Slot
  deriving DecidableEq, Repr

/-- The slots of a bundle, their syllables taken in order (R73). -/
def splitSlots : List Nat → List W32 → List Slot
  | [], _ => []
  | p :: ps, ws =>
    let w0 := nth ws 0
    let w1 := if slotSize p = 2 then nth ws 1 else 0
    ⟨p, w0, w1, decodeSlot p w0 w1⟩ :: splitSlots ps (ws.drop (slotSize p))

/-- The control operations (R79), by S opcode. -/
def isControl (op : Nat) : Bool := (decide (1 ≤ op) && decide (op ≤ 7)) || op == 0x19 || op == 0x0E || op == 0x0C || op == 0x0D

/-- Stop bits: 1 in the last syllable only (R74). -/
def stopsOk (ws : List W32) : Bool := ws.zipIdx.all (fun p => p.1.getLsbD 0 == decide (p.2 + 1 = ws.length))

/-- Check 6: control operations need rep = 0 and sticky = 0; NODE and END stand alone (R79, R80). -/
def boundaryOk (h : W32) (slots : List Slot) : Bool :=
  match slots with
  | s :: rest =>
    if s.pos = 0 then
      let op := opField s.w0
      (!isControl op || (nfld h.toNat 2 4 == 0 && !s.w0.getLsbD 1)) &&
        (!(op == 0x0C || op == 0x0D) || (rest.isEmpty && nfld h.toNat 6 8 == 0 && !h.getLsbD 1))
    else true
  | [] => true

/-- Checks 2 to 8 of R75, in order, on the syllables of a bundle; an error is the status code. -/
def decodeBundle (ws : List W32) : Except Byte Bundle :=
  let h := nth ws 0
  let slots := splitSlots (encoded h) (ws.drop 1)
  if nfld h.toNat 30 2 ≠ 0 then .error 0x02
  else if h.getLsbD 29 then .error 0x02
  else if nfld h.toNat 14 16 = 0 ∧ !h.getLsbD 0 then .error 0x02
  else if !stopsOk ws then .error 0x02
  else if !boundaryOk h slots then .error 0x02
  else if slots.any (fun s => s.ops.isEmpty) then .error 0x03
  else if slots.any (fun s => s.ops.any (fun i => !i.wf)) then .error 0x14
  else .ok ⟨h.extractLsb' 6 8, nfld h.toNat 2 4, h.getLsbD 1, bundleLen h, slots⟩

/-- Whether a slot's operations are an encoded NOP (R81). -/
def isNop (ops : List Instr) : Bool :=
  match ops with
  | [.snop _] => true
  | [.anop _] => true
  | [.mnop _] => true
  | [.enop _] => true
  | [.onop _] => true
  | [.xnop _] => true
  | [.vnop _] => true
  | [.unitNone f, .unitNone _, .unitNone _] => f.dest == 63
  | _ => false

/-! ### The opcode table's words -/

/-- A word of spec/opcode_table.json. The table does not say in which slot or store a word stands, so the decoders of the
places whose rows the table gives bits for are tried in a fixed order, the first well-formed reading winning (log 11):
a word with a zero slot opcode is first an epilogue instruction or a management-core instruction, unless it is zero. -/
def decodeTableWord (nbits w : Nat) : Option Instr :=
  if nbits ≠ 32 then none
  else
    let b : W32 := BitVec.ofNat 32 w
    let ok (o : Option Instr) : Option Instr := o.filter Instr.wf
    let s := ok (decodeS b)
    let m := ok (decodeM b)
    let x := ok (decodeX b)
    let p := ok (decodeEpi b)
    let h := ok (decodeMgmt b)
    if w ≠ 0 ∧ opField b = 0 then p <|> h <|> s <|> m <|> x <|> decodeS b
    else s <|> m <|> x <|> p <|> h <|> decodeS b

end Sys2Proof
end

