-- ==== Sys2Proof/Machine/Sha3.lean ====
section
/-! DEFINITION. SHA3-256 of a byte string (R460, R462). The spec names the standard and does not restate it. PRESUMED: FIPS 202
as published (log 9). The state is five planes of five lanes; its constants are computed as the standard defines them. -/

namespace Sys2Proof.Machine

open Sys2Proof

abbrev Plane := List W64

/-! ### Constants -/

/-- One step of the register that gives the bits of the round constants: x^8 + x^6 + x^5 + x^4 + 1. -/
def rcStep (r : Nat) : Nat := if r < 128 then 2 * r else (2 * r) ^^^ 0x171

/-- The register after each of `n` steps from `r` on. -/
def rcRun : Nat → Nat → List Nat
  | 0, _ => []
  | n + 1, r => r :: rcRun n (rcStep r)

/-- A round constant from seven bits: bit j goes to place 2^j − 1. -/
def rcWord (bits : List Nat) : W64 := BitVec.ofNat 64 (bits.zipIdx.foldl (fun v p => v + p.1 % 2 * 2 ^ (2 ^ p.2 - 1)) 0)

/-- The constants of the 24 rounds. -/
def roundConsts : List W64 := (List.range 24).map (fun i => rcWord (((rcRun 168 1).drop (7 * i)).take 7))

/-- The walk over the lanes that fixes their rotations: the lane (x, y) of step t, with (t + 1)(t + 2) / 2. -/
def rhoWalk : Nat → Nat → Nat → Nat → List ((Nat × Nat) × Nat)
  | 0, _, _, _ => []
  | n + 1, t, x, y => ((x, y), (t + 1) * (t + 2) / 2 % 64) :: rhoWalk n (t + 1) y ((2 * x + 3 * y) % 5)

/-- The rotation of a lane; lane (0, 0) stays. -/
def rhoOf (x y : Nat) : Nat := (((rhoWalk 24 0 1 0).find? (fun p => p.1 == (x, y))).map Prod.snd).getD 0

/-! ### The permutation -/

/-- A plane turned so that lane x holds what lane x + k held. -/
def turned (k : Nat) (p : Plane) : Plane := p.drop k ++ p.take k

def xorPlanes (p q : Plane) : Plane := List.zipWith (fun a b => a ^^^ b) p q

/-- θ: each column takes the parities of its two neighbours. -/
def theta (ps : List Plane) : List Plane :=
  let parity := ps.foldl xorPlanes (List.replicate 5 0)
  let effect := xorPlanes (turned 4 parity) ((turned 1 parity).map (fun w => w.rotateLeft 1))
  ps.map (xorPlanes effect)

/-- ρ and π: lane (x, y) comes from lane (x + 3y, x), rotated. -/
def rhoPi (ps : List Plane) : List Plane :=
  (List.range 5).map (fun y => (List.range 5).map (fun x =>
    let u := (x + 3 * y) % 5
    (((ps.getD x []).getD u 0 : W64)).rotateLeft (rhoOf u x)))

/-- χ on one plane. -/
def chi (p : Plane) : Plane := xorPlanes p (List.zipWith (fun a b => ~~~a &&& b) (turned 1 p) (turned 2 p))

/-- ι: the round constant goes into lane (0, 0). -/
def iota (k : W64) : List Plane → List Plane
  | (w :: ws) :: ps => ((w ^^^ k) :: ws) :: ps
  | ps => ps

/-- The permutation of 24 rounds. -/
def keccakP (ps : List Plane) : List Plane := roundConsts.foldl (fun ps k => iota k ((rhoPi (theta ps)).map chi)) ps

/-! ### The sponge -/

/-- The string with its padding to whole blocks of 136 bytes: 0x06, zeros, and 0x80 in the last byte. -/
def sha3Pad (bs : List Byte) : List Byte :=
  let n := 136 - bs.length % 136
  bs ++ (List.range n).map (fun i => (if i = 0 then 0x06 else 0) ||| (if i + 1 = n then 0x80 else 0))

/-- The planes of a block of bytes; what lies beyond it is zero. -/
def planesOf (bs : List Byte) : List Plane :=
  (List.range 5).map (fun y => (List.range 5).map (fun x => BitVec.ofNat 64 (ofLe ((bs.drop (8 * (x + 5 * y))).take 8))))

/-- Takes `k` blocks of 136 bytes in. -/
def sha3Take : Nat → List Byte → List Plane → List Plane
  | 0, _, ps => ps
  | k + 1, bs, ps => sha3Take k (bs.drop 136) (keccakP (List.zipWith xorPlanes ps (planesOf (bs.take 136))))

/-- SHA3-256 of a string, as 32 bytes. -/
def sha3 (bs : List Byte) : List Byte :=
  let p := sha3Pad bs
  (((sha3Take (p.length / 136) p (List.replicate 5 (List.replicate 5 0))).getD 0 []).take 4).flatMap (fun w => leBytes 8 w.toNat)

end Sys2Proof.Machine
end

