-- ==== Sys2Proof/Config.lean ====
section
/-! DEFINITION. What an implementation fixes and the spec leaves open: free values, constants without a body, each read at a
counter of the state (log 4, log 5, log 9). Nothing can be proved of their values. -/

namespace Sys2Proof.Config

/-- Which of the steps that may be taken next is taken, where the spec gives no order (R286, R266, R281): read at the
choice counter (log 4). -/
opaque pick : Nat → Nat

/-- The GTB counts that pass with one step (R251), read at the time counter (log 5). -/
opaque gtbDelta : Nat → BitVec 32

/-- The core cycles that pass with one step (R255), read at the time counter (log 5). -/
opaque cycleDelta : Nat → BitVec 32

/-- Which of two things happens, where the spec leaves it open: read at the choice counter (log 4). -/
opaque racePick : Nat → Bool

/-- Which of its two values a word that is written meanwhile gives to a read, the old or the new one (R34, R236, R246, R284, R342, R422):
by the choice counter and the word (log 4). -/
opaque raceAt : Nat → Nat → Bool

/-- Whether the domain's routing table lists a package, by how often the resident kernels have written the table, which the spec gives no
layout (R408, log 2). -/
opaque routeListed : Nat → Nat → Bool

/-- The launches that place a core which is not registered for their coherence domain, and a core elsewhere that has been retired: what the
resident kernels and the scheduler hold (R351, R352, log 1, log 4). -/
opaque barredLaunches : Nat → List (BitVec 32)
opaque coreRetired : Nat → Option Nat

/-- A value the spec does not state (log 5). -/
opaque freeWord : Nat → BitVec 64

/-- The sub-shift of quad j of a block with a NaN or an infinity among its inputs, for which R31 assigns none; the inputs as sign,
magnitude and exponent (log 57). -/
opaque kbNanSub : List (Bool × Nat × Int) → Nat → Nat

/-- Which set of the scale cache a record goes to, by its tensor identifier and block number (R33, log 53). -/
opaque scaleSet : Nat → Nat → Nat

/-- The bank and the row of DRAM that hold an address (R429, R433, log 28). -/
opaque dramRow : Nat → Nat × Nat

/-- The 64 KiB page, by number, that holds a row of a bank of DRAM (R430, log 28). -/
opaque rowPage : Nat → Nat → Nat

/-- The ML-DSA-44 signature of the device identity key over a byte string, byte by byte (R462, log 9). -/
opaque identitySign : List (BitVec 8) → Nat → BitVec 8

/-- Whether an ML-DSA-44 signature of a byte string verifies with a public key (R460, log 9). -/
opaque sigVerifies : List (BitVec 8) → List (BitVec 8) → List (BitVec 8) → Bool

/-- The resident kernel in the body of a firmware image, whose inside the spec does not give (R460, R462, log 9). -/
opaque kernelOf : List (BitVec 8) → List (BitVec 8)

end Sys2Proof.Config
end

