-- ==== Sys2Proof/Machine/Desc.lean ====
section
/-! DEFINITION. The fields of the engines' descriptors (R229, R235, R241, R243, R245, R246), and where a launch descriptor places its
launch (R347). -/

namespace Sys2Proof.Machine

open Sys2Proof

/-! ### Fields -/

/-- A field of a descriptor. -/
def dn (d : List Byte) (o n : Nat) : Nat := ofLe ((d.drop o).take n)
/-- A signed 32-bit field. -/
def di (d : List Byte) (o : Nat) : Int := toSigned 32 (dn d o 4)
/-- Bytes o to e − 1 are zero. -/
def dz (d : List Byte) (o e : Nat) : Bool := ((d.drop o).take (e - o)).all (fun b => b == 0)

/-! ### COPY and TLOAD (R235 to R240) -/

def cpNlev (d : List Byte) : Nat := dn d 0x58 1
def cpEsz (d : List Byte) : Nat := dn d 0x59 1
def cpAcc (d : List Byte) : Nat := dn d 0x5A 1
def cpStile (d : List Byte) : Nat := dn d 0x5B 1
def cpDtile (d : List Byte) : Nat := dn d 0x5C 1
/-- Bit `i` of FLAGS. -/
def cpFlag (d : List Byte) (i : Nat) : Bool := nfld (dn d 0x5E 2) i 1 == 1

/-- The levels in use, innermost first: count, source stride, destination stride. -/
def cpLevels (d : List Byte) : List (Nat × Int × Int) :=
  (List.range (cpNlev d + 1)).map (fun j => (dn d (0x10 + 12 * j) 4, di d (0x14 + 12 * j), di d (0x18 + 12 * j)))

/-- How many elements or blocks the levels give. -/
def cpCount (d : List Byte) : Nat := (cpLevels d).foldl (fun n l => n * l.1) 1

/-- The source and destination offsets of element `n` in the visiting order of R236. -/
def cpOffs (d : List Byte) (n : Nat) : Int × Int :=
  ((cpLevels d).foldl
    (fun (o : (Int × Int) × Nat) l => ((o.1.1 + (o.2 % l.1 : Nat) * l.2.1, o.1.2 + (o.2 % l.1 : Nat) * l.2.2), o.2 / l.1))
    ((0, 0), n)).1

/-- The least and the greatest offset along strides. -/
def cpSpan (ls : List (Nat × Int)) : Int × Int :=
  ls.foldl (fun (o : Int × Int) l =>
    let e := ((l.1 : Int) - 1) * l.2
    (o.1 + min 0 e, o.2 + max 0 e)) (0, 0)

/-! ### COLL (R241) -/

def clComm (d : List Byte) : BitVec 12 := BitVec.ofNat 12 (dn d 0 2)
def clEtype (d : List Byte) : Nat := dn d 2 1
def clRop (d : List Byte) : Nat := dn d 3 1
def clNdim (d : List Byte) : Nat := dn d 4 1
def clNax (d : List Byte) : Nat := dn d 5 1
def clDim (d : List Byte) (t : Nat) : Nat := dn d (8 + 4 * t) 4
def clAx (d : List Byte) (a : Nat) : Nat := dn d (0x18 + 2 * a) 2
/-- The shard masks and the partial mask of the source (`dst` false) or destination layout. -/
def clShard (d : List Byte) (dst : Bool) (t : Nat) : Nat := dn d ((if dst then 0x28 else 0x20) + t) 1
def clPart (d : List Byte) (dst : Bool) : Nat := dn d (if dst then 0x2C else 0x24) 1
def clSbuf (d : List Byte) : Nat := dn d 0x30 8
def clDbuf (d : List Byte) : Nat := dn d 0x38 8
def clDtile (d : List Byte) : Nat := dn d 0x40 1
def clChtile (d : List Byte) : Nat := dn d 0x41 1
def clNch (d : List Byte) : Nat := dn d 0x42 1
/-- Bytes of an element (R331). -/
def clSize (d : List Byte) : Nat := if clEtype d = 1 then 2 else 4

/-! ### MCST (R243) -/

def mcGroup (d : List Byte) : Nat := dn d 0 2
def mcFlag (d : List Byte) (i : Nat) : Bool := nfld (dn d 2 2) i 1 == 1
def mcLen (d : List Byte) : Nat := dn d 4 4
def mcSrc (d : List Byte) : Nat := dn d 8 8
def mcOffs (d : List Byte) : Nat := dn d 0x10 8
def mcTag (d : List Byte) : Nat := dn d 0x18 8
def mcSeqa (d : List Byte) : Nat := dn d 0x20 8

/-! ### Sketch commands (R245) -/

def skDst (d : List Byte) : Nat := dn d 0 8
def skSrc (d : List Byte) : Nat := dn d 8 8

/-! ### MULOAD and EPLOAD (R246) -/

def ldSrc (d : List Byte) : Nat := dn d 0 8
def ldFirst (d : List Byte) : Nat := dn d 8 2
def ldCount (d : List Byte) : Nat := dn d 0x0A 2
def ldSp (d : List Byte) : Bool := dn d 0x0C 2 == 1

/-! ### Placement (R347) -/

def ldDies (d : List Byte) : Nat := dn d 0x5A 1 % 16
def ldClusters (d : List Byte) : Nat := dn d 0x5B 1
def ldCores (d : List Byte) : Nat := dn d 0x5C 4 % 2 ^ 24

/-- How many bits of a number are set below position `n`. -/
def ones (v n : Nat) : Nat := ((List.range n).filter (fun i => nfld v i 1 == 1)).length

/-- How many cores a launch places. -/
def ldPlaced (d : List Byte) : Nat := ones (ldDies d) 4 * ones (ldClusters d) 8 * ones (ldCores d) 24

end Sys2Proof.Machine
end

