-- ==== Sys2Proof/Machine/Num.lean ====
section
/-! DEFINITION. Floating-point values as exact dyadic numbers, the formats of R18, the rounding of R24 and R25, conversions
(R27), and the float operations that the triads, the scalar unit, the epilogue and the memory-side adds share. -/

namespace Sys2Proof.Machine

/-- FSR flag masks (R21). -/
def fNV : BitVec 6 := 1
def fOF : BitVec 6 := 2
def fUF : BitVec 6 := 4
def fNX : BitVec 6 := 8
def fSAT : BitVec 6 := 16
def fSSAT : BitVec 6 := 32

/-- A floating-point format (R18). -/
structure Fmt where
  ebits : Nat
  fbits : Nat
  bias : Nat
  e4m3 : Bool
  deriving DecidableEq, Repr

def f32 : Fmt := ⟨8, 23, 127, false⟩
def f16 : Fmt := ⟨5, 10, 15, false⟩
def bf16 : Fmt := ⟨8, 7, 127, false⟩
def e5m2 : Fmt := ⟨5, 2, 15, false⟩
def e4m3 : Fmt := ⟨4, 3, 7, true⟩

/-- A float value: NaN, an infinity, or exactly (−1)^neg × mag × 2^exp (R18). -/
inductive FV where
  | nan
  | inf (neg : Bool)
  | fin (neg : Bool) (mag : Nat) (exp : Int)
  deriving DecidableEq, Repr

def Fmt.enc (m : Fmt) (neg : Bool) (e f : Nat) : Nat :=
  (if neg then 2 ^ (m.ebits + m.fbits) else 0) + e * 2 ^ m.fbits + f

/-- The canonical NaN (R18, R19). -/
def Fmt.nan (m : Fmt) : Nat :=
  if m.e4m3 then m.enc false (2 ^ m.ebits - 1) (2 ^ m.fbits - 1) else m.enc false (2 ^ m.ebits - 1) (2 ^ (m.fbits - 1))

def Fmt.inf (m : Fmt) (neg : Bool) : Nat := m.enc neg (2 ^ m.ebits - 1) 0

/-- The pattern of the largest finite value (R18). -/
def Fmt.maxBits (m : Fmt) (neg : Bool) : Nat :=
  if m.e4m3 then m.enc neg (2 ^ m.ebits - 1) (2 ^ m.fbits - 2) else m.enc neg (2 ^ m.ebits - 2) (2 ^ m.fbits - 1)

/-- The value of a pattern; with `daz` a subnormal reads as zero of its sign (R18, R20). -/
def Fmt.dec (m : Fmt) (daz : Bool) (bits : Nat) : FV :=
  let neg := nfld bits (m.ebits + m.fbits) 1 = 1
  let e := nfld bits m.fbits m.ebits
  let f := nfld bits 0 m.fbits
  if m.e4m3 && e = 2 ^ m.ebits - 1 && f = 2 ^ m.fbits - 1 then .nan
  else if !m.e4m3 && e = 2 ^ m.ebits - 1 then (if f = 0 then .inf neg else .nan)
  else if e = 0 then .fin neg (if daz then 0 else f) (1 - (m.bias : Int) - m.fbits)
  else .fin neg (f + 2 ^ m.fbits) ((e : Int) - m.bias - m.fbits)

/-- How a result is rounded: the four modes of R24, or stochastically with a random word (R25). -/
inductive RMode where
  | rne
  | rtz
  | rdn
  | rup
  | sr (w : W32)
  deriving DecidableEq, Repr

/-- Rounds mag × 2^exp to a whole number of 2^q, and whether anything was lost (R24, R25). -/
def roundAt (r : RMode) (neg : Bool) (mag : Nat) (exp q : Int) : Nat × Bool :=
  if q ≤ exp then (mag * 2 ^ (exp - q).toNat, false)
  else
    let sh := (q - exp).toNat
    let n := mag / 2 ^ sh
    let rem := mag % 2 ^ sh
    if rem = 0 then (n, false)
    else match r with
      | .rne => (if 2 * rem > 2 ^ sh ∨ (2 * rem = 2 ^ sh ∧ n % 2 = 1) then n + 1 else n, true)
      | .rtz => (n, true)
      | .rdn => (if neg then n + 1 else n, true)
      | .rup => (if neg then n else n + 1, true)
      | .sr w =>
        let m := min sh 24
        ((mag / 2 ^ (sh - m) + w.toNat / 2 ^ (32 - m)) / 2 ^ m, true)

/-- The exponent of the leading bit of mag × 2^exp (mag not 0). -/
def leadExp (mag : Nat) (exp : Int) : Int := (Nat.log2 mag : Int) + exp

/-- Whether n × 2^q exceeds the largest finite value of the format. -/
def Fmt.exceeds (m : Fmt) (n : Nat) (q : Int) : Bool :=
  let top : Nat := if m.e4m3 then 2 ^ (m.fbits + 1) - 2 else 2 ^ (m.fbits + 1) - 1
  let topQ : Int := (if m.e4m3 then 2 ^ m.ebits - 1 else 2 ^ m.ebits - 2 : Nat) - (m.bias : Int) - m.fbits
  if topQ ≤ q then decide (n * 2 ^ (q - topQ).toNat > top) else decide (n > top * 2 ^ (topQ - q).toNat)

/-- What a rounded magnitude beyond the largest finite value becomes (R24, R25). -/
def Fmt.overflow (m : Fmt) (r : RMode) (satn neg : Bool) : Nat × BitVec 6 :=
  if satn then (m.maxBits neg, fOF ||| fNX ||| fSAT)
  else
    let away := match r with
      | .rne => true
      | .sr _ => true
      | .rtz => false
      | .rdn => neg
      | .rup => !neg
    (if away then (if m.e4m3 then m.nan else m.inf neg) else m.maxBits neg, fOF ||| fNX)

/-- Rounds a value into a format: its pattern and the flags raised (R19, R21, R24, R25). UF is judged on the value rounded
with no lower exponent bound (DEDUCED, log 8), and a flush by FTZ sets UF and NX. -/
def Fmt.round (m : Fmt) (r : RMode) (satn ftz : Bool) : FV → Nat × BitVec 6
  | .nan => (m.nan, 0)
  | .inf neg =>
    if m.e4m3 then (if satn then (m.maxBits neg, fSAT) else (m.nan, fNV)) else (m.inf neg, 0)
  | .fin neg mag exp =>
    if mag = 0 then (m.enc neg 0 0, 0)
    else
      let lead := leadExp mag exp
      let q := max (lead - m.fbits) (1 - (m.bias : Int) - m.fbits)
      let nr := roundAt r neg mag exp q
      if nr.1 ≠ 0 ∧ m.exceeds nr.1 q then m.overflow r satn neg
      else
        let tiny := lead < 1 - (m.bias : Int) ∧
          (roundAt r neg mag exp (lead - m.fbits)).1 < 2 ^ ((1 - (m.bias : Int) - lead).toNat + m.fbits)
        let fl : BitVec 6 := if nr.2 then (if tiny then fNX ||| fUF else fNX) else 0
        let n := if 2 ^ (m.fbits + 1) ≤ nr.1 then nr.1 / 2 else nr.1
        let q' := if 2 ^ (m.fbits + 1) ≤ nr.1 then q + 1 else q
        if 2 ^ m.fbits ≤ n then (m.enc neg (q' + m.bias + m.fbits).toNat (n - 2 ^ m.fbits), fl)
        else if ftz ∧ n ≠ 0 then (m.enc neg 0 0, fl ||| fUF ||| fNX)
        else (m.enc neg 0 n, fl)

/-- `rne(x, fmt)`: RNE, subnormals kept, overflow to infinity. -/
def Fmt.rne (m : Fmt) (x : FV) : Nat × BitVec 6 := m.round .rne false false x

/-- `rne32(x)`. -/
def rne32 (x : FV) : W32 := BitVec.ofNat 32 (f32.rne x).1

/-- The FP32 value of a pattern, subnormals kept. -/
def dec32 (x : W32) : FV := f32.dec false x.toNat

def FV.neg : FV → FV
  | .nan => .nan
  | .inf n => .inf !n
  | .fin n m e => .fin (!n) m e

def FV.isNan : FV → Bool
  | .nan => true
  | _ => false

/-- The signed numerator of a finite value at exponent `e` (which is at most its own). -/
def FV.numAt (e : Int) : FV → Int
  | .fin n m x => (if n then -1 else 1) * ((m * 2 ^ (x - e).toNat : Nat) : Int)
  | _ => 0

/-- The exact value num × 2^e; a zero takes the sign `z`. -/
def FV.ofNum (z : Bool) (num : Int) (e : Int) : FV := if num = 0 then .fin z 0 e else .fin (decide (num < 0)) num.natAbs e

/-- The exact sum, with NV where ∞ − ∞ makes a NaN; `rdn` says that an exact zero sum of unlike signs is −0 (R19, R466). -/
def FV.add (rdn : Bool) : FV → FV → FV × BitVec 6
  | .nan, _ => (.nan, 0)
  | _, .nan => (.nan, 0)
  | .inf a, .inf b => if a = b then (.inf a, 0) else (.nan, fNV)
  | .inf a, .fin _ _ _ => (.inf a, 0)
  | .fin _ _ _, .inf b => (.inf b, 0)
  | .fin a m x, .fin b n y =>
    let e := min x y
    (FV.ofNum (if a = b then a else rdn) (FV.numAt e (.fin a m x) + FV.numAt e (.fin b n y)) e, 0)

/-- The exact product, with NV where 0 × ∞ makes a NaN (R19). -/
def FV.mul : FV → FV → FV × BitVec 6
  | .nan, _ => (.nan, 0)
  | _, .nan => (.nan, 0)
  | .inf a, .inf b => (.inf (a != b), 0)
  | .inf a, .fin b m _ => if m = 0 then (.nan, fNV) else (.inf (a != b), 0)
  | .fin a m _, .inf b => if m = 0 then (.nan, fNV) else (.inf (a != b), 0)
  | .fin a m x, .fin b n y => (.fin (a != b) (m * n) (x + y), 0)

/-- The flags of a product that is added to `c` with one rounding: none where `c` is a NaN, since the NaN that 0 × ∞ then ends in has a NaN
operand (R19; DEDUCED, log 8). -/
def FV.productFlags (c : FV) (fl : BitVec 6) : BitVec 6 := if c.isNan then 0 else fl

/-- `fma32(a, b, c)` on values, one rounding; flags of the whole operation (R466). -/
def fma32V (a b c : FV) : W32 × BitVec 6 :=
  let p := a.mul b
  let s := p.1.add false c
  let r := f32.rne s.1
  (BitVec.ofNat 32 r.1, c.productFlags p.2 ||| s.2 ||| r.2)

/-- `fma32` on FP32 patterns. -/
def fma32 (a b c : W32) : W32 := (fma32V (dec32 a) (dec32 b) (dec32 c)).1

/-- `rne32(a + b)` on FP32 patterns with the flags raised. -/
def add32 (a b : W32) : W32 × BitVec 6 :=
  let s := (dec32 a).add false (dec32 b)
  let r := f32.rne s.1
  (BitVec.ofNat 32 r.1, s.2 ||| r.2)

/-- `rne32(a × b)` on FP32 patterns with the flags raised. -/
def mul32 (a b : W32) : W32 × BitVec 6 :=
  let s := (dec32 a).mul (dec32 b)
  let r := f32.rne s.1
  (BitVec.ofNat 32 r.1, s.2 ||| r.2)

/-- The order of two values that are not NaN, −0 = +0: −1, 0 or 1. -/
def FV.cmp (a b : FV) : Int :=
  match a, b with
  | .inf x, .inf y => if x = y then 0 else if x then -1 else 1
  | .inf x, _ => if x then -1 else 1
  | _, .inf y => if y then 1 else -1
  | .fin x m e, .fin y n f =>
    let q := min e f
    let d := FV.numAt q (.fin x m e) - FV.numAt q (.fin y n f)
    if d < 0 then -1 else if d = 0 then 0 else 1
  | _, _ => 0

/-- The fields of FCR (R20). -/
structure FCtl where
  rm : BitVec 2
  ftz : Bool
  daz : Bool
  srd : Bool
  satn : Bool
  deriving DecidableEq, Repr

def FCtl.ofFcr (x : W64) : FCtl := ⟨BitVec.ofNat 2 (fld x 0 2), bit x 2, bit x 3, bit x 4, bit x 5⟩

/-- The rounding mode of FCR.RM (R20). -/
def FCtl.mode (c : FCtl) : RMode :=
  if c.rm = 0 then .rne else if c.rm = 1 then .rtz else if c.rm = 2 then .rdn else .rup

/-- The rounding of the operations that round by default: by RM, or by `sr` with the word under SRD (R465). -/
def FCtl.deflt (c : FCtl) (w : W32) : RMode := if c.srd then .sr w else c.mode

/-- Whether an exact zero sum of unlike signs is −0: RM = RDN (R466), also under SRD, for which the spec names no sign (DESIGN
CHOICE, log 52). -/
def FCtl.zneg (c : FCtl) : Bool := decide (c.rm = 2)

/-- Round(x + y), round(x − y) or round(x × y) into a format under FCR (R132, R153, R465). -/
def fAddF (m : Fmt) (c : FCtl) (w : W32) (sub : Bool) (x y : Nat) : Nat × BitVec 6 :=
  let b := m.dec c.daz y
  let s := (m.dec c.daz x).add c.zneg (if sub then b.neg else b)
  let r := m.round (c.deflt w) c.satn c.ftz s.1
  (r.1, s.2 ||| r.2)

def fMulF (m : Fmt) (c : FCtl) (w : W32) (x y : Nat) : Nat × BitVec 6 :=
  let s := (m.dec c.daz x).mul (m.dec c.daz y)
  let r := m.round (c.deflt w) c.satn c.ftz s.1
  (r.1, s.2 ||| r.2)

/-- FMIN (`mx` false) and FMAX: −0 < +0, one NaN gives the other operand, no flag (R153). -/
def fMinMax (m : Fmt) (daz ftz mx : Bool) (x y : Nat) : Nat :=
  let a := m.dec daz x
  let b := m.dec daz y
  let fin1 (v : FV) : Nat := (m.round .rtz false ftz v).1
  match a, b with
  | .nan, .nan => m.nan
  | .nan, v => fin1 v
  | v, .nan => fin1 v
  | u, v =>
    let c := u.cmp v
    let un := match u with | .fin n _ _ => n | .inf n => n | .nan => false
    if c = 0 then (if un = mx then fin1 v else fin1 u)
    else if decide (c < 0) != mx then fin1 u else fin1 v

/-- The whole number nearest to a value under a mode, and whether it is inexact. -/
def roundInt (r : RMode) (neg : Bool) (mag : Nat) (exp : Int) : Int × Bool :=
  let n := roundAt r neg mag exp 0
  (if neg then -(n.1 : Int) else n.1, n.2)

/-- Float to integer of `w` bits: round, then saturate; a NaN gives 0 (R27). A value that the saturation clamps sets NV and SAT alone, also
where its rounding was inexact (DESIGN CHOICE, log 63). -/
def toInt (w : Nat) (r : RMode) : FV → Int × BitVec 6
  | .nan => (0, fNV)
  | .inf neg => (if neg then -((2 ^ (w - 1) : Nat) : Int) else ((2 ^ (w - 1) : Nat) : Int) - 1, fNV ||| fSAT)
  | .fin neg mag exp =>
    let i := roundInt r neg mag exp
    let s := satS w i.1
    (s.1, if s.2 then fNV ||| fSAT else if i.2 then fNX else 0)

/-- The exact value of an integer. -/
def FV.ofInt (i : Int) : FV := .fin (decide (i < 0)) i.natAbs 0

/-- Multiplies a value by 2^k exactly. -/
def FV.scale (k : Int) : FV → FV
  | .fin n m e => .fin n m (e + k)
  | v => v

/-- The largest whole number not above a non-negative or negative finite value. -/
def floorI (neg : Bool) (mag : Nat) (exp : Int) : Int := (roundInt .rdn neg mag exp).1

end Sys2Proof.Machine
end

