-- ==== Sys2Proof/Machine/Shaper.lean ====
section
/-! DEFINITION. The shaper (R41 to R51): the es descriptor, the per-element step, and the KB block formats (R28 to R31). -/

namespace Sys2Proof.Machine

/-- Fields of an es descriptor (R42). -/
def esOwn (d : BitVec 128) : Nat := fld d 58 2
def esSatd (d : BitVec 128) : Bool := bit d 57
def esCarry (d : BitVec 128) : Bool := bit d 56
def esAxisCol (d : BitVec 128) : Bool := bit d 55
def esQrnd (d : BitVec 128) : Bool := bit d 54
def esFmt (d : BitVec 128) : Nat := fld d 50 4
def esOrder (d : BitVec 128) : Nat := fld d 48 2
/-- Coefficient h_k, k = 1..3, a signed count of 1/4096 (R43). -/
def esCoef (d : BitVec 128) (k : Nat) : FV := (FV.ofInt (toSigned 16 (fld d (16 * (k - 1)) 16))).scale (-12)

/-- The target formats of FMT (R46). -/
inductive Target where
  | flt (m : Fmt) (cexp : Int)
  | int (w : Nat)
  | kb (m : Nat)
  | reserved
  deriving DecidableEq, Repr

/-- FMT's target; the error clamp of a float target is 2^cexp (R46). -/
def targetOf (fmt : Nat) : Target :=
  match fmt with
  | 0 => .flt e4m3 4
  | 1 => .flt e5m2 12
  | 2 => .flt bf16 119
  | 3 => .flt f16 4
  | 4 => .int 8
  | 5 => .int 4
  | 6 => .kb 1
  | 7 => .kb 3
  | 8 => .kb 7
  | _ => .reserved

/-- m of a KB target. -/
def Target.kbM : Target → Option Nat
  | .kb m => some m
  | _ => none

/-- One es stream's words. -/
structure EsWords where
  e1 : W32
  e2 : W32
  e3 : W32
  deriving DecidableEq, Repr

/-- What one element of the shaper gives: the narrow result, the stream's new words, SATD, and flags (R47). -/
structure Shaped where
  y : Nat
  ws : EsWords
  satd : Bool
  flags : BitVec 6
  deriving DecidableEq, Repr

/-- The filter output f of R47, from h_k × e_k, k from ORDER down to 1. -/
def shapeF (d : BitVec 128) (ws : EsWords) : W32 :=
  let o := esOrder d
  let f3 : W32 := if 3 ≤ o then (fma32V (esCoef d 3) (dec32 ws.e3) (dec32 0)).1 else 0
  let f2 : W32 := if 2 ≤ o then (fma32V (esCoef d 2) (dec32 ws.e2) (dec32 f3)).1 else f3
  if 1 ≤ o then (fma32V (esCoef d 1) (dec32 ws.e1) (dec32 f2)).1 else f2

/-- The three words after an element whose error is `e` (R47). -/
def EsWords.push (ws : EsWords) (e : W32) : EsWords := ⟨e, ws.e1, ws.e2⟩

/-- ±2^k as an FP32 pattern. -/
def pow32 (neg : Bool) (k : Int) : W32 := rne32 (.fin neg 1 k)

/-- Closes an element whose quantised value is `yv`: e := rne32(y − u), clamped to 2^cexp (R47). -/
def shapeClose (cexp : Int) (ws : EsWords) (u yv : FV) (y : Nat) : Shaped :=
  let e := rne32 (yv.add false u.neg).1
  let tooBig := match dec32 e with
    | .fin _ m x => decide ((FV.fin false m x).cmp (.fin false 1 cexp) > 0)
    | .inf _ => true
    | .nan => false
  let neg := e.getLsbD 31
  if tooBig then ⟨y, ws.push (pow32 neg cexp), true, fSSAT⟩ else ⟨y, ws.push e, false, 0⟩

/-- Closes an element that saturates: e := −sign(u) × 2^cexp, SATD and SSAT (R47, R48). -/
def shapeSat (cexp : Int) (ws : EsWords) (uneg : Bool) (y : Nat) : Shaped :=
  ⟨y, ws.push (pow32 (!uneg) cexp), true, fSSAT⟩

def FV.isNeg : FV → Bool
  | .nan => false
  | .inf n => n
  | .fin n _ _ => n

def FV.abs : FV → FV
  | .nan => .nan
  | .inf _ => .inf false
  | .fin _ m e => .fin false m e

/-- `shape(es, x)` for one element (R47 to R49). `stepExp` is the exponent of the element spacing of a KB target, `kbNan`
says that the element's block is NaN, and `w` is the element's random word (R51). -/
def shapeElem (d : BitVec 128) (stepExp : Int) (kbNan : Bool) (x : FV) (w : W32) (ws : EsWords) : Shaped :=
  let f := shapeF d ws
  let u := dec32 (rne32 (x.add false (dec32 f).neg).1)
  let r : RMode := if esQrnd d then .sr w else .rne
  match targetOf (esFmt d) with
  | .flt m cexp =>
    if x.isNan || u.isNan then ⟨m.nan, ws.push 0, false, 0⟩
    else if (u.abs).cmp (m.dec false (m.maxBits false)) > 0 then shapeSat cexp ws u.isNeg (m.maxBits u.isNeg)
    else
      let y := (m.round r false false u).1
      shapeClose cexp ws u (m.dec false y) y
  | .int wd =>
    match x.isNan, u with
    | true, _ => ⟨0, ws.push 0, false, fNV⟩
    | _, .nan => ⟨0, ws.push 0, false, fNV⟩
    | _, .inf n =>
      shapeSat (-1) ws n (ofSigned 32 (if n then -((2 ^ (wd - 1) : Nat) : Int) else ((2 ^ (wd - 1) : Nat) : Int) - 1))
    | _, .fin n mg e =>
      let q := (roundInt r n mg e).1
      let s := satS wd q
      if s.2 then shapeSat (-1) ws n (ofSigned 32 s.1) else shapeClose (-1) ws u (FV.ofInt q) (ofSigned 32 q)
  | .kb m =>
    if kbNan then ⟨0, ws.push 0, false, 0⟩
    else match u with
      | .nan => ⟨0, ws.push 0, false, fNV⟩
      | .inf n => shapeSat (stepExp - 1) ws n ((if n then 2 ^ m else 0) + (2 ^ m - 1))
      | .fin n mg e =>
        let mq := (roundAt r n mg e stepExp).1
        if 2 ^ m - 1 < mq then shapeSat (stepExp - 1) ws n ((if n then 2 ^ m else 0) + (2 ^ m - 1))
        else shapeClose (stepExp - 1) ws u (.fin (n && decide (mq ≠ 0)) mq stepExp) ((if n && decide (mq ≠ 0) then 2 ^ m else 0) + mq)
  | .reserved => ⟨0, ws, false, 0⟩

/-- The scale choice of a KB block (R31): whether the block is NaN, E, the four sub-shifts, and whether E was clamped. -/
structure KbScale where
  nan : Bool
  e : Nat
  sub : List Nat
  sat : Bool
  deriving DecidableEq, Repr

/-- The magnitude of the largest of the values that is finite and not zero, as its leading exponent. -/
def maxLead : List FV → Option Int
  | [] => none
  | .fin _ m e :: t =>
    if m = 0 then maxLead t
    else match maxLead t with
      | none => some (leadExp m e)
      | some k => some (max k (leadExp m e))
  | _ :: t => maxLead t

/-- A value as plain numbers: an infinity and a NaN with the exponents 2^20 and 2^20 + 1. -/
def FV.parts : FV → Bool × Nat × Int
  | .nan => (false, 0, 2 ^ 20 + 1)
  | .inf n => (n, 0, 2 ^ 20)
  | .fin n m e => (n, m, e)

/-- E and the sub-shifts of 16 inputs, absent ones 0 (R31, R55, R161); those of a NaN block are free (log 57), but of a quad of zeros,
which has none in any block. -/
def kbScale (xs : List FV) : KbScale :=
  if xs.any (fun x => match x with | .fin _ _ _ => false | _ => true) then
    ⟨true, 0xFF, (List.range 4).map (fun j =>
      if ((xs.drop (4 * j)).take 4).all (fun x => match x with | .fin _ m _ => decide (m = 0) | _ => false) then 0
      else Config.kbNanSub (xs.map FV.parts) j % 4), false⟩
  else match maxLead xs with
    | none => ⟨false, 0, [0, 0, 0, 0], false⟩
    | some a =>
      let s := satI (a + 127) 0 254
      let e := s.1
      let sub (j : Nat) : Nat :=
        match maxLead ((xs.drop (4 * j)).take 4) with
        | none => 0
        | some b => (satI (e - 127 - b) 0 3).1.toNat
      ⟨false, e.toNat, [sub 0, sub 1, sub 2, sub 3], decide (a + 127 > 254)⟩

/-- The 16-bit scale record: E in [7:0], σ_j in [9+2j : 8+2j] (R29). -/
def KbScale.record (k : KbScale) : Nat :=
  k.e + k.sub.getD 0 0 * 2 ^ 8 + k.sub.getD 1 0 * 2 ^ 10 + k.sub.getD 2 0 * 2 ^ 12 + k.sub.getD 3 0 * 2 ^ 14

/-- The element spacing exponent of element i of a block: E − 127 − σ − (m − 1) (R28, R46). -/
def KbScale.stepExp (k : KbScale) (m i : Nat) : Int := (k.e : Int) - 127 - k.sub.getD (i / 4) 0 - ((m : Int) - 1)

/-- The value of element i of a KBm block from its scale record and its m+1 element bits (R28). -/
def kbValue (m : Nat) (record i bits : Nat) : FV :=
  let e := nfld record 0 8
  let sg := nfld record (8 + 2 * (i / 4)) 2
  if e = 0xFF then .nan
  else
    let neg := nfld bits m 1 = 1
    if m = 0 then .fin neg 1 ((e : Int) - 127 - sg)
    else
      let mg := nfld bits 0 m
      .fin (neg && decide (mg ≠ 0)) mg ((e : Int) - 127 - sg - ((m : Int) - 1))

/-- The bits of one KB element taken from the bytes of the element string (R29). -/
def kbBits (m : Nat) (bs : List Byte) (i : Nat) : Nat := nfld (ofLe bs) (i * (m + 1)) (m + 1)

/-- The packed bytes of element values under R29. -/
def kbPack (m : Nat) (els : List Nat) : List Byte :=
  let n := els.zipIdx.foldl (fun acc p => acc + (p.1 % 2 ^ (m + 1)) * 2 ^ (p.2 * (m + 1))) 0
  leBytes ((els.length * (m + 1) + 7) / 8) n

/-- The lane that a narrow result is written as (R160). -/
def shapeLane (kb : Bool) (y record : Nat) : W32 := BitVec.ofNat 32 (if kb then y + record * 2 ^ 16 else y)

end Sys2Proof.Machine
end

