-- ==== Sys2Proof/Machine/Store.lean ====
section
/-! DEFINITION. The one shape of every register file and memory: (index, value) pairs, indexes strictly rising, no value
that an unlisted index reads as (which is zero). Memory is the instance of 8-bit cells (`Host.Cell`). -/

namespace Sys2Proof.Machine

/-- Indexed values in canonical form; an unlisted index reads as 0. -/
abbrev Store (n : Nat) := List (Nat × BitVec n)

/-- The value at index `a`. -/
def Store.get {n : Nat} : Store n → Nat → BitVec n
  | [], _ => 0
  | (k, v) :: t, a => if a < k then 0 else if a = k then v else Store.get t a

/-- The store with index `a` holding `v`; writing 0 removes the entry. -/
def Store.put {n : Nat} : Store n → Nat → BitVec n → Store n
  | [], a, v => if v = 0 then [] else [(a, v)]
  | (k, x) :: t, a, v =>
    if a < k then (if v = 0 then (k, x) :: t else (a, v) :: (k, x) :: t)
    else if a = k then (if v = 0 then t else (a, v) :: t)
    else (k, x) :: Store.put t a v

/-- Every index of the store is at least `lo`, they rise strictly, and no listed value is 0. -/
def Store.wfFrom {n : Nat} : Nat → Store n → Bool
  | _, [] => true
  | lo, (k, v) :: t => decide (lo ≤ k) && decide (v ≠ 0) && Store.wfFrom (k + 1) t

/-- The canonical form. -/
def Store.wf {n : Nat} (m : Store n) : Bool := Store.wfFrom 0 m

/-- Writes consecutive values from index `a`. -/
def Store.putList {n : Nat} (m : Store n) (a : Nat) : List (BitVec n) → Store n
  | [] => m
  | v :: vs => Store.putList (m.put a v) (a + 1) vs

/-- `len` consecutive values from index `a`. -/
def Store.getList {n : Nat} (m : Store n) (a : Nat) : Nat → List (BitVec n)
  | 0 => []
  | len + 1 => m.get a :: Store.getList m (a + 1) len

/-- Writes at the listed indexes, in order. -/
def Store.putAll {n : Nat} (m : Store n) : List (Nat × BitVec n) → Store n
  | [] => m
  | (a, v) :: t => Store.putAll (m.put a v) t

end Sys2Proof.Machine
end

