-- ==== Sys2Proof/Machine/State.lean ====
section
/-! DEFINITION. The state of the machine as plain data: everything the spec gives one core with its four contexts and the
package around it, with `State.reset`. INVENTORY.md lists each piece with its rule and its reset value. -/

namespace Sys2Proof.Machine

open Sys2Proof

/-- Reasons a step stops the machine. -/
inductive Fault where
  /-- Raised by `step` when the package has lost power (R461) and no event is waiting. Safe: nothing runs there. -/
  | poweredOff
  deriving DecidableEq, Repr

/-- Reasons an instruction has no meaning here. -/
inductive Refusal where
  /-- The instruction has no meaning in the model yet. Safe. No arm of `exec` gives it. -/
  | notModelled (mnemonic : String)
  deriving DecidableEq, Repr

/-- A hardware loop register lp0–lp3 (R137, R138, R313). -/
structure LoopReg where
  active : Bool := false
  /-- LOOPSP. -/
  sp : Bool := false
  /-- Counters of the levels, outermost first, each with its trip count. -/
  levels : List (Nat × Nat) := []
  pass : Nat := 0
  passes : Nat := 0
  trip : Nat := 0
  stages : Nat := 0
  /-- Address of the first body bundle and of the bundle after the body. -/
  start : Nat := 0
  stop : Nat := 0
  /-- How many loops were active when it was entered: the innermost has the highest. -/
  depth : Nat := 0
  deriving DecidableEq, Repr

/-- A sticky latch (R81, R83). -/
structure Latch where
  valid : Bool := false
  sticky : Bool := false
  w0 : W32 := 0
  w1 : W32 := 0
  off : W64 := 0
  row : BitVec 7 := 0
  deriving DecidableEq, Repr

/-- What a landing-buffer entry writes when it lands (R88, R106, R147). -/
inductive Land where
  | nothing
  | s (r : Nat) (v : W64)
  | m (r : Nat) (v : W64)
  | g (mask val : BitVec 16)
  | k (r : Nat) (mask val : BitVec 128)
  | v (grp r : Nat) (mask : BitVec 16) (lanes : List W32)
  | fcr (v : W64)
  | fsrClear (v : BitVec 6)
  | sys (sel : Nat) (v : W64)
  /-- SSRCFG, SSRCLR, SSRWR and BFXCFG, which take effect at the end of their tick (R129, R131). -/
  | esCfg (i : Nat) (d : BitVec 128)
  | esClear (i : Nat) (all : Bool)
  | esWord (i n : Nat) (v : W32)
  | bx (i : Nat) (v : BitVec 128)
  deriving DecidableEq, Repr

/-- A landing-buffer entry: due at the end of tick `due`, from slot position `pos`, waiting for load `tok` while not ready,
with the FSR flags that set when it lands (R23, R88, R107). -/
structure LandEntry where
  due : Nat
  pos : Nat
  tok : Nat := 0
  ready : Bool := true
  act : Land
  flags : BitVec 6 := 0
  deriving DecidableEq, Repr

/-- Where the bytes of a load go (R115, R165, R171, R172, R178). -/
inductive LoadDst where
  | nothing
  | s (r size : Nat) (sgn : Bool)
  | v (grp r ty : Nat) (mask : BitVec 16)
  | ldt (grp r : Nat)
  | ldx (grp r : Nat) (pat : BitVec 128) (sx : Bool) (first : Nat)
  /-- A push to stream q: its entries' place among the pushes since the last checkpoint, their number and element type. -/
  | push (q at_ n ty : Nat)
  deriving DecidableEq, Repr

/-- The kinds of access that enter the ordering machine (R288). -/
inductive AccKind where
  | load
  | store
  | ssig
  | ssigClr
  | spAmo
  | amo
  | vamo
  | skupd
  | skqry
  deriving DecidableEq, Repr

/-- One access of a context (R285, R288): held, queued, or at a home queue. -/
structure Acc where
  /-- Program order within the context. -/
  id : Nat
  kind : AccKind
  cls : BitVec 4 := 0
  /-- A scratchpad location (keys of `State.sp`) or a memory location (physical addresses). -/
  sp : Bool := false
  /-- Byte addresses a load reads, in order. -/
  addrs : List Nat := []
  /-- Bytes a store writes, in order. -/
  cells : List (Nat × Byte) := []
  va : Addr := 0
  /-- The addresses that its stores have for the signature, as the program forms them: one, or one for each lane of a SCAT; that of memory
  where none is listed (R447). -/
  sig : Option (List Nat) := none
  /-- Translated through an entry with WP = 1 (R389): a write parks; the virtual address of each cell, or of each lane. -/
  wp : Bool := false
  vas : List Nat := []
  /-- The entry that a parked write used has been removed: it translates again (R389). -/
  stale : Bool := false
  rel : Bool := false
  acq : Bool := false
  scope : BitVec 3 := 0
  /-- 0 allocates in L1, 1 streams past it, 2 bypasses it (R170). -/
  route : Nat := 0
  /-- Every location of it is homed on another package. -/
  remote : Bool := false
  /-- A `.strm` store that has updated a copy of its line at the L1 and is not served yet (R276). -/
  upd : Bool := false
  counted : Bool := false
  /-- The operation of an atomic or accumulate, its width in bytes, operand, expected value and random word. -/
  op : Nat := 0
  width : Nat := 0
  operand : W64 := 0
  expect : W64 := 0
  rnd : W32 := 0
  sr : Bool := false
  /-- Lanes of a VAMO: address, operand, random word; lane updates of a SKUPD or lane queries of a SKQRY: index, value (of a
  SKQRY: 16 × entry + lane), random word. -/
  lanes : List (Nat × W32 × W32) := []
  dst : LoadDst := .nothing
  sem : BitVec 8 := 0
  inc : Nat := 0
  /-- SC ticket (R301) and the tumbler: 0 none, 1 package, 2 domain. -/
  ticket : Nat := 0
  tumbler : Nat := 0
  bundle : Nat := 0
  deriving DecidableEq, Repr

/-- One entry of a queue latch as the context holds it. -/
structure QSlot where
  e : QEntry
  /-- Visible to the consumer (R148, R177). -/
  vis : Bool
  /-- The tick after which a loopback entry is seen (R148, R178). -/
  due : Nat
  /-- The SKQRY or PUSHQ access that fills it (0: none). -/
  tok : Nat
  /-- The tick at which it was pushed. -/
  born : Nat
  /-- The place of a SKQRY's entry among those of its repetition, the F of its header and the counters it awaits once they
  are known, and the answers so far: lane and signed counter (R177, R397). -/
  idx : Nat := 0
  fexp : Int := 0
  need : Option Nat := none
  ans : List (Nat × Int) := []
  deriving DecidableEq, Repr

/-- An entry pushed to a neighbour core by stream q; that of a PUSHQ waits for the load `tok` to supply it (0: it holds its lanes) (R148,
R178). -/
structure Pushed where
  q : Nat
  e : QEntry
  tok : Nat := 0
  deriving DecidableEq, Repr

/-- A queue latch q1–q7 of a context: entries, retention store, push log and their counts since the last checkpoint (R317,
R322). -/
structure Que where
  ents : List QSlot := []
  retained : List QSlot := []
  log : List Pushed := []
  pushes : Nat := 0
  deriving DecidableEq, Repr

/-- The state a recoverable trap restores (R12, R315), with the position of the bundle and repetition. -/
structure Arch where
  s : Store 64 := []
  g : BitVec 16 := 0
  k : Store 128 := []
  m : Store 64 := []
  /-- Lane l of register r of group g at ((g × 35) + r) × 16 + l; r = 32, 33, 34 are ba, bb, bc. -/
  v : Store 32 := []
  esd : Store 128 := []
  /-- Word w of esi at 384 × i + w (R44). -/
  esw : Store 32 := []
  lps : List LoopReg := [{}, {}, {}, {}]
  /-- The loop buffer: the syllables of each body bundle fetched, by header address (R137). -/
  lbuf : List (Nat × List W32) := []
  bx : Store 128 := []
  latches : List Latch := List.replicate 15 {}
  landing : List LandEntry := []
  fcr : W64 := 0
  fsr : W64 := 0
  lscale : W64 := 0
  lscfg : W64 := 0
  rkey : W64 := 0
  rctr : W64 := 0
  trel : W64 := 0
  hbase : W64 := 0
  hlimit : W64 := 0
  hoffs : W64 := 0
  driftcfg : W64 := 0
  tracecfg : W64 := 0
  pc : Nat := 0
  rep : Nat := 0
  cmdno : BitVec 16 := 0
  collSeq : List (BitVec 12 × BitVec 32) := []
  /-- The records begun, each with the next access identifier and command order at its RSEEK, and whether the last is in
  progress (R402, R403). -/
  recs : List (Nat × Nat) := []
  recOpen : Bool := false
  deriving DecidableEq, Repr

/-- A matrix call (R185): what it latched, whether it is committed, and the tiles and es registers it names (R464). -/
structure Call where
  routine : BitVec 8
  m : List W64
  rkey : W64
  bundle : Nat
  /-- The tick it was created at, and its place in the context's order of commands and calls. -/
  born : Nat := 0
  order : Nat := 0
  committed : Bool := false
  accs : BitVec 8 := 0
  ess : BitVec 4 := 0
  /-- es fields of ACHN, and of epilogue NRW. -/
  achnEs : BitVec 4 := 0
  nrwEs : BitVec 4 := 0
  deriving DecidableEq, Repr

/-- The progress of a collective (R338 to R343). -/
structure CollRun where
  seq : BitVec 32 := 0
  /-- Rank and members, and the fields of the table entry, read when the COLL starts (R404). -/
  rank : Nat := 0
  members : List (BitVec 28) := []
  maxf : Nat := 0
  weight : Nat := 0
  prio : Nat := 0
  vc : Nat := 0
  /-- Digests that have arrived, and notices that a member has committed or reports a mismatch, by the rank they come from (R302,
  R340). -/
  got : List (Nat × W64) := []
  /-- Its place among the steps of R332 and R473, and whether that step has begun. -/
  step : Nat := 0
  entered : Bool := false
  /-- Chunks of the step sent and received, permits granted and not used; permits held for sending, by the peer's rank and the step, and
  the ranks of the peers that have still to acknowledge a chunk, one for each (R337). -/
  sent : Nat := 0
  recvd : Nat := 0
  granted : Nat := 0
  permits : List (Nat × Nat) := []
  unacked : List Nat := []
  /-- Chunks that it still has to receive, once it has begun (R405). -/
  left : Nat := 0
  /-- Bytes of the source buffer by their offset: as they were at the commit, and those of the words read so far (R342). -/
  src : List (Nat × Byte) := []
  seen : List (Nat × Byte) := []
  /-- Elements held before the step (empty while the source buffer holds them) and those that the step has put in place, by
  their index in the whole tensor. -/
  work : List (Nat × Nat) := []
  next : List (Nat × Nat) := []
  deriving DecidableEq, Repr

/-- What a member of a collective sends another: its digest, a notice of its commit, a report of a mismatch, a permit for a chunk of a step,
an acknowledgement, a chunk of a step (R302, R333, R337, R340). -/
inductive WireWhat where
  | digest (d : W64)
  | commit
  | report
  | permit (step : Nat)
  | ack
  | chunk (step : Nat) (bytes : List Byte)
  deriving DecidableEq, Repr

/-- A message of a collective between two members on this core: the communicator, the sequence number, the member that it is for, the
rank of the one it comes from. -/
structure Wire where
  comm : BitVec 12
  seq : BitVec 32
  dst : BitVec 28
  src : Nat
  what : WireWhat
  deriving DecidableEq, Repr

/-- A sketch header (R392). -/
structure SkHead where
  key : W64
  d : Nat
  k : Nat
  f : Int
  rowbase : Nat
  deriving DecidableEq, Repr

/-- An engine command (R228 to R234): tokens, the descriptor it copied, what it latched, and its progress. -/
structure Cmd where
  id : BitVec 16
  eng : Engine
  op : Nat
  timed : Bool
  ef : EF
  desc : List Byte
  trel : W64
  fcr : W64
  rkey : W64
  bundle : Nat
  /-- Issue order within the context, over all engines. -/
  order : Nat
  committed : Bool := false
  /-- The next access identifier of the context at its commit (R231). -/
  commitId : Nat := 0
  started : Bool := false
  /-- Every write it makes has been made. -/
  finished : Bool := false
  /-- Elements, blocks or words done. -/
  pos : Nat := 0
  /-- GTB at which its wait on a tile state began (R274). -/
  since : Option W64 := none
  /-- Counters that a sketch command has not updated yet: row × 2^K + index (R245). -/
  todo : List Nat := []
  /-- The headers that it read at its start, the target's first, and COUNT of the source's (R393). -/
  heads : List SkHead := []
  srcCount : Nat := 0
  /-- What the bytes that a COPY has written held before: scratchpad bytes at odd keys, memory at even ones (R236). -/
  old : List (Nat × Byte) := []
  flags : BitVec 6 := 0
  coll : CollRun := {}
  deriving DecidableEq, Repr

/-- One raw weight block in the weight-stream buffer (R240). -/
structure WBlock where
  fmt : BitVec 4
  k : Nat
  bytes : List Byte
  deriving DecidableEq, Repr

/-- What a context waits for (R249, R318). -/
inductive Wait where
  | run
  /-- The repetition has issued; its results land at the end of the tick (R319). -/
  | landing
  /-- A result due at the end of the tick waits for its load (R107, R169). -/
  | returning
  /-- A repetition that blocks on an engine and is tried again (R65, R148, R177, R185, R230): the core switches. -/
  | blocked
  /-- An issue stall that is tried again (R107, R169, R170, R182, R190, R273): the core stays. The number is the cause of
  R441: 1 tile state, 2 load return, 3 matrix or O interlock, 4 fence or acquire. -/
  | stall (cause : Nat)
  | swait (sem : BitVec 8) (thr : Nat) (acq soft : Bool)
  /-- SSTEP before its arrival (timed commands outstanding) and after it. -/
  | sstepCmds
  | sstepHasp
  | barw (h phase : Nat)
  | bara (h phase : Nat)
  | waitt (target : W64)
  | node (idx : BitVec 12) (live : BitVec 4)
  /-- A qualifying NODE that waits for the launch's other contexts on the core (R368). -/
  | nodePeers (idx : BitVec 12) (live : BitVec 4)
  | ending
  /-- Parked at a PROBE page fault (R387), after a long-service answer if the flag is set (R388). -/
  | probe (va : Addr) (kind : BitVec 2) (long logged : Bool)
  /-- A self-test fence holds it (R429). -/
  | fenced
  deriving DecidableEq, Repr

/-- The run state of a hardware context. -/
inductive CtxMode where
  | free
  /-- Waits for GTB to reach the start or resume count. -/
  | starting (gtb : W64)
  | live
  /-- Stopped for the debugger (R320, R443). -/
  | stopped
  | ended
  | preempted
  deriving DecidableEq, Repr

/-- The share of a context (R348) and its launch's common parts. -/
structure Share where
  tile : Nat × Nat := (1, 0)
  sem : Nat × Nat := (1, 0)
  hasp : Nat × Nat := (1, 0)
  shsem : Nat × Nat := (1, 0)
  acc : BitVec 8 := 0
  q : BitVec 4 := 0
  /-- The kind of q4–q7 as this context's input, 0 where it is unbound on this core; and whether a push to it feeds a
  consumer (R349). -/
  qbind : List Nat := [0, 0, 0, 0]
  qpush : BitVec 4 := 0
  deriving DecidableEq, Repr

/-- A record that a context has still to append to a log of its own while a page of it is in a migration window: base, LOGN in records, the
record, the bundle it is of (R389, R438). -/
structure LogRec where
  base : Nat
  logn : Nat
  bytes : List Byte
  bundle : Nat
  deriving DecidableEq, Repr

/-- One hardware context (R12). -/
structure Context where
  arch : Arch := {}
  shadow : Arch := {}
  mode : CtxMode := .free
  wait : Wait := .run
  lid : BitVec 32 := 0
  coord : W64 := 0
  ctxid : W64 := 0
  asid : BitVec 16 := 0
  cls : BitVec 3 := 0
  share : Share := {}
  tick : Nat := 0
  cycles : Nat := 0
  /-- The next access identifier. -/
  nextId : Nat := 1
  hold : List Acc := []
  queue : List Acc := []
  /-- The q0 head entry has been generated (R260). -/
  q0gen : Bool := false
  qs : List Que := List.replicate 8 {}
  /-- Entries pushed to a neighbour core and still on their way, with their latch (R148). -/
  out : List Pushed := []
  calls : List Call := []
  cmds : List Cmd := []
  nextOrder : Nat := 0
  wbuf : List WBlock := []
  /-- An implicit or explicit checkpoint has been taken for the current repetition (R316). -/
  ckptDone : Bool := false
  /-- The next access identifier and the tick at the last checkpoint. -/
  ckptId : Nat := 1
  ckptTick : Nat := 0
  /-- The header of the bundle that issues. -/
  hdr : W32 := 0
  /-- Where a taken transfer of the current bundle goes (R136, R137, R140). -/
  nextPc : Option Nat := none
  /-- The bundle and the repetition that follow the one that has issued, and the wait it has begun. -/
  succ : Nat := 0
  succRep : Nat := 0
  pend : Wait := .run
  /-- The atomics performed since the last checkpoint, with their results, and those a replay still has to pass (R121). -/
  atoms : List (Nat × Option W64) := []
  replay : List (Nat × Option W64) := []
  /-- What the O slot has overwritten in the accumulators since the last checkpoint, newest first: a trap gives it back, so that a replay
  adds and scales once (R435). -/
  accUndo : List (Nat × W32) := []
  /-- GTB at which a stall on tile state began (R274). -/
  stallSince : Option W64 := none
  /-- GTB at its last PROBE page fault (R387). -/
  faultAt : W64 := 0
  /-- A wait of R316's last synchronisation row has ended: checkpoint before the next bundle. -/
  ckptDue : Bool := false
  /-- The bundle of the breakpoint that the next execution passes by (R255). -/
  brkAt : Nat := 0
  brkPassed : Bool := false
  brkCode : BitVec 20 := 0
  stopReq : Bool := false
  preReq : Bool := false
  /-- Ticks of interlock trace left (R440). -/
  traceLeft : Nat := 0
  /-- The ticks of a trace that a MARK of the present tick arms (R440). -/
  traceArm : Option Nat := none
  /-- What has held the context since its last tick, and what held it before that tick; ITER and LOOP of the bundle it last issued,
  and where that lies (R441, R442). -/
  traceCause : Nat := 0
  lastCause : Nat := 0
  lastLoop : Nat × Nat := (0, 0)
  lastPc : Nat := 0
  /-- Log records that wait for a migration window to close, oldest first. -/
  logWait : List LogRec := []
  sig : BitVec 64 := 0
  /-- RPLBASE as latched at the launch's start, entries used in the replay recording (R446), and whether it has been dropped. -/
  rplBase : W64 := 0
  rplPos : Nat := 0
  rplOff : Bool := false
  /-- Kind and place of the entries recorded since the last checkpoint, and those that a trap has taken back, whose places the entries made
  again take; of each kind the place from which a replay looks for the next one, now and at the last checkpoint (R435, R448, log 39). -/
  rplNew : List (Nat × Nat) := []
  rplRedo : List (Nat × Nat) := []
  rplAt : List Nat := List.replicate 7 0
  rplAtCk : List Nat := List.replicate 7 0
  /-- The TDEFs and TFREEs executed since the last checkpoint, and those that a replay still has to pass (R435). -/
  tileDone : Nat := 0
  tileSkip : Nat := 0
  /-- The tick at which each guard became readable (R92). -/
  guardAt : List Nat := List.replicate 16 0
  /-- The bundle of the last marker whose signature matched the recorded one (R448). -/
  lastMark : Option Nat := none
  /-- The SR positions of this context's launch at each slice (R282) are in `State.srPos`. -/
  order : Nat := 0
  savedNode : BitVec 12 := 0
  savedLive : BitVec 4 := 0
  deriving DecidableEq, Repr

/-- The report of REPLAY_DIVERGED (R448): the launch, the marker's bundle, its signature and the recorded one, and the last matching
marker. -/
structure DivReport where
  lid : BitVec 32
  bundle : Nat
  sig : W64
  recorded : W64
  last : Option Nat
  deriving DecidableEq, Repr

/-- A tile-table entry (R271), with what the device keeps beside it. -/
structure Tile where
  base : Nat := 0
  size : Nat := 0
  expected : Nat := 0
  arrived : Nat := 0
  tid : BitVec 16 := 0
  owner : BitVec 2 := 0
  state : BitVec 2 := 0
  /-- Reserved as a collective's chunk tile (R338). -/
  reserved : Bool := false
  /-- DRAINING by a TFREE of context `freeCtx` (R127): its calls and loads issued before these marks must complete. -/
  freeing : Bool := false
  freeCtx : Fin 4 := 0
  freeCalls : Nat := 0
  freeLoads : Nat := 0
  /-- The launch of a tile of another core of the cluster, as its core has reported it (R269). -/
  lid : BitVec 32 := 0
  deriving DecidableEq, Repr

/-- A hasp barrier as this core holds it (R249, R306). -/
structure Hasp where
  /-- The members on this core, and whether there are others elsewhere. -/
  members : Nat := 0
  far : Bool := false
  arrived : BitVec 4 := 0
  phase : Nat := 0
  rel : W64 := 0
  /-- GTB at the last arrival, or end of a member, here: no release is decided before it (R309). -/
  last : W64 := 0
  deriving DecidableEq, Repr

/-- A weight bank of a call (R192, R204): rows of raw bytes with their scale records, and 2:4 metadata. -/
structure Bank where
  full : Bool := false
  fmt : BitVec 4 := 0
  rows : List (List Byte) := []
  scales : List (List Half) := []
  hasMeta : Bool := false
  mdata : List Byte := []
  deriving DecidableEq, Repr

/-- An operand source in scratchpad (R203): base, format, stride, scale register; `tload` for the weight stream. -/
structure Src where
  tload : Bool := false
  preg : Nat := 0
  fmt : BitVec 4 := 0
  sreg : Nat := 0
  stride : Nat := 0
  deriving DecidableEq, Repr

/-- The chain buffer (R210): narrowed elements of each row with their scale records, and the tile they came from. -/
structure Chain where
  fmtCode : Nat := 0
  cols : Nat := 0
  rows : List (List Nat) := []
  scales : List (List Half) := []
  tile : Nat := 0
  deriving DecidableEq, Repr

/-- The row that an epilogue program is working on (R212, R217). -/
structure EpiRun where
  w : WF
  prog : Nat
  row : Nat
  row0 : Nat
  last : Nat
  word : Nat
  x : List (List W32)
  /-- Entries of the current PUSH already in q2 (R224), or 1 once the current WRT has written its elements (R223). -/
  pushed : Nat := 0
  /-- What the DRN has overwritten, newest first, and the es registers before it: a DRN that does not finish leaves no effect (R191, R325). -/
  undoSp : List (Nat × Byte) := []
  undoMem : List (Nat × Byte) := []
  undoAcc : List (Nat × W32) := []
  /-- The tiles that it has counted words towards, newest first: key, entry before the count, words. -/
  undoTiles : List (Nat × Tile × Nat) := []
  esd : Store 128 := []
  esw : Store 32 := []
  deriving DecidableEq, Repr

/-- The call that the matrix sequencer runs (R192). -/
structure CallRun where
  ctx : Fin 4
  call : Call
  word : Nat
  p : List W64
  wb0 : Bank := {}
  wb1 : Bank := {}
  wsrc : Option Src := none
  asrc : Option Src := none
  chain : Option Chain := none
  useChain : Bool := false
  flags : BitVec 6 := 0
  nAchn : Nat := 0
  nDrn : Nat := 0
  verif : Nat := 0
  reexec : Nat := 0
  mismatch : Nat := 0
  /-- The tiles that its word keeps claimed until it has been executed again (R197, R432). -/
  claimed : List Nat := []
  ended : Bool := false
  epi : Option EpiRun := none
  /-- GTB at which its wait on a tile state began (R274). -/
  stallSince : Option W64 := none
  deriving DecidableEq, Repr

/-- A byte held at a station (R285): value, dirty bit, and the store it came from (context, identifier, class). -/
structure StByte where
  pa : Nat
  val : Byte
  dirty : Bool
  ctx : Fin 4
  id : Nat
  cls : BitVec 4
  /-- The part of its store that propagates as one unit with it, and the bytes of that unit: 4 or 8 for an aligned store of as many,
  1 for a byte that moves alone (R293). -/
  unit : Nat := 0
  size : Nat := 1
  /-- Of a clean copy: how many stores of its whole aligned 4-byte word have reached home since it was taken (R296). -/
  age : Nat := 0
  /-- Of a dirty byte: the stores (context, identifier, class) whose dirty byte it has replaced on its way, which go on with it (R293). -/
  covers : List (Fin 4 × Nat × BitVec 4) := []
  deriving DecidableEq, Repr

/-- An operation that has arrived at a home-slice queue (R300). -/
structure HomeOp where
  id : Nat
  ctx : Fin 4
  acc : Acc
  deriving DecidableEq, Repr

/-- A request at a scratchpad bank (R266): source rank, the cycle in which it has reached the bank, what it does; of a core of the
cluster other than this one, the request as it came. -/
structure BankReq where
  bank : Nat
  rank : Nat
  ctx : Fin 4
  acc : Acc
  cycle : Nat := 0
  peer : Option PeerReq := none
  deriving DecidableEq, Repr

/-- A TLB entry (R380). -/
structure TlbEnt where
  asid : BitVec 16
  sz : Nat
  va : Addr
  pa : Addr
  r : Bool
  w : Bool
  x : Bool
  wp : Bool
  deriving DecidableEq, Repr

/-- A posted invalidation (R261): address, space, level hint, count, and the TLBs it has not reached. -/
structure Inval where
  va : Addr
  asid : BitVec 16
  level : Nat
  count : Nat
  /-- From the host's invalidate queue (R391), not from a management hart; else the hart. -/
  host : Bool := false
  hart : Nat := 0
  pending : List TlbRef
  /-- The entries that it removed from the compute TLBs. -/
  removed : List TlbEnt := []
  deriving DecidableEq, Repr

/-- The first fatal fault of a launch (R326, R359). -/
structure FaultRec where
  code : Byte
  coord : BitVec 28
  bundle : Nat
  cmd : W32
  gtb : W64
  deriving DecidableEq, Repr

/-- A launch that the scheduler has started and not ended (R357, R359). -/
structure Launch where
  lid : BitVec 32
  queue : Nat
  desc : List Byte
  cls : BitVec 3
  tstart : W64
  fault : Option FaultRec := none
  cmdOk : Nat := 0
  cmdFail : Nat := 0
  callOk : Nat := 0
  callFail : Nat := 0
  chunkOk : Nat := 0
  chunkFail : Nat := 0
  blkOk : Nat := 0
  blkFail : Nat := 0
  recOk : Nat := 0
  recFail : Nat := 0
  /-- The core is held for the debugger, and the debugger has attached (R444). -/
  held : Bool := false
  attached : Bool := false
  deriving DecidableEq, Repr

/-- A block submitted to a multicast group and not yet settled (R243, R303). -/
structure McSub where
  ext : Bool
  ctx : Fin 4
  cmd : BitVec 16
  blk : McBlock
  /-- Sequence number once stamped. -/
  seq : Option (BitVec 48) := none
  /-- Lines of it that this member has written, and whether the header counts it while its notice has still to be pushed (R303). -/
  lines : Nat := 0
  counted : Bool := false
  deriving DecidableEq, Repr

/-- A multicast group as this package holds it beside its table entry (R412, R415). -/
structure Group where
  next : BitVec 48 := 1
  subs : List McSub := []
  /-- The window and the view that the table entry named last (R415). -/
  base : Nat := 0
  view : Nat := 0
  /-- The number up to which a view change skips what it does not apply (R418). -/
  skipTo : Option (BitVec 48) := none
  /-- The lost packages that the present view has settled. -/
  gone : List (BitVec 10) := []
  deriving DecidableEq, Repr

/-- A targeted self-test in progress, or one that waits for another unit of the same array (R429, R431). -/
structure Test where
  u : UnitRef
  cause : TestCause
  lid : BitVec 32
  gtb : W64
  count : Nat
  /-- The whole array is under this test (R431). -/
  whole : Bool := false
  deriving DecidableEq, Repr

/-- A protected word whose check fails, and the unit that holds it: [base, base + len) in the numbers of its space (R428). -/
structure BadWord where
  space : Space
  base : Nat
  len : Nat
  u : UnitRef
  deriving DecidableEq, Repr

/-- A management hart (R261): the registers that HTLBI reads and the illegal-instruction exception writes. PRESUMED layout
and reset values: the RISC-V privileged architecture (log 6). -/
structure Hart where
  x : Store 64 := []
  pc : W64 := 0
  /-- 3 machine, 1 supervisor, 0 user. -/
  priv : BitVec 2 := 3
  mstatus : W64 := 0
  mtvec : W64 := 0
  mepc : W64 := 0
  mcause : W64 := 0
  mtval : W64 := 0
  /-- Waits at an HTLBF. -/
  flushing : Bool := false
  deriving DecidableEq, Repr

/-- A launch that has ended or was not run, as its dependents see it (R353, R358). -/
structure Ended where
  lid : BitVec 32
  code : Byte
  cdom : BitVec 16
  queue : Nat
  /-- Its place in the order of entry (R353). -/
  serial : Nat := 0
  deriving DecidableEq, Repr

/-- What the scheduler remembers (R352 to R362). -/
structure Sched where
  /-- The queue of the launch it started last. -/
  lastQueue : Nat := 63
  /-- The descriptor of the candidate that waits for its resources (R355). -/
  reserved : Option (List Byte) := none
  /-- GTB at the last admission or resumption of ballast (R362). -/
  lastAdmit : Option W64 := none
  /-- The launch that owns the core's microprogram and epilogue stores (R352). -/
  owner : Option (BitVec 32) := none
  /-- The coherence domain whose launch last had the core (R358). -/
  cdom : BitVec 16 := 0
  /-- The core is retired from placement (R430). -/
  retired : Bool := false
  /-- The 4,096 launches that ended last, most recent first (R353). -/
  ended : List Ended := []
  /-- The launches queued, in order of entry: 2^32 × queue + count, and GTB at the entry (R354). -/
  enter : List (Nat × W64) := []
  /-- The places of these launches in the order of all entries, and the next place. -/
  serials : List (Nat × Nat) := []
  nextSerial : Nat := 1
  /-- The descriptors of queued launches: what their slots held at the doorbell, and what has been read of a head (R422). -/
  slots : List (Nat × List Byte) := []
  heads : List (Nat × List Byte) := []
  /-- Heads whose read has met a word that fails its check (R428). -/
  badHeads : List Nat := []
  /-- Queued launches that have been killed (R361). -/
  killed : List (BitVec 32) := []
  /-- The launches, by LID, that place a core which the resident kernel has not registered for their coherence domain (R352). -/
  barred : List (BitVec 32) := []
  deriving DecidableEq, Repr

/-- A write of a device register on its way from the host, the debugger or the resident kernel: queue, die or offset, its
width in bytes, and its value (R407, R420 to R423). -/
structure RegWrite where
  idx : Nat := 0
  size : Nat := 8
  val : W64 := 0
  host : Bool := true
  deriving DecidableEq, Repr

/-- A firmware image in the nonvolatile store: the bytes of its header and its body (R460). -/
structure BootImage where
  header : List Byte := []
  body : List Byte := []
  deriving DecidableEq, Repr

/-- Which unit takes the next step: any of them, by free choice; or the core, the matrix sequencer or the management hart
(log 14). The model's own. -/
inductive Turn where
  | any
  | core
  | sequencer
  | hart
  deriving DecidableEq, Repr

/-- The machine. -/
structure State where
  c0 : Context := {}
  c1 : Context := {}
  c2 : Context := {}
  c3 : Context := {}
  /-- The pre-empted contexts with their slots, in the order of their pre-emption (R368, R373). -/
  away : List (Fin 4 × Context) := []
  /-- The context that issues now (R318). -/
  cur : Fin 4 := 0
  /-- What the units of a triad pass on within a tick: lane l of unit u of group g at (g × 3 + u) × 16 + l (R98). -/
  casc : Store 32 := []
  sp : Store 8 := []
  tiles : List (Nat × Tile) := []
  semVal : Store 16 := []
  semLatch : Store 1 := []
  semCode : Store 8 := []
  hasps : List (Nat × Hasp) := []
  /-- Word of accumulator tile t, row r, column c at (t × 128 + r) × 128 + c. -/
  acc : Store 32 := []
  mu : Store 64 := []
  ep : Store 32 := []
  scaleCache : List (Nat × Nat × Half) := []
  run : Option CallRun := none
  lastCallCtx : Fin 4 := 3
  /-- The communicator whose turn it is in the collective engine, and the chunks left of the turn (R339). -/
  collTurn : Nat × Nat := (0, 0)
  /-- What collectives of contexts of this core have sent one another and has not arrived, oldest first. -/
  wire : List Wire := []
  bankQ : List BankReq := []
  /-- The cycle in which the newest of these requests has reached its bank. -/
  bankCycle : Nat := 0
  /-- Memory at home by physical address; region 0x02 of this package is the window of host memory at HOSTOFF (R406). -/
  mem : Store 8 := []
  /-- While a TLOAD is outstanding: the 64-byte lines written, by number, as they were before a write, and of each context the place in its
  order of commands that came next: a TLOAD before it was outstanding (R284). -/
  wrote : List (Nat × List Byte × List Nat) := []
  /-- Host memory outside the window, by bus address (R406). -/
  hostMem : Store 8 := []
  stCore : List StByte := []
  stCluster : List StByte := []
  stDie : List StByte := []
  homeQ : List HomeOp := []
  nextHome : Nat := 1
  pkgTumbler : Nat := 0
  domTumbler : Nat := 0
  /-- Next SR position per (launch, slice) (R282). -/
  srPos : List (BitVec 32 × Nat × Nat) := []
  tlb : List TlbEnt := []
  /-- Entries that others have displaced from the TLBs: accesses translated through them may be under way still (R390). -/
  tlbOld : List TlbEnt := []
  invals : List Inval := []
  /-- Registers of region 0x01 by offset (R407, R421, R450). -/
  mreg : Store 64 := []
  launches : List Launch := []
  sched : Sched := {}
  groups : List (Nat × Group) := []
  fused : Bool := false
  gtb : W64 := 0
  booted : Bool := false
  halted : Bool := false
  powered : Bool := true
  rollback : BitVec 32 := 0
  /-- The nonvolatile store's image, the hash of its key that is fused in H-die 0, and the image body that boot has loaded (R460, R462). -/
  image : BootImage := {}
  keyHash : List Byte := List.replicate 32 0
  loaded : List Byte := []
  tests : List Test := []
  spares : List (UnitRef × Nat) := []
  /-- The 64 KiB pages, by number, reported to the resident kernel for removal from service (R430). -/
  reported : List Nat := []
  retiredUnits : List UnitRef := []
  /-- Per stack what has accrued towards the refreshes of each of its banks by the GTB count `refAt`, 609,375 to a refresh; per bank what
  of it is settled, where that is not 0 (R458). -/
  refAcc : List Nat := [0, 0, 0, 0, 0, 0, 0, 0]
  refAt : W64 := 0
  owed : List (Nat × Nat) := []
  /-- The divisor of the refresh interval of each stack (R457). -/
  refDiv : List Nat := [1, 1, 1, 1, 1, 1, 1, 1]
  /-- The protected words whose checks fail (R428). -/
  bad : List BadWord := []
  /-- Corrected errors and link retries that may belong to a burst: unit and GTB (R429). -/
  corrected : List (UnitRef × W64) := []
  /-- GTB of the next thermal evaluation (R453); the halts that readings have called for since the last one (R454); package power in W over
  each of the last 10 ms, newest first (R456). -/
  evalAt : W64 := 0
  critSeen : List Nat := []
  power : List Nat := []
  lostPkgs : List (BitVec 10) := []
  /-- The packages to which the fabric path has been lost (R341). -/
  lostPaths : List (BitVec 10) := []
  /-- How often the resident kernels have rewritten the domain's routing table (R408, log 2). -/
  routes : Nat := 0
  /-- The management hart that moves, its number, and the eight of the two hinge dies; the entry of the one that moves is stale (R7). -/
  hart : Hart := {}
  hartNo : Fin 8 := 0
  harts : List Hart := List.replicate 8 {}
  invalPos : Nat := 0
  /-- The invalidate queue: what its slots held at the doorbell, by count, and the command at its head as it was read (R422, R423). -/
  iqSlots : List (Nat × List Byte) := []
  iqCmd : Option (List Byte) := none
  report : List Byte := []
  /-- The reports of replays that diverged, oldest first (R448). -/
  diverged : List DivReport := []
  hostIn : List Byte := []
  msix : List Nat := []
  syscoord : BitVec 28 := 0
  /-- Events that the outside brings about, oldest first: they come before the machine's own (log 14). -/
  agenda : List Instr := []
  turn : Turn := .any
  /-- Register writes that the register events of the agenda take, oldest first. -/
  inbox : List RegWrite := []
  /-- The model's own counters: free choices taken, free values of time used (log 4, log 5). -/
  choices : Nat := 0
  times : Nat := 0
  deriving DecidableEq, Repr

/-- The offsets of the register region 0x01 whose reset value is not 0: THCFG of the six dies (R451), PWRCFG (R455). -/
def resetRegs : Store 64 :=
  [(0x500080, 0x0398_0360_0320#64), (0x500180, 0x0398_0360_0320#64), (0x500280, 0x0398_0360_0320#64),
   (0x500380, 0x0398_0360_0320#64), (0x500480, 0x0398_0360_0320#64), (0x500580, 0x0398_0360_0320#64),
   (0x500800, 0x0030_0960#64)]

/-- The machine right after power-on reset: nothing booted, no launch, every register at the spec's reset value or at the
value that log 2 and log 3 name. -/
def State.reset : State := { mreg := resetRegs }

end Sys2Proof.Machine
end

