-- ==== Sys2Proof/Machine/Ops.lean ====
section
/-! DEFINITION. The named operations over contexts, registers, the landing buffer, semaphores, tiles and memory, and the two
operations that every exception goes through: `fatal` (R324 to R326) and `trapRestore` (R320), with `checkpoint` (R315). -/

namespace Sys2Proof.Machine

open Sys2Proof

/-- What a step or a meaning answers. -/
abbrev Out := Host.Outcome State Fault Refusal

/-! ### Contexts -/

/-- Context `c`. -/
def State.ctx (s : State) (c : Fin 4) : Context :=
  match c with
  | 0 => s.c0
  | 1 => s.c1
  | 2 => s.c2
  | 3 => s.c3

/-- The state with context `c` replaced. -/
def State.setCtx (s : State) (c : Fin 4) (x : Context) : State :=
  match c with
  | 0 => { s with c0 := x }
  | 1 => { s with c1 := x }
  | 2 => { s with c2 := x }
  | 3 => { s with c3 := x }

/-- The state with context `c` changed. -/
def State.mod (s : State) (c : Fin 4) (f : Context → Context) : State := s.setCtx c (f (s.ctx c))

/-- The context that issues now. -/
def State.me (s : State) : Context := s.ctx s.cur

/-- Changes the context that issues now. -/
def State.modMe (s : State) (f : Context → Context) : State := s.mod s.cur f

/-- The four context indexes in order. -/
def ctxIds : List (Fin 4) := [0, 1, 2, 3]

/-- Changes the restorable state of a context. -/
def Context.modArch (x : Context) (f : Arch → Arch) : Context := { x with arch := f x.arch }

/-! ### Registers (R12, R13) -/

def Arch.rs (a : Arch) (r : Nat) : W64 := a.s.get r
def Arch.rm (a : Arch) (r : Nat) : W64 := a.m.get r
/-- Guard `i`; g0 reads true (R13). -/
def Arch.rg (a : Arch) (i : Nat) : Bool := i == 0 || a.g.getLsbD i
/-- The guards as a bit vector, bit 0 always 1 (R113). -/
def Arch.gvec (a : Arch) : BitVec 16 := a.g ||| 1
/-- Mask register `i`; k0 reads all ones (R13). -/
def Arch.rk (a : Arch) (i : Nat) : BitVec 128 := if i = 0 then BitVec.allOnes 128 else a.k.get i
/-- The lane index of a v register in the vector bank; r = 32, 33, 34 are ba, bb, bc. -/
def vIdx (grp r l : Nat) : Nat := (grp * 35 + r) * 16 + l
def Arch.rv (a : Arch) (grp r l : Nat) : W32 := a.v.get (vIdx grp r l)
/-- The 16 lanes of a v register of one group. -/
def Arch.rvs (a : Arch) (grp r : Nat) : List W32 := (List.range 16).map (fun l => a.rv grp r l)
/-- The 16 mask bits of group `grp` of k register `i` (R142). -/
def Arch.kgrp (a : Arch) (i grp : Nat) : BitVec 16 := BitVec.ofNat 16 (fld (a.rk i) (16 * grp) 16)

/-- Lanes of a register overwritten where the mask is 1. -/
def Arch.putLanes (a : Arch) (grp r : Nat) (mask : BitVec 16) (xs : List W32) : Arch :=
  { a with v := (List.range 16).foldl (fun m l => if mask.getLsbD l then m.put (vIdx grp r l) (nth xs l) else m) a.v }

/-- The es words of stream `n` of es register `i` (R44). -/
def Arch.esWords (a : Arch) (i n : Nat) : EsWords :=
  ⟨a.esw.get (384 * i + 3 * n), a.esw.get (384 * i + 3 * n + 1), a.esw.get (384 * i + 3 * n + 2)⟩

def Arch.putEsWords (a : Arch) (i n : Nat) (w : EsWords) : Arch :=
  { a with esw := ((a.esw.put (384 * i + 3 * n) w.e1).put (384 * i + 3 * n + 1) w.e2).put (384 * i + 3 * n + 2) w.e3 }

/-- Every error word of es register `i` at zero. -/
def Arch.zeroEs (a : Arch) (i : Nat) : Arch :=
  { a with esw := a.esw.filter (fun p => decide (p.1 < 384 * i) || decide (384 * i + 384 ≤ p.1)) }

def Arch.es (a : Arch) (i : Nat) : BitVec 128 := a.esd.get i
def Arch.setEs (a : Arch) (i : Nat) (d : BitVec 128) : Arch := { a with esd := a.esd.put i d }

/-- FSR with flags set; the device only ever sets them (R21). -/
def Arch.raise (a : Arch) (f : BitVec 6) : Arch := { a with fsr := a.fsr ||| f.setWidth 64 }

/-- The system registers that SYSW writes (R256); RO selectors keep their value. -/
def Arch.sysPut (a : Arch) (sel : Nat) (v : W64) : Arch :=
  match sel with
  | 0x03 => { a with lscale := v }
  | 0x04 => { a with lscfg := v }
  | 0x05 => { a with rkey := v }
  | 0x06 => { a with rctr := v }
  | 0x0D => { a with driftcfg := v }
  | 0x0E => { a with tracecfg := v }
  | _ => a

/-! ### The landing buffer (R88, R106, R319) -/

/-- What landing does to the registers; writes to g0 and k0 are discarded (R13). -/
def Arch.apply (a : Arch) : Land → Arch
  | .nothing => a
  | .s r v => { a with s := a.s.put r v }
  | .m r v => { a with m := a.m.put r v }
  | .g mask val => { a with g := (a.g &&& ~~~(mask &&& 0xFFFE)) ||| (val &&& (mask &&& 0xFFFE)) }
  | .k r mask val => if r = 0 then a else { a with k := a.k.put r ((a.k.get r &&& ~~~mask) ||| (val &&& mask)) }
  | .v grp r mask xs => a.putLanes grp r mask xs
  | .fcr v => { a with fcr := v }
  | .fsrClear m => { a with fsr := a.fsr &&& ~~~(m.setWidth 64) }
  | .sys sel v => a.sysPut sel v
  | .esCfg i d => (a.zeroEs i).setEs i d
  | .esClear i all => (if all then a.zeroEs i else a).setEs i (setFld (a.es i) 57 1 0)
  | .esWord i n v => { a with esw := a.esw.put (384 * i + n) v }
  | .bx i v => { a with bx := a.bx.put i v }

def Land.isClear : Land → Bool
  | .fsrClear _ => true
  | _ => false

/-- `land(reg, value, n + k − 1)`: adds an entry for the tick `k` − 1 after the present one (R106). -/
def Context.land (x : Context) (k pos : Nat) (act : Land) (fl : BitVec 6 := 0) : Context :=
  { x with arch := { x.arch with landing := x.arch.landing ++ [{ due := x.tick + (k - 1), pos, act, flags := fl }] } }

/-- An entry whose value a load will supply. -/
def Context.landLoad (x : Context) (k pos tok : Nat) : Context :=
  { x with arch := { x.arch with landing := x.arch.landing ++ [{ due := x.tick + (k - 1), pos, tok, ready := false, act := .nothing }] } }

/-- The entries due at the end of tick `t` or before, in slot order; of one slot position in the order of their issue (R88; DESIGN
CHOICE, log 55). -/
def dueAt (t : Nat) (l : List LandEntry) : List LandEntry := sortBy LandEntry.pos (l.filter (fun e => decide (e.due ≤ t)))

/-- Lands every entry due by tick `t`: clears of FSR first, then results and flags in slot order (R23, R88, R145). -/
def Arch.landDue (a : Arch) (t : Nat) : Arch :=
  let d := dueAt t a.landing
  let a := { a with landing := a.landing.filter (fun e => decide (t < e.due)) }
  let a := (d.filter (fun e => e.act.isClear)).foldl (fun a e => a.apply e.act) a
  (d.filter (fun e => !e.act.isClear)).foldl (fun a e => (a.apply e.act).raise e.flags) a

/-- What lands of tick `t` while one of its results still waits for its load: the clears and the flags, so that what a command or call
raises during the stall stays; the results land together, in slot order (R88, R107, R145). -/
def Arch.landFlags (a : Arch) (t : Nat) : Arch :=
  let d := dueAt t a.landing
  let a := (d.filter (fun e => e.act.isClear)).foldl (fun a e => a.apply e.act) a
  let a := (d.filter (fun e => e.ready)).foldl (fun a e => a.raise e.flags) a
  { a with landing := (a.landing.filter (fun e => !(decide (e.due ≤ t) && e.act.isClear))).map (fun e =>
      if decide (e.due ≤ t) && e.ready then { e with flags := 0 } else e) }

/-- Whether some entry due by tick `t` still waits for its load (R107). -/
def Arch.pendingDue (a : Arch) (t : Nat) : Bool := a.landing.any (fun e => decide (e.due ≤ t) && !e.ready)

/-! ### Tables with small integer keys -/

def aget {α : Type} (d : α) (m : List (Nat × α)) (k : Nat) : α :=
  match m.find? (fun p => p.1 == k) with
  | some p => p.2
  | none => d

def aput {α : Type} (m : List (Nat × α)) (k : Nat) (v : α) : List (Nat × α) :=
  if m.any (fun p => p.1 == k) then m.map (fun p => if p.1 == k then (k, v) else p) else insertBy Prod.fst (k, v) m

/-! ### Tiles (R269 to R272, R472): handle t of core x at 256 × x + t -/

/-- The x coordinate of the modelled core (R11). -/
def State.myX (s : State) : Nat := fld s.syscoord 0 5

/-- The key of tile handle n of this core. -/
def State.tileKey (s : State) (n : Nat) : Nat := 256 * s.myX + n

def State.tile (s : State) (k : Nat) : Tile := aget {} s.tiles k
def State.setTile (s : State) (k : Nat) (t : Tile) : State := { s with tiles := aput s.tiles k t }

/-- The key of a scratchpad byte: core x and offset (R166). -/
def spKey (x off : Nat) : Nat := x * 2 ^ 21 + off

/-- Whether a tile's range holds offset `o` (R472). -/
def Tile.covers (t : Tile) (o : Nat) : Bool := decide (t.size ≠ 0) && decide (t.base ≤ o) && decide (o < t.base + t.size)

/-- A claim of the tile waits: it is READY or DRAINING (R273), or reserved for a collective (R338). -/
def Tile.bars (t : Tile) : Bool := t.state == 2 || t.state == 3 || t.reserved

/-- A COPY can claim the tile as its source: it is READY, and not a collective's chunk tile (R238, R338). -/
def Tile.drains (t : Tile) : Bool := t.state == 2 && !t.reserved

/-- The key of the tile that covers a scratchpad byte: the lowest handle of its core whose range holds it (R472). -/
def State.covering (s : State) (key : Nat) : Option Nat :=
  let x := key / 2 ^ 21
  let o := key % 2 ^ 21
  (s.tiles.find? (fun p => p.1 / 256 == x && p.2.covers o)).map Prod.fst

/-- Removes the scale-cache entries of a tensor identifier (R33). -/
def State.dropScales (s : State) (tid : BitVec 16) : State :=
  { s with scaleCache := s.scaleCache.filter (fun e => e.1 != tid.toNat) }

/-! ### Semaphores (R225) -/

def State.semLatched (s : State) (n : BitVec 8) : Bool := (s.semLatch.get n.toNat).getLsbD 0

/-- `sem_signal`: none when the value would pass 65,535. -/
def State.semSignal (s : State) (n : BitVec 8) (inc : Nat) : Option State :=
  let v := (s.semVal.get n.toNat).toNat + inc
  if 65535 < v then none else some { s with semVal := s.semVal.put n.toNat (BitVec.ofNat 16 v) }

/-- `sem_fail`: the value saturates, the latch keeps the first code. -/
def State.semFail (s : State) (n : BitVec 8) (inc : Nat) (code : Byte) : State :=
  let v := min ((s.semVal.get n.toNat).toNat + inc) 65535
  { s with
    semVal := s.semVal.put n.toNat (BitVec.ofNat 16 v)
    semCode := if s.semLatched n then s.semCode else s.semCode.put n.toNat code
    semLatch := s.semLatch.put n.toNat 1 }

/-- Whether `sem_wait` is satisfied, the latch apart. -/
def State.semReady (s : State) (n : BitVec 8) (t : Nat) : Bool := decide (t ≤ (s.semVal.get n.toNat).toNat)

/-- The subtraction of a satisfied `sem_wait`. -/
def State.semTake (s : State) (n : BitVec 8) (t : Nat) : State :=
  { s with semVal := s.semVal.put n.toNat (BitVec.ofNat 16 ((s.semVal.get n.toNat).toNat - t)) }

/-! ### Shares (R14, R15, R348) -/

def inRange (r : Nat × Nat) (n : Nat) : Bool := decide (r.1 ≤ n) && decide (n ≤ r.2)

def Share.hasSem (h : Share) (n : BitVec 8) : Bool := inRange h.sem n.toNat || inRange h.shsem n.toNat
def Share.hasTile (h : Share) (n : Nat) : Bool := inRange h.tile n
def Share.hasAcc (h : Share) (t : Nat) : Bool := h.acc.getLsbD t
/-- hasp0 is every context's (R14). -/
def Share.hasHasp (h : Share) (n : Nat) : Bool := n == 0 || inRange h.hasp n
/-- QBIND kind of latch q4–q7 (R349). -/
def Share.kind (h : Share) (q : Nat) : Nat := h.qbind.getD (q - 4) 0
/-- Whether the context may read or pop latch q: q0–q3 are banked per context, q4–q7 must be its own and bound (R14, R349). -/
def Share.mayRead (h : Share) (q : Nat) : Bool := decide (q < 4) || (h.q.getLsbD (q - 4) && h.kind q != 0)
/-- Whether a push to q4–q7 feeds a consumer (R349). A push to a neighbour's latch leaves the core. -/
def Share.mayPush (h : Share) (q : Nat) : Bool := h.q.getLsbD (q - 4) && h.qpush.getLsbD (q - 4)

/-! ### Launches and faults -/

/-- The launch of a context. -/
def State.launchOf (s : State) (lid : BitVec 32) : Option Launch := s.launches.find? (fun l => l.lid == lid)

def State.modLaunch (s : State) (lid : BitVec 32) (f : Launch → Launch) : State :=
  { s with launches := mapIf (fun l => l.lid == lid) f s.launches }

/-- The failing coordinate: COORD [27:0] (R359). -/
def Context.coord28 (x : Context) : BitVec 28 := x.coord.setWidth 28

/-- The failing command identifier of an engine command (R234). -/
def cmdIdent (op : Nat) (id : BitVec 16) : W32 := BitVec.ofNat 32 (0x45 * 2 ^ 24 + (op % 64) * 2 ^ 18 + id.toNat)

/-- The failing command identifier of a matrix call; of a word index past 8,191 the field keeps the low bits (R191; DESIGN CHOICE,
log 54). -/
def callIdent (routine : BitVec 8) (word : Nat) : W32 := BitVec.ofNat 32 (0x4D * 2 ^ 24 + routine.toNat * 2 ^ 16 + word % 2 ^ 13)

/-- The chunk tiles of a COLL that has begun and is stopped are released, EMPTY, as at its completion: what still comes to them waits for it
no longer (R263, R338). -/
def State.chunksRelease (s : State) (k : Cmd) : State :=
  if k.eng ≠ .coll ∨ k.coll.members.isEmpty then s
  else (List.range (clNch k.desc)).foldl (fun s i =>
    let n := s.tileKey (clChtile k.desc + i)
    s.setTile n { s.tile n with state := 0, reserved := false }) s

/-- The source tile of a COPY that has started and ends, in whatever way, goes to EMPTY or back to READY (R238, R272). -/
def State.copyReleases (s : State) (k : Cmd) : State :=
  if k.op ≠ 1 ∨ !k.started ∨ cpCount k.desc = 0 ∨ !cpFlag k.desc 2 then s
  else
    let n := s.tileKey (cpStile k.desc)
    let t := s.tile n
    if t.state ≠ 3 ∨ t.freeing then s else s.setTile n { t with state := if cpFlag k.desc 4 then 0 else 2 }

/-- What becomes of one command of a launch that ends by a fault, and the counts it adds: one that has started stops, and its
semaphore takes `sem_fail`; it is complete where its last item had finished (R325). -/
def endCmd (code : Byte) (s : State) (lid : BitVec 32) (k : Cmd) : State :=
  let blk := decide (k.eng = .mcast)
  if !k.committed then s
  else
    let s := if k.started ∧ k.ef.inc ≠ 0 then s.semFail k.ef.sig k.ef.inc.toNat code else s
    let s := (s.copyReleases k).chunksRelease k
    if k.finished then
      s.modLaunch lid (fun l => if blk then { l with cmdOk := l.cmdOk + 1, blkOk := l.blkOk + 1 } else { l with cmdOk := l.cmdOk + 1 })
    else
      s.modLaunch lid (fun l => { l with
        cmdFail := l.cmdFail + 1, blkFail := if blk then l.blkFail + 1 else l.blkFail
        chunkFail := if k.started then l.chunkFail + k.coll.left else l.chunkFail })

/-- What becomes of one call: provisional ones leave no trace, committed ones count as failed (R325). -/
def endCall (s : State) (lid : BitVec 32) (k : Call) : State :=
  if k.committed then s.modLaunch lid (fun l => { l with callFail := l.callFail + 1 }) else s

/-- The es registers that the matrix sequencer owns, taken from `d` and `w`; the others stay (R61). -/
def Arch.takeEs (a : Arch) (d : Store 128) (w : Store 32) : Arch :=
  [0, 1, 2, 3].foldl
    (fun a i =>
      if esOwn (a.es i) = 2 then
        let a := (a.zeroEs i).setEs i (d.get i)
        { a with esw := a.esw.putAll (w.filter (fun p => decide (384 * i ≤ p.1) && decide (p.1 < 384 * i + 384))) }
      else a)
    a

/-- A tile without the words that a DRN has counted towards it, where it still holds them; `was` is the entry before. -/
def Tile.uncount (t was : Tile) (n : Nat) : Tile :=
  if (t.state = 1 ∨ t.state = 2) ∧ n ≤ t.arrived then
    if was.state = 0 ∧ t.arrived = n then { t with state := 0, arrived := was.arrived }
    else { t with state := 1, arrived := t.arrived - n }
  else t

/-- A DRN that does not finish leaves no effect: what it has overwritten returns, and the tiles lose its counts (R191, R325). -/
def undoDrn (s : State) (c : Fin 4) (e : EpiRun) : State :=
  let s := { s with
    sp := s.sp.putAll e.undoSp
    mem := s.mem.putAll e.undoMem
    acc := s.acc.putAll e.undoAcc }
  (e.undoTiles.foldl (fun (s : State) u => s.setTile u.1 ((s.tile u.1).uncount u.2.1 u.2.2)) s).mod c
    (fun x => x.modArch (fun a => a.takeEs e.esd e.esw))

/-- The running call of a context whose launch ends: `sem_fail` on its SSEM; it is complete where its MEND has executed, otherwise
failed (R191, R325). -/
def endRun (code : Byte) (s : State) (x : Context) (r : CallRun) : State :=
  let m7 := nth r.call.m 7
  let n := BitVec.ofNat 8 (fld m7 12 8)
  let s := match r.epi with
    | some e => undoDrn s r.ctx e
    | none => s
  let s := if fld m7 20 4 ≠ 0 ∧ x.share.hasSem n then s.semFail n (fld m7 20 4) code else s
  let s := s.modLaunch x.lid (fun l => if r.ended then { l with callOk := l.callOk + 1 } else { l with callFail := l.callFail + 1 })
  { s with run := none }

/-- The blocks of a context that the sequencer has stamped go on being applied (R325). -/
def stampedCmd (s : State) (c : Fin 4) (k : Cmd) : Bool :=
  k.eng == .mcast && s.groups.any (fun g => g.2.subs.any (fun b => !b.ext && b.ctx == c && b.cmd == k.id && b.seq.isSome))

/-- Every record of a context with the spans of its accesses and commands: [id, id'), [order, order'), and whether it has
ended (R402). -/
def recSpans (open_ : Bool) : List (Nat × Nat) → List ((Nat × Nat) × (Nat × Nat) × Bool)
  | [] => []
  | [r] => [(r, (2 ^ 200, 2 ^ 200), !open_)]
  | r :: r' :: t => (r, r', true) :: recSpans open_ (r' :: t)

/-- Whether a record is complete: ended, its SKUPDs served, its sketch commands complete (R402). -/
def State.recComplete (s : State) (c : Fin 4) (r : (Nat × Nat) × (Nat × Nat) × Bool) : Bool :=
  let x := s.ctx c
  let mine := fun (a : Acc) => a.kind == .skupd && decide (r.1.1 ≤ a.id) && decide (a.id < r.2.1.1)
  r.2.2 && !x.hold.any mine && !x.queue.any mine && !s.homeQ.any (fun h => h.ctx == c && mine h.acc) &&
    !x.cmds.any (fun k => k.eng == .sketch && !k.finished && decide (r.1.2 ≤ k.order) && decide (k.order < r.2.1.2))

/-- The records of context c count towards its launch, complete or not (R402, R403). -/
def State.countRecs (s : State) (c : Fin 4) : State :=
  let x := s.ctx c
  let rs := recSpans x.arch.recOpen x.arch.recs
  let ok := (rs.filter (s.recComplete c)).length
  (s.modLaunch x.lid (fun l => { l with recOk := l.recOk + ok, recFail := l.recFail + (rs.length - ok) })).mod c
    (fun x => x.modArch (fun a => { a with recs := [], recOpen := false }))

/-- Whether a SKUPD of a context is absent after a fatal end: it belongs to a record that is not complete, as every record with one
not yet served is. SKUPDs of no record go on, and so does the SAT of a step that has been served (R305, R403). -/
def Arch.absent (r : Arch) (a : Acc) : Bool :=
  a.kind == .skupd && a.op != 3 && (match r.recs with
    | p :: _ => decide (p.1 ≤ a.id)
    | [] => false)

/-- The released SKUPDs of context c, of the records `a` holds, that its fatal end leaves unserved are gone (R403). -/
def State.dropSkupds (s : State) (c : Fin 4) (a : Arch) : State :=
  { s with homeQ := s.homeQ.filter (fun h => !(h.ctx == c && a.absent h.acc)) }.mod c
    (fun x => { x with queue := x.queue.filter (fun q => !a.absent q) })

/-- The records of a context whose launch ends count, complete or not; then their SKUPDs not yet served are absent (R402, R403). -/
def endedCtx (s : State) (c : Fin 4) : State := (s.countRecs c).dropSkupds c (s.ctx c).arch

/-- One context of a launch that ends by a fatal fault: it issues nothing; where the core is held, its pc is that of the next bundle to issue
(R445); its held entries and loads not performed are
discarded, released entries go on but for SKUPDs of incomplete records (R403), its landing buffer, latches and queue entries are
discarded, its commands and calls end item by item (R305, R324, R325). -/
def endCtx (code : Byte) (hold : Bool) (s : State) (c : Fin 4) : State :=
  let s := endedCtx s c
  let x := s.ctx c
  let s := (x.cmds.filter (fun k => !stampedCmd s c k)).foldl (fun s k => endCmd code s x.lid k) s
  let s := match s.run with
    | some r => if r.ctx = c then endRun code s x r else s
    | none => s
  let s := x.calls.foldl (fun s k => endCall s x.lid k) s
  s.mod c (fun x => { x with
    mode := .ended
    wait := .run
    hold := []
    queue := x.queue.filter (fun a => decide (a.kind ≠ .load) && decide (a.kind ≠ .skqry))
    qs := List.replicate 8 {}
    out := []
    calls := []
    cmds := x.cmds.filter (fun k => stampedCmd s c k)
    wbuf := []
    arch := { x.arch with
      pc := if hold ∧ (x.wait = .landing ∨ x.wait = .returning) then x.succ else x.arch.pc
      landing := if hold then x.arch.landing.filter (fun e => e.ready && decide (e.due < x.tick)) else []
      latches := if hold then x.arch.latches else List.replicate 15 {} } })

/-- Whether any context of the launch has TRACECFG.BKE = 1, so its end holds the core (R444). -/
def State.bke (s : State) (lid : BitVec 32) : Bool :=
  ctxIds.any (fun c => (s.ctx c).lid == lid && decide ((s.ctx c).mode ≠ .free) && bit (s.ctx c).arch.tracecfg 63) ||
    s.away.any (fun p => p.2.lid == lid && bit p.2.arch.tracecfg 63)

/-- The core is held for the debugger (R444). -/
def State.coreHeld (s : State) : Bool := s.launches.any Launch.held

/-- Whether some context of the launch replays with stop on divergence (RMODE 2, R448). -/
def State.replays (s : State) (lid : BitVec 32) : Bool :=
  ctxIds.any (fun c => (s.ctx c).lid == lid && decide ((s.ctx c).mode ≠ .free) && fld (s.ctx c).arch.tracecfg 59 2 == 2) ||
    s.away.any (fun p => p.2.lid == lid && fld p.2.arch.tracecfg 59 2 == 2)

/-- Runs `f` on a context that is away with the context in its slot's place, and takes the context out again; what the core runs
and serves for the slot's present context stays as it is. -/
def State.withAway (s : State) (p : Fin 4 × Context) (f : State → State) : State × Context :=
  let t := f { s.setCtx p.1 p.2 with run := none }
  ({ t.setCtx p.1 (s.ctx p.1) with run := s.run, homeQ := s.homeQ }, t.ctx p.1)

/-- The pre-empted contexts of a launch that ends: their commands end item by item, and they are gone (R324, R325). -/
def State.endAway (s : State) (lid : BitVec 32) (code : Byte) (hold : Bool) : State :=
  (s.away.filter (fun p => p.2.lid == lid)).foldl (fun s p => (s.withAway p (fun s => endCtx code hold s p.1)).1)
    { s with away := s.away.filter (fun p => p.2.lid != lid) }

/-- The order of faults at one GTB count: die, cluster, core, context (R326). -/
def FaultRec.place (r : FaultRec) : Nat := ((fld r.coord 8 2 * 8 + fld r.coord 5 3) * 32 + fld r.coord 0 5) * 4 + fld r.coord 16 2

/-- A fault of a context, not of the launch's limit nor a kill, which name none (R360, R361). -/
def FaultRec.ofCtx (r : FaultRec) : Bool := r.code != 0x0F && r.code != 0x12

/-- Whether a later fault takes the place of the recorded one: at the same GTB count, of a lower context (R326). -/
def FaultRec.before (r old : FaultRec) : Bool := r.ofCtx && old.ofCtx && r.gtb == old.gtb && decide (r.place < old.place)

/-- A fatal fault ends the launch: the first one is recorded, every context of the launch ends (R324 to R326). A later
fault of the same launch changes at most which one is named. -/
def State.endLaunch (s : State) (lid : BitVec 32) (r : FaultRec) : State :=
  match s.launchOf lid with
  | none => s
  | some l =>
    if (l.fault.map r.before).getD false then s.modLaunch lid (fun l => { l with fault := some r })
    else if l.fault.isSome then s
    else
      let hold := s.bke lid || (r.code == 0x13 && s.replays lid)
      let s := s.modLaunch lid (fun l => { l with fault := some r, held := hold })
      (ctxIds.foldl (fun s c =>
        if (s.ctx c).lid ≠ lid ∨ (s.ctx c).mode = .free then s
        else if (s.ctx c).mode = .ended then endedCtx s c
        else endCtx r.code hold s c) s).endAway lid r.code hold

/-- A fatal fault of context `c` with its status code, the bundle it names and the failing command identifier: the one
operation by which every fault of the spec is taken. A context that no launch owns just ends. -/
def State.fatal (s : State) (c : Fin 4) (code : Byte) (bundle : Nat) (cmd : W32) : State :=
  let x := s.ctx c
  match s.launchOf x.lid with
  | none => s.mod c (fun x => { x with mode := .ended, wait := .run, hold := [] })
  | some _ => s.endLaunch x.lid { code, coord := x.coord28, bundle, cmd, gtb := s.gtb }

/-- An issue fault of the bundle that the current context issues (R76). -/
def State.issueFault (s : State) (code : Byte) : State := s.fatal s.cur code s.me.arch.pc 0

/-! ### Status codes -/

def cFETCH_UNMAPPED : Byte := 0x01
def cILLEGAL_BUNDLE : Byte := 0x02
def cILLEGAL_OPCODE : Byte := 0x03
def cACCESS_UNMAPPED : Byte := 0x04
def cACCESS_PROT : Byte := 0x05
def cPROBE_UNRESOLVED : Byte := 0x06
def cSPARSE_META : Byte := 0x07
def cTILE_STALL_TIMEOUT : Byte := 0x08
def cCOLL_MISMATCH : Byte := 0x09
def cCOLL_PEER_LOST : Byte := 0x0A
def cMCST_VIEW_CHANGE : Byte := 0x0B
def cSKETCH_MISMATCH : Byte := 0x0C
def cUNCORRECTABLE_MEM : Byte := 0x0D
def cCHECKSUM_PERSISTENT : Byte := 0x0E
def cTIME_LIMIT : Byte := 0x0F
def cSHAPER_BUSY : Byte := 0x10
def cILLEGAL_NODE : Byte := 0x11
def cKILLED : Byte := 0x12
def cREPLAY_DIVERGED : Byte := 0x13
def cILLEGAL_OPERAND : Byte := 0x14

/-! ### Checkpoints and recoverable traps -/

/-- The bytes a released store adds to the signature: address, size, data, for each lane of a SCAT (R447). -/
def Acc.sigBytes (a : Acc) : List Byte :=
  let at_ := a.sig.getD [a.va.toNat]
  let n := a.cells.length / at_.length
  at_.zipIdx.flatMap (fun p => leBytes 8 p.1 ++ [BitVec.ofNat 8 n] ++ ((a.cells.drop (n * p.2)).take n).map Prod.snd)

/-- The signature over the stores a checkpoint releases, in release order (R447). -/
def sigOf (sig : BitVec 64) (rel : List Acc) : BitVec 64 :=
  rel.foldl (fun c a => if a.kind = .store then crc64 c a.sigBytes else c) sig

/-- The kinds of entry of a recording, in the order R446 lists them. -/
def kGTBR : Nat := 1
def kTICKET : Nat := 2
def kNOTICE : Nat := 3
def kSR : Nat := 4
def kRCTR : Nat := 5
def kSIG : Nat := 6

/-- The inputs of atomics, which no replay after a trap performs again: their entries stay (R121, R435). -/
def stays (kind : Nat) : Bool := kind == kTICKET || kind == kSR

/-- A checkpoint of context `x`, as one step: the shadow set, the release of the holding buffer, the commit of provisional
commands and calls, the clearing of the retention stores and push logs (R315). -/
def Context.checkpoint (x : Context) : Context :=
  { x with
    shadow := { x.arch with landing := x.arch.landing.map (fun e => { e with due := e.due - x.tick }) }
    queue := x.queue ++ x.hold
    hold := []
    sig := sigOf x.sig x.hold
    calls := x.calls.map (fun k => { k with committed := true })
    cmds := x.cmds.map (fun k => if k.committed then k else { k with committed := true, commitId := x.nextId })
    qs := x.qs.map (fun q => { q with retained := [], log := [], pushes := 0 })
    atoms := []
    replay := []
    accUndo := []
    rplNew := []
    rplRedo := []
    rplAtCk := x.rplAt
    tileDone := 0
    tileSkip := 0
    ckptDone := true
    ckptDue := false
    ckptId := x.nextId
    ckptTick := x.tick }

/-- Whether an entry reads or writes byte `b` of a space. -/
def Acc.touches (a : Acc) (sp : Bool) (b : Nat) : Bool :=
  a.sp == sp && (a.cells.any (fun p => p.1 == b) || a.addrs.contains b ||
    (a.kind != .skupd && a.kind != .skqry && a.lanes.any (fun l => decide (l.1 ≤ b) && decide (b < l.1 + a.width))))

/-- A COLL that commits now: what its source buffer holds is what a later read may give of a byte that is stored to meanwhile, but for
bytes that a store or atomic of its own context still changes (R342, log 59). -/
def Cmd.commitSrc (s : State) (c : Fin 4) (k : Cmd) : Cmd :=
  if k.committed ∨ k.eng ≠ .coll then k
  else
    let x := s.ctx c
    let mine := fun (b : Nat) => (x.hold ++ x.queue).any (fun a => a.kind != .load && a.touches true b) ||
      s.bankQ.any (fun r => r.ctx == c && r.peer.isNone && r.acc.touches true b)
    let here := fun (p : Nat × Byte) => spKey s.myX p.1
    { k with coll := { k.coll with src := (k.coll.src.filter (fun p => !mine (here p))).map (fun p => (p.1, s.sp.get (here p))) } }

/-- A checkpoint of context c (R315). -/
def State.checkpoint (s : State) (c : Fin 4) : State :=
  s.mod c (fun x => Context.checkpoint { x with cmds := x.cmds.map (Cmd.commitSrc s c) })

/-- The es registers after a restore: those the matrix sequencer owned at the checkpoint keep what calls wrote (R61). -/
def restoreEs (now shadow : Arch) : Arch := shadow.takeEs now.esd now.esw

/-- A queue latch after a restore: retained entries return to the head; entries of SKQRYs, and loopback pushes, made since
the checkpoint are gone (R320; for loopback pushes R435, log 10); the pushes are counted again against the log (R322). -/
def Que.restore (loop : Bool) (id tick : Nat) (q : Que) : Que :=
  -- A pushed entry whose load has not come is gone, and so are those behind it.
  let keep (e : QSlot) : Bool := !(decide (e.tok ≠ 0) && decide (id ≤ e.tok)) && !(loop && decide (tick ≤ e.born) && decide (e.tok = 0))
  { q with ents := (q.retained ++ q.ents).filter keep, retained := [], pushes := 0, log := q.log.takeWhile (fun p => p.tok == 0) }

/-- The entries on their way to neighbours after a restore: those that a PUSHQ since access `id` has still to supply never were pushed, nor
were those behind them (R178, R322). -/
def keepOut (id : Nat) : List Pushed → List Pushed
  | [] => []
  | p :: ps => if p.tok ≠ 0 ∧ id ≤ p.tok then (keepOut id ps).filter (fun r => r.q != p.q) else p :: keepOut id ps

/-- A recoverable trap restores context `x` to its last checkpoint (R320, R321, R314, R467): the one operation by which
every recoverable trap is taken. -/
def Context.restore (x : Context) : Context :=
  let a := restoreEs x.arch x.shadow
  { x with
    arch := { a with lbuf := [], landing := x.shadow.landing.map (fun e => { e with due := e.due + x.tick }) }
    hold := []
    queue := x.queue.filter (fun a => !((a.kind == .load || a.kind == .skqry) && decide (x.ckptId ≤ a.id)))
    calls := x.calls.filter (fun k => k.committed)
    cmds := x.cmds.filter (fun k => k.committed)
    qs := x.qs.zipIdx.map (fun p => p.1.restore (decide (4 ≤ p.2) && x.share.kind p.2 == 1) x.ckptId x.ckptTick)
    out := keepOut x.ckptId x.out
    q0gen := false
    atoms := []
    replay := x.atoms ++ x.replay
    accUndo := []
    rplNew := x.rplNew.filter (fun p => stays p.1)
    rplRedo := x.rplNew.filter (fun p => !stays p.1) ++ x.rplRedo
    rplAt := x.rplAt.zipIdx.map (fun p => if stays p.2 then p.1 else x.rplAtCk.getD p.2 p.1)
    tileDone := 0
    tileSkip := x.tileDone + x.tileSkip
    nextPc := none
    ckptDone := true
    wait := .run }

/-- The trap also gives the accumulators back what the O slot has overwritten since the checkpoint (R435). -/
def State.trapRestore (s : State) (c : Fin 4) : State :=
  ({ s with acc := s.acc.putAll (s.ctx c).accUndo }).mod c Context.restore

/-- The flags of a command or call that completes stay raised over a later trap: no replay raises them again (R23, R323, R435). -/
def Context.raise (x : Context) (f : BitVec 6) : Context := { x with arch := x.arch.raise f, shadow := x.shadow.raise f }

/-- The stop that a debugger has asked for is taken at a checkpoint, with the restore of a trap (R443). -/
def State.stopAt (s : State) (c : Fin 4) : State := (s.trapRestore c).mod c (fun x => { x with mode := .stopped, stopReq := false })

/-- A unit of some kind is under test (R429). -/
def State.underTest (s : State) (k : UnitKind) : Bool := s.tests.any (fun t => t.u.kind == k)

/-- This unit is under test. -/
def State.unitFenced (s : State) (k : UnitKind) (i : Nat) : Bool := s.tests.any (fun t => t.u.kind == k && t.u.index.toNat == i)

/-- The bank of a scratchpad byte, the same in every core (R265). -/
def bankOf (key : Nat) : Nat := key % 2 ^ 21 / 64 % 48

/-- A bank of this core that holds one of the bytes is under test: accesses to it stall (R429). -/
def State.spFenced (s : State) (keys : List Nat) : Bool :=
  s.underTest .spBank && keys.any (fun k => k / 2 ^ 21 == s.myX && s.unitFenced .spBank (bankOf k))

/-- A lane or a register bank is under test: the contexts of the core wait (R429). -/
def State.coreFenced (s : State) : Bool := s.underTest .lane || s.underTest .regBank

/-- The array is under test: the words that need it wait (R429). -/
def State.arrayFenced (s : State) : Bool := s.underTest .arrayRow || s.underTest .arrayCol

/-! ### Words whose checks fail (R428) -/

/-- The protected word that something lies in, with its unit (R426). -/
def badWord (w : WordRef) (u : UnitRef) : BadWord :=
  let n := match w.space with
    | .sp => 4
    | .acc => 1
    | .l1 => 8
    | .l2 => 8
    | .dram => 64
    | .mu => 1
    | .ep => 2
    | .scale => 1
  { space := w.space, base := w.addr / n * n, len := n, u }

/-- Home memory, whichever of its two kinds of words protects a byte. -/
def isHome : Space → Bool
  | .l2 => true
  | .dram => true
  | _ => false

/-- Whether a failing word is one of a space; `.l2` stands for home memory of both kinds. -/
def BadWord.isIn (b : BadWord) (p : Space) : Bool := b.space == p || (isHome p && isHome b.space)

/-- The failing words of a space that remain when the words at the places are written: those not written whole (R428). -/
def State.mended (s : State) (p : Space) (as : List Nat) : List BadWord :=
  s.bad.filter (fun b => !(b.isIn p && (List.range' b.base b.len).all as.contains))

/-- Something of its space lies in a failing word. -/
def BadWord.has (b : BadWord) (a : Nat) : Bool := decide (b.base ≤ a) && decide (a < b.base + b.len)

/-- The first failing word of a space that a read of the places meets. -/
def State.badAt (s : State) (p : Space) (as : List Nat) : Option BadWord :=
  s.bad.find? (fun b => b.isIn p && as.any b.has)

/-- The first failing word of a space that a write of the places changes in part. -/
def State.tornAt (s : State) (p : Space) (as : List Nat) : Option BadWord := State.badAt { s with bad := s.mended p as } p as

/-- The cause of the self-test that a meeting with a failing word starts. -/
def BadWord.cause (b : BadWord) : TestCause := if b.space = .dram then .dramUncorrectable .nobody else .sramUncorrectable .nobody

/-- A failing word has been met: an uncorrectable error, which starts or joins a test of its unit (R428, R429, R431). -/
def State.meets (s : State) (b : BadWord) (lid : BitVec 32) : State :=
  { s with tests := s.tests ++ [{ u := b.u, cause := b.cause, lid, gtb := s.gtb, count := 1 }] }

/-- The read that context c makes for a bundle meets a failing word: its launch ends (R428). -/
def State.metBy (s : State) (b : BadWord) (c : Fin 4) (bundle : Nat) : State :=
  (s.meets b (s.ctx c).lid).fatal c cUNCORRECTABLE_MEM bundle 0

/-! ### Waiting -/

/-- The current repetition blocks on an engine: no slot takes effect and the core may switch (R65, R318). -/
def State.block (s : State) : State := s.modMe (fun x => { x with wait := .blocked })

/-- The current bundle stalls without a switch, with the cause of R441. -/
def State.stall (s : State) (cause : Nat) : State := s.modMe (fun x => { x with wait := .stall cause })

/-- The shape of every slot operation's meaning (R89): with a false guard the slot takes no effect. -/
def slotOp (g : BitVec 4) (s : State) (eff : State → State) : Out :=
  if s.me.arch.rg g.toNat then .next (eff s) else .next s

/-- Writes a result of the current context, readable from tick n + k (R106). -/
def State.land (s : State) (k pos : Nat) (act : Land) (fl : BitVec 6 := 0) : State := s.modMe (fun x => x.land k pos act fl)

/-! ### Memory bytes -/

/-- Bytes of memory at home from a physical address (R2). -/
def State.memBytes (s : State) (pa len : Nat) : List Byte := s.mem.getList pa len

/-- A DRN that is undone later leaves alone what others have written since (R191, R325). -/
def CallRun.forget (r : CallRun) (sp mem : List Nat) : CallRun :=
  { r with epi := r.epi.map (fun e => { e with
      undoSp := e.undoSp.filter (fun p => !sp.contains p.1)
      undoMem := e.undoMem.filter (fun p => !mem.contains p.1) }) }

/-- Writes of scratchpad bytes, by their keys. -/
def State.spWrite (s : State) (cells : List (Nat × Byte)) : State :=
  { s with sp := s.sp.putAll cells, run := s.run.map (fun r => r.forget (cells.map Prod.fst) []), bad := s.mended .sp (cells.map Prod.fst) }

/-- The aligned 4-byte words that a write of bytes at the addresses covers whole. -/
def wholeWords (pas : List Nat) : List Nat :=
  (pas.filter (fun a => a % 4 == 0 && pas.contains (a + 1) && pas.contains (a + 2) && pas.contains (a + 3))).map (fun a => a / 4)

/-- The clean copies at a station after stores of whole words have reached home (R296). -/
def ageCopies (ws : List Nat) (l : List StByte) : List StByte :=
  l.map (fun b => if !b.dirty && ws.contains (b.pa / 4) then { b with age := b.age + 1 } else b)

/-- The lines that a write changes, as a TLOAD outstanding may still read them (R284). -/
def State.noteLines (s : State) (pas : List Nat) : List (Nat × List Byte × List Nat) :=
  if ctxIds.any (fun c => (s.ctx c).cmds.any (fun k => k.eng == .weight)) then
    let next := ctxIds.map (fun c => (s.ctx c).nextOrder)
    s.wrote ++ ((pas.map (fun a => a / 64)).filter (fun l => !s.wrote.any (fun p => p.1 == l && p.2.2 == next))).eraseDups.map
      (fun l => (l, s.mem.getList (64 * l) 64, next))
  else []

/-- Writes of memory bytes at home, by their physical addresses. -/
def State.memWrite (s : State) (cells : List (Nat × Byte)) : State :=
  let ws := wholeWords (cells.map Prod.fst)
  { s with
    mem := s.mem.putAll cells
    wrote := s.noteLines (cells.map Prod.fst)
    run := s.run.map (fun r => r.forget [] (cells.map Prod.fst))
    bad := s.mended .l2 (cells.map Prod.fst)
    stCore := ageCopies ws s.stCore
    stCluster := ageCopies ws s.stCluster
    stDie := ageCopies ws s.stDie }

/-- Consecutive bytes at a scratchpad key, and at a physical address. -/
def State.spPut (s : State) (key : Nat) (bs : List Byte) : State := s.spWrite ((List.range' key bs.length).zip bs)
def State.memPut (s : State) (pa : Nat) (bs : List Byte) : State := s.memWrite ((List.range' pa bs.length).zip bs)

/-- A little-endian number of memory. -/
def State.memNat (s : State) (pa len : Nat) : Nat := ofLe (s.memBytes pa len)

def State.spBytes (s : State) (key len : Nat) : List Byte := s.sp.getList key len

end Sys2Proof.Machine
end

