-- ==== Sys2Proof/Machine/Translate.lean ====
section
/-! DEFINITION. Address translation (R378 to R386): the heap triple, the TLBs, the walk of the hashed page tables, the
permissions of an access and its target (R406). -/

namespace Sys2Proof.Machine

open Sys2Proof

/-- A management register of region 0x01 (R407), by offset. -/
def State.reg (s : State) (o : Nat) : W64 := s.mreg.get o
def State.setReg (s : State) (o : Nat) (v : W64) : State := { s with mreg := s.mreg.put o v }

def regASTBASE : Nat := 0x1000
def regCOMMBASE : Nat := 0x1008
def regGRPBASE : Nat := 0x1010
def regHOSTOFF : Nat := 0x1018
def regTROOT : Nat := 0x1020
def regDOMTUMB : Nat := 0x1024
def regPFRING : Nat := 0x1030
def regPFTAIL : Nat := 0x1038
def regPFHEAD : Nat := 0x103C
def regPFACK : Nat := 0x1040
def regERRLOG : Nat := 0x1048
def regERRTAIL : Nat := 0x1050
def regERRHEAD : Nat := 0x1054
def regERRDROP : Nat := 0x1058
def regRPLBASE : Nat := 0x1060

/-- The package of the modelled core (R11). -/
def State.myPkg (s : State) : Nat := fld s.syscoord 18 10

/-- The package and the region that a physical address names (R406). -/
def paPkg (pa : Nat) : Nat := pa / 2 ^ 46 % 1024
def paRegion (pa : Nat) : Nat := pa / 2 ^ 39 % 128
def State.remote (s : State) (pa : Nat) : Bool := paPkg pa != s.myPkg

/-- A new HOSTOFF moves the window onto host memory: the bytes that it left keep their bus addresses (R406). -/
def State.moveWindow (s : State) (v : W64) : State :=
  let inWin := fun (a : Nat) => paPkg a == s.myPkg && paRegion a == 2
  let off := (s.reg regHOSTOFF).toNat
  let base := s.myPkg * 2 ^ 46 + 2 * 2 ^ 39
  let host : Store 8 := Store.putAll s.hostMem ((s.mem.filter (fun p => inWin p.1)).map (fun p => (off + p.1 % 2 ^ 39, p.2)))
  let seen := fun (p : Nat × Byte) => decide (v.toNat ≤ p.1) && decide (p.1 < v.toNat + 2 ^ 39)
  { s with
    mem := Store.putAll (s.mem.filter (fun p => !inWin p.1)) ((host.filter seen).map (fun p => (base + (p.1 - v.toNat), p.2)))
    hostMem := host.filter (fun p => !seen p) }

/-- The multipliers A_w (R382). -/
def hashMul (w : Nat) : Nat :=
  match w with
  | 0 => 0x9E3779B97F4A7C15
  | 1 => 0xC2B2AE3D27D4EB4F
  | _ => 0x165667B19E3779F9

/-- The page shift of size s (R382). -/
def pageShift (s : Nat) : Nat :=
  match s with
  | 0 => 16
  | 1 => 22
  | _ => 28

/-- slot_w of a virtual address in a table of LOG (R382). -/
def slotOf (w s log va : Nat) : Nat := hashMul w * (va / 2 ^ pageShift s) % 2 ^ 64 / 2 ^ (64 - log)

/-- The entry a slot holds for an address, where it matches (R383). -/
def pteMatch (asid : BitVec 16) (s va e : Nat) : Option TlbEnt :=
  let sh := pageShift s
  if nfld e 0 1 = 1 ∧ nfld e 1 2 = s + 1 ∧ nfld e 7 9 = 0 ∧ nfld e 56 24 = 0 ∧ nfld e 120 8 = 0 ∧
      nfld e 16 40 * 2 ^ 16 = va / 2 ^ sh * 2 ^ sh ∧ nfld e 80 40 * 2 ^ 16 % 2 ^ sh = 0 then
    some { asid, sz := s, va := BitVec.ofNat 56 (va / 2 ^ sh * 2 ^ sh), pa := BitVec.ofNat 56 (nfld e 80 40 * 2 ^ 16),
           r := nfld e 3 1 = 1, w := nfld e 4 1 = 1, x := nfld e 5 1 = 1, wp := nfld e 6 1 = 1 }
  else none

/-- The slots of one table that an address may lie in, way by way, with what each holds for it; `from_` excludes the old slots that a
resize has migrated (R384). -/
def probeTable (s : State) (asid : BitVec 16) (sz base log from_ va : Nat) : List (Nat × Option TlbEnt) :=
  ([0, 1, 2].filter (fun w => decide (from_ ≤ slotOf w sz log va))).map (fun w =>
    let a := base + w * 16 * 2 ^ log + 16 * slotOf w sz log va
    (a, pteMatch asid sz va (s.memNat a 16)))

/-- The record of an address space (R381). -/
def State.spaceRec (s : State) (asid : BitVec 16) : Nat := (s.reg regASTBASE).toNat + 128 * asid.toNat

/-- The slots that a walk looks at (R384): the smallest page size first, the current table before the old one, then the lowest way. -/
def State.walkSlots (s : State) (asid : BitVec 16) (va : Nat) : List (Nat × Option TlbEnt) :=
  if s.reg regASTBASE = 0 ∨ s.memNat (s.spaceRec asid) 8 ≠ 1 then []
  else
    [0, 1, 2].flatMap (fun sz =>
      let o := s.spaceRec asid + 32 * sz
      let curLog := s.memNat (o + 0x30) 1
      let oldLog := s.memNat (o + 0x31) 1
      (if curLog = 0 then [] else probeTable s asid sz (s.memNat (o + 0x20) 8) curLog 0 va) ++
        (if s.memNat (o + 0x32) 1 % 2 = 1 ∧ oldLog ≠ 0 then probeTable s asid sz (s.memNat (o + 0x28) 8) oldLog (s.memNat (o + 0x34) 4) va
         else []))

/-- A walk (R384): the first slot that matches. -/
def State.walk (s : State) (asid : BitVec 16) (va : Nat) : Option TlbEnt := (s.walkSlots asid va).findSome? Prod.snd

/-- The bytes that a walk reads: the record of the space, and the 64-byte line of every slot probed (R384). -/
def State.walkReads (s : State) (asid : BitVec 16) (va : Nat) : List Nat :=
  List.range' (s.spaceRec asid) 128 ++ (s.walkSlots asid va).flatMap (fun p => List.range' (p.1 / 64 * 64) 64)

/-- Whether a TLB entry holds an address (R380). -/
def TlbEnt.hits (e : TlbEnt) (asid : BitVec 16) (va : Nat) : Bool :=
  e.asid == asid && e.va.toNat == va / 2 ^ pageShift e.sz * 2 ^ pageShift e.sz

/-- Whether the heap triple translates an address (R378). -/
def Arch.heapHit (a : Arch) (va : Nat) : Bool := decide (a.hbase.toNat ≤ va) && decide (va < a.hlimit.toNat)

/-- A translation: physical address, page size code of R123 (0 heap), permissions and the WP bit. -/
structure Tr where
  pa : Nat
  size : Nat
  r : Bool
  w : Bool
  x : Bool
  wp : Bool
  deriving DecidableEq, Repr

def TlbEnt.tr (e : TlbEnt) (va : Nat) : Tr :=
  ⟨(e.pa.toNat + va % 2 ^ pageShift e.sz) % 2 ^ 56, e.sz + 1, e.r, e.w, e.x, e.wp⟩

/-- Translation in the order of R378: heap triple, TLBs, walk. -/
def State.translate (s : State) (a : Arch) (asid : BitVec 16) (va : Nat) : Option Tr :=
  if a.heapHit va then some ⟨(va + a.hoffs.toNat) % 2 ^ 56, 0, true, true, false, false⟩
  else match s.tlb.find? (fun e => e.hits asid va) with
    | some e => some (e.tr va)
    | none => (s.walk asid va).map (fun e => e.tr va)

/-- The entries the micro-TLB and the cluster TLB hold together (R380); the oldest goes first (log 12). -/
def tlbSize : Nat := 2112

/-- The translation of an address needs a walk that reads a word whose check fails (R428). -/
def State.walkBad (s : State) (a : Arch) (asid : BitVec 16) (va : Nat) : Option BadWord :=
  if a.heapHit va ∨ s.tlb.any (fun e => e.hits asid va) ∨ s.reg regASTBASE = 0 then none else s.badAt .l2 (s.walkReads asid va)

/-- Fills the TLB from a walk, where no entry holds the address (R380); the entry that makes room is remembered (R390). -/
def State.tlbFill (s : State) (asid : BitVec 16) (va : Nat) : State :=
  if s.tlb.any (fun e => e.hits asid va) then s
  else match s.walk asid va with
    | some e =>
      let l := e :: s.tlb
      { s with tlb := l.take tlbSize, tlbOld := (l.drop tlbSize).filter (fun o => !s.tlbOld.contains o) ++ s.tlbOld }
    | none => s

/-- Fills the TLB for every address. -/
def State.tlbFillAll (s : State) (asid : BitVec 16) (vas : List Nat) : State := vas.foldl (fun s va => s.tlbFill asid va) s

/-- The failing word that the walks of context c at the addresses meet first. -/
def State.walkWord (s : State) (c : Fin 4) (vas : List Nat) : Option BadWord :=
  vas.findSome? (s.walkBad (s.ctx c).arch (s.ctx c).asid)

/-- An access that has come to status `code` has met the failing word where the status is that of one: a test of its unit starts (R428,
R429). -/
def State.hit (s : State) (lid : BitVec 32) (code : Byte) (w : Option BadWord) : State :=
  match w with
  | some b => if code = cUNCORRECTABLE_MEM then s.meets b lid else s
  | none => s

/-- An access of context c at the addresses has come to status `code`, of a walk where that is a failing word. -/
def State.walkHit (s : State) (c : Fin 4) (code : Byte) (vas : List Nat) : State := s.hit (s.ctx c).lid code (s.walkWord c vas)

/-- The issue fault of an access at the addresses. -/
def State.accFault (s : State) (code : Byte) (vas : List Nat) : State := (s.walkHit s.cur code vas).issueFault code

/-- What an access needs of its page (R386). -/
inductive Need where
  | read
  | write
  | both
  | exec
  deriving DecidableEq, Repr

def Tr.allows (t : Tr) : Need → Bool
  | .read => t.r
  | .write => t.w
  | .both => t.r && t.w
  | .exec => t.x

/-- The package is this one, or the routing table lists it, and it is not lost (R408). -/
def State.routed (s : State) (pa : Nat) : Bool :=
  (paPkg pa == s.myPkg || Config.routeListed s.routes (paPkg pa)) && !s.lostPkgs.any (fun p => p.toNat == paPkg pa)

/-- The target of a physical address: DRAM, or host memory for plain accesses (R406, R408). -/
def State.target (s : State) (n : Need) (pa : Nat) : Except Byte Unit :=
  let g := paRegion pa
  if !s.routed pa then .error cACCESS_UNMAPPED
  else if g = 0 then .ok ()
  else if g = 2 then (if n = .both then .error cACCESS_PROT else .ok ())
  else if g = 1 ∨ g = 3 then .error cACCESS_PROT
  else .error cACCESS_UNMAPPED

/-- A memory access of a context to a virtual address: its translation, or the status it faults with (R386, R406). -/
def State.access (s : State) (a : Arch) (asid : BitVec 16) (n : Need) (va : Nat) : Except Byte Tr :=
  if (s.walkBad a asid va).isSome then .error cUNCORRECTABLE_MEM else
  match s.translate a asid va with
  | none => .error cACCESS_UNMAPPED
  | some t =>
    if !t.allows n then .error cACCESS_PROT
    else match s.target n t.pa with
      | .ok _ => .ok t
      | .error c => .error c

/-- A code fetch of one syllable: its physical address, where the page is mapped for execute and lies in DRAM (R75). -/
def State.fetchPa (s : State) (a : Arch) (asid : BitVec 16) (va : Nat) : Option Nat :=
  match s.translate a asid va with
  | some t => if t.x ∧ paRegion t.pa = 0 ∧ s.routed t.pa then some t.pa else none
  | none => none

/-- Consecutive bytes of an access that does not cross a 64 KiB page (every element is aligned to its size). -/
def byteAddrs (pa n : Nat) : List Nat := (List.range n).map (fun i => pa + i)

/-! ### What holds an access back at home (R429, R458) -/

/-- The home slice of a DRAM address, with its package and C-die (R280). -/
def homeSlice (pa : Nat) : Nat :=
  (pa / 2 ^ 46) * 1024 + nfld pa 37 2 * 256 + (nfld pa 6 8 ^^^ nfld pa 14 8 ^^^ nfld pa 22 8 ^^^ nfld pa 30 7)

/-- The global slice number of the Philox streams: 256 × C-die + slice (R282). -/
def sliceNo (pa : Nat) : Nat := homeSlice pa % 1024

/-- The stack of a DRAM bank, banks numbered across the 8 stacks in turn (log 41). -/
def stackOf (bank : Nat) : Nat := bank % 8

/-- One refresh interval, as it accrues: tREFI is 3.9 µs, 609.375 GTB counts (R457). -/
def refUnit : Nat := 609375

/-- What has accrued towards the refreshes of each bank of a stack by now: at the rate of its interval, and nothing more in self-refresh
(R454, R457, R458). -/
def State.accrued (s : State) (stack : Nat) : Nat :=
  s.refAcc.getD stack 0 + (if s.halted then 0 else (s.gtb - s.refAt).toNat * 1000 * s.refDiv.getD stack 1)

/-- What a bank has still to settle: at most 8 refreshes and the part of an interval (R458). -/
def State.debt (s : State) (bank : Nat) : Nat :=
  let d := s.accrued (stackOf bank) - ((s.owed.find? (fun p => p.1 == bank)).map Prod.snd).getD 0
  if 9 * refUnit ≤ d then 8 * refUnit + d % refUnit else d

/-- The refreshes that a bank owes now, at most 8 (R458). -/
def State.owes (s : State) (bank : Nat) : Nat := s.debt bank / refUnit

/-- Some row of DRAM may have to wait: one is under test, or a stack has accrued what 8 refreshes of its banks take. -/
def State.rowsMayWait (s : State) : Bool :=
  s.tests.any (fun t => t.u.kind == .dramRow) || (List.range 8).any (fun n => decide (8 * refUnit ≤ s.accrued n))

/-- An access at home needs an activate of its row of DRAM that has to wait: the row is under test, or its bank owes 8 refreshes (R429, R458).
Whether it needs one is free with what the slice holds of it (log 28). -/
def State.rowWaits (s : State) (pa : Nat) : Bool :=
  let row := Config.dramRow pa
  s.rowsMayWait && (s.tests.any (fun t => t.u.kind == .dramRow && row == (t.u.bank.toNat, t.u.index.toNat)) || s.owes row.1 == 8) && Config.raceAt s.choices (pa / 64)

/-- An access at home has to wait: for its slice, which is under test, or for its row of DRAM (R429, R458). -/
def State.homeFenced (s : State) (pa : Nat) : Bool :=
  !s.remote pa && (s.tests.any (fun t => t.u.kind == .l2Slice && t.u.index.toNat == sliceNo pa % 256 && t.u.die.toNat == sliceNo pa / 256) ||
    (paRegion pa == 0 && s.rowWaits pa))

/-- One of several bytes at home has to wait. -/
def State.homeHeld (s : State) (pas : List Nat) : Bool := pas.any s.homeFenced

end Sys2Proof.Machine
end

