-- ==== Sys2Proof/Machine/Access.lean ====
section
/-! DEFINITION. The issue step of an access (R288), the order that held and queued accesses wait in (R291, R297), and what
an acquire drops (R298). -/

namespace Sys2Proof.Machine

open Sys2Proof

/-- The implicit checkpoint of an operation that takes one before it, where the repetition has not taken it (R316). -/
def State.ensureCkpt (s : State) : State := if s.me.ckptDone then s else s.checkpoint s.cur

/-- Enters an access of the current context: into the holding buffer, or at the tail of its class queue (R288). -/
def State.enter (s : State) (held : Bool) (a : Acc) : State :=
  s.modMe (fun x =>
    let a := { a with id := x.nextId, bundle := x.arch.pc }
    if held then { x with nextId := x.nextId + 1, hold := x.hold ++ [a] }
    else { x with nextId := x.nextId + 1, queue := x.queue ++ [a] })

/-- Enters a load whose value lands in a register `k` ticks on (R88, R295). -/
def State.enterLoad (s : State) (k pos : Nat) (a : Acc) : State :=
  let id := s.me.nextId
  (s.enter false a).modMe (fun x => x.landLoad k pos id)

/-- Enters an atomic once: a replay passes it by (R121). -/
def State.enterAtomic (s : State) (a : Acc) : State × Nat × Option W64 :=
  match s.me.replay with
  | (id, r) :: t => (s.modMe (fun x => { x with replay := t, atoms := x.atoms ++ [(id, r)] }), id, r)
  | [] =>
    let id := s.me.nextId
    ((s.enter false a).modMe (fun x => { x with atoms := x.atoms ++ [(id, none)] }), id, none)

/-- Records the result of an atomic for a later replay. -/
def Context.noteAtomic (x : Context) (id : Nat) (v : W64) : Context :=
  let f := fun (p : Nat × Option W64) => if p.1 = id then (p.1, some v) else p
  { x with atoms := x.atoms.map f, replay := x.replay.map f }

/-- The level that a scope names: CTX 0, CORE 1, CLUSTER 2, DIE 3, home 4 (R285). -/
def scopeLevel (sc : Nat) : Nat := min sc 4

/-- The classes of an access's own release or acquire: its own, or all when it is class 15 (R299). -/
def ownMask (cls : BitVec 4) : BitVec 16 := if cls = 15 then 0xFFFF else BitVec.ofNat 16 (2 ^ cls.toNat)

def inMask (m : BitVec 16) (cls : BitVec 4) : Bool := m.getLsbD cls.toNat

/-- Whether an access is a store or a memory-side operation, which a release waits for (R297). -/
def AccKind.isStore : AccKind → Bool
  | .load => false
  | .ssig => false
  | .ssigClr => false
  | _ => true

/-- Whether a release waits for this entry, still on its way to its point of coherence (R297). -/
def relWaits (upto : Nat) (mask : BitVec 16) (sc : Nat) (a : Acc) : Bool :=
  decide (a.id < upto) && a.kind.isStore && inMask mask a.cls && decide (1 ≤ scopeLevel sc) && !(sc == 4 && a.remote)

/-- The level of the station that a store performs at: CORE, or CLUSTER where the cluster's L1s are fused into one (R278, R292). -/
def State.entryLevel (s : State) : Nat := if s.fused then 2 else 1

/-- The stores that go on with a dirty byte: its own, and those whose byte it has replaced (R293). -/
def StByte.marks (b : StByte) : List (Fin 4 × Nat × BitVec 4) := (b.ctx, b.id, b.cls) :: b.covers

/-- Whether a dirty byte keeps a release of the context waiting (R297). -/
def dirtyWaits (c : Fin 4) (upto : Nat) (mask : BitVec 16) (b : StByte) : Bool :=
  b.dirty && b.marks.any (fun m => m.1 == c && decide (m.2.1 < upto) && inMask mask m.2.2)

/-- Whether a release at scope `sc` of context `c` over `mask`, of the accesses before `upto`, must still wait (R297). A release that
writes back the L1 waits for every dirty byte of it, whatever its class and context (R277; DEDUCED, log 36). -/
def State.relPending (s : State) (c : Fin 4) (upto : Nat) (mask : BitVec 16) (sc : Nat) : Bool :=
  let x := s.ctx c
  x.hold.any (relWaits upto mask sc) || x.queue.any (relWaits upto mask sc) ||
    s.homeQ.any (fun h => h.ctx == c && relWaits upto mask sc h.acc) ||
    s.bankQ.any (fun b => b.ctx == c && relWaits upto mask sc b.acc) ||
    (decide (2 ≤ scopeLevel sc) && s.stCore.any StByte.dirty) ||
    (decide (3 ≤ scopeLevel sc) && s.stCluster.any (fun b => (s.fused && b.dirty) || dirtyWaits c upto mask b)) ||
    (decide (4 ≤ scopeLevel sc) && s.stDie.any (dirtyWaits c upto mask))

/-- An acquire at a scope drops every clean byte of the stations below it on the context's paths (R298). -/
def State.acquire (s : State) (sc : Nat) : State :=
  let keep := fun (b : StByte) => b.dirty
  { s with
    stCore := if 2 ≤ scopeLevel sc then s.stCore.filter keep else s.stCore
    stCluster := if 3 ≤ scopeLevel sc then s.stCluster.filter keep else s.stCluster
    stDie := if 4 ≤ scopeLevel sc then s.stDie.filter keep else s.stDie }

/-- The bytes of a value at consecutive addresses. -/
def cellsOf (addr n v : Nat) : List (Nat × Byte) := (leBytes n v).zipIdx.map (fun p => (addr + p.2, p.1))

/-- Whether the launch of a context places core x in its clusters (R166, R347). -/
def Launch.hasCore (l : Launch) (x : Nat) : Bool := decide (x < 24) && nfld (ofLe (l.desc.drop 0x5C |>.take 4)) x 1 == 1

/-- The key of a scratchpad access of `n` bytes (R166), or the status it faults with. -/
def State.spAddr (s : State) (peer : Bool) (a n : Nat) : Except Byte Nat :=
  if peer then
    let x := nfld a 56 5
    let o := nfld a 0 21
    if nfld a 61 3 ≠ 0 ∨ nfld a 21 35 ≠ 0 ∨ 0x180000 < o + n then .error cACCESS_PROT
    else match s.launchOf s.me.lid with
      | some l => if l.hasCore x then .ok (spKey x o) else .error cACCESS_PROT
      | none => .error cACCESS_PROT
  else if 0x180000 < a + n ∨ 2 ^ 21 ≤ a then .error cACCESS_PROT
  else .ok (spKey s.myX a)

/-- Whether a repetition of a bundle with rep > 0 may not make a remote access (R117). -/
def Context.repeats (x : Context) : Bool := fld x.hdr 2 4 != 0

end Sys2Proof.Machine
end

