-- ==== Sys2Proof/Machine/Operands.lean ====
section
/-! DEFINITION. Operand forms: the running state of sticky forms (R83, R84), the immediate, the addresses and the register
operands of the slots, queue-head reads (R65, R147) and the q0 random words (R260). -/

namespace Sys2Proof.Machine

open Sys2Proof

/-! ### Sticky forms (R83, R84) -/

/-- The sticky latch of a slot position. -/
def Arch.latch (a : Arch) (pos : Nat) : Latch := a.latches.getD pos {}

/-- The offset field of a sticky A or V form, sign-extended (R84). -/
def stickyOff (imm : BitVec 24) : W64 := (imm.setWidth 12).signExtend 64
/-- The step field of a sticky A or V form, sign-extended (R84). -/
def stickyStep (imm : BitVec 24) : W64 := ((imm >>> 12).setWidth 12).signExtend 64

/-- imm24 sign-extended, or the running offset of the latch in a sticky form (R83, R105, R166). -/
def Arch.immOf (a : Arch) (pos : Nat) (st : Bool) (imm : BitVec 24) : W64 :=
  if st then (if (a.latch pos).valid then (a.latch pos).off else stickyOff imm) else imm.signExtend 64

/-- The row of an O form: the latch's running row when it is sticky (R83). -/
def Arch.rowOf (a : Arch) (st : Bool) (row : BitVec 7) : Nat :=
  if st ∧ (a.latch 4).valid then (a.latch 4).row.toNat else row.toNat

/-! ### A-slot operands (R104) -/

def State.aA (s : State) (f : AF) : W64 := s.me.arch.rs f.a.toNat
def State.aB (s : State) (f : AF) : W64 := s.me.arch.rs f.b.toNat
def State.aD (s : State) (f : AF) : W64 := s.me.arch.rs f.d.toNat
def State.aImm (s : State) (f : AF) : W64 := s.me.arch.immOf 1 f.st f.imm

/-- A `w`-bit result sign-extended into an s register (R108). -/
def wide (w r : Nat) : W64 := BitVec.ofInt 64 (toSigned w r)

end Sys2Proof.Machine

namespace Sys2Proof

open Sys2Proof.Machine

/-- The operation width that w names: 64, or 32 for w = 0b01 (R108). -/
def AF.width (f : AF) : Nat := if f.w = 1 then 32 else 64

/-- The register in [17:12] of an S syllable (R135). -/
def SF.n (f : SF) : Nat := nfld f.x.toNat 0 6
/-- The field in [23:18] of an S syllable (R135, R248). -/
def SF.n2 (f : SF) : Nat := nfld f.x.toNat 6 6

end Sys2Proof

namespace Sys2Proof.Machine

open Sys2Proof

/-! ### Queue heads (R65, R147, R260) -/

/-- The head entry of latch q1–q7, where one is visible (R148). -/
def Context.qHead (x : Context) (q : Nat) : Option QEntry :=
  match ((x.qs.getD q {}).ents).head? with
  | some e => if e.vis ∧ e.due ≤ x.tick then some e.e else none
  | none => none

/-- Word L of the head entry of q0 (R260). -/
def Arch.q0Word (a : Arch) (l : Nat) : W32 :=
  let c := a.rctr.toNat + l / 4
  nth (philox a.rkey (c % 2 ^ 32) (c / 2 ^ 32 % 2 ^ 32) 0 0) (l % 4)

/-- The 16 lanes of a queue head for lane group `grp`; none where the read finds the latch empty. Lanes that the entry's
mask marks invalid read as zero. -/
def Context.qLanes (x : Context) (q grp : Nat) : Option (List W32) :=
  if q = 0 then (if x.q0gen then some ((List.range 16).map (fun l => x.arch.q0Word (16 * grp + l))) else none)
  else (x.qHead q).map (fun e => (List.range 16).map (fun l => if e.mask.getLsbD l then nth e.lanes l else 0))

/-- What a read of a latch needs first: a latch of the share (ACCESS_PROT), then an entry (blocked). -/
def State.needQ (s : State) (q : Nat) (go : State) : State :=
  if !s.me.share.mayRead q then s.issueFault cACCESS_PROT
  else if (if q = 0 then s.me.q0gen else (s.me.qHead q).isSome) then go
  else s.block

/-- The random word of lane l of group g in the q0 head entry, and word 0 (R260). -/
def State.rnd (s : State) (l : Nat) : W32 := s.me.arch.q0Word l

/-- An operation that takes its random word from q0 under FCR.SRD or `.sr` blocks while q0 has no entry (R26, R465). -/
def State.needRnd (s : State) (uses : Bool) (go : State) : State := if uses ∧ !s.me.q0gen then s.block else go

end Sys2Proof.Machine
end

