-- ==== Sys2Proof/Machine/Flags.lean ====
section
/-! DEFINITION. Conditions and flag computations: compares (R111, R134), guard and mask logic (R141), the loss-scale update
(R259). The FSR flags of arithmetic come with each operation of Num.lean; they set when its result lands (R23). -/

namespace Sys2Proof.Machine

open Sys2Proof

/-- CMP's condition by qualifier, on 64 bits (R111). -/
def cmpCond (q : Nat) (a x : W64) : Bool :=
  match q with
  | 0 => a == x
  | 1 => a != x
  | 2 => a.slt x
  | 3 => a.sle x
  | 4 => a.ult x
  | 5 => a.ule x
  | _ => (a &&& x) != 0

/-- FCMPS's condition by qualifier, on values read after DAZ (R134). -/
def fcmpCond (q : Nat) (a b : FV) : Bool :=
  let un := a.isNan || b.isNan
  match q with
  | 0 => !un && a.cmp b == 0
  | 1 => un || a.cmp b != 0
  | 2 => !un && decide (a.cmp b < 0)
  | 3 => !un && decide (a.cmp b ≤ 0)
  | _ => un

/-- GLOG's and KLOG's operation, bit by bit (R141). -/
def logOp {w : Nat} (op : Nat) (a b : BitVec w) : BitVec w :=
  match op with
  | 0 => a &&& b
  | 1 => a ||| b
  | 2 => a ^^^ b
  | 3 => a &&& ~~~b
  | 4 => a ||| ~~~b
  | 5 => ~~~a
  | 6 => BitVec.allOnes w
  | _ => 0

/-- A write of guard `d`. -/
def landGuard (d : Nat) (v : Bool) : Land := .g (BitVec.ofNat 16 (2 ^ d)) (if v then BitVec.ofNat 16 (2 ^ d) else 0)

/-- LSUPD (R259) on LSCALE and LSCFG: their new values and g[d]. -/
def lossUpdate (ov : Bool) (lscale lscfg : W64) : W64 × W64 × Bool :=
  let e : Int := (fld lscale 23 8 : Int) - 127
  let emin := toSigned 8 (fld lscfg 0 8)
  let emax := toSigned 8 (fld lscfg 8 8)
  let n := fld lscfg 16 16
  let scale := fun (e : Int) => (e + 127).toNat * 2 ^ 23
  if ov then
    let l := setFld lscale 48 16 (min (fld lscale 48 16 + 1) 65535)
    let l := setFld l 32 16 0
    let c := setFld lscfg 34 1 1
    if emin < e then (setFld l 0 32 (scale (e - 1)), c, true) else (l, setFld c 32 1 1, true)
  else
    let c := setFld lscfg 34 1 0
    if n = 0 then (lscale, c, false)
    else
      let run := fld lscale 32 16 + 1
      if n ≤ run then
        if e < emax then (setFld (setFld lscale 32 16 0) 0 32 (scale (e + 1)), c, false)
        else (setFld lscale 32 16 n, setFld c 33 1 1, false)
      else (setFld lscale 32 16 run, c, false)

end Sys2Proof.Machine
end

