-- ==== Sys2Proof/Machine/ScalarFloat.lean ====
section
/-! DEFINITION. The scalar floating-point operations of the A slot (R132 to R134): FCR as latched at issue (R22), results and
flags at the due tick (R23). -/

namespace Sys2Proof.Machine

open Sys2Proof

/-- FCR as an operation latches it at issue (R22). -/
def Arch.fctl (a : Arch) : FCtl := FCtl.ofFcr a.fcr

/-- The low 32 bits of an s register, as a pattern (R132). -/
def low32 (x : W64) : Nat := x.toNat % 2 ^ 32

/-- A scalar float result, readable from n + 3, with the flags it raises. It blocks while it needs a q0 word and there is
none (R465). -/
def scalarF (f : AF) (s : State) (op : FCtl → W32 → Nat × BitVec 6) : Out :=
  slotOp f.g s (fun s =>
    let c := s.me.arch.fctl
    s.needRnd c.srd (
      let r := op c (s.rnd 0)
      s.land 3 1 (.s f.d.toNat (BitVec.ofNat 64 r.1)) r.2))

/-- FADDS (R132). -/
def execFadds (f : AF) (s : State) : Out :=
  scalarF f s (fun c w => fAddF f32 c w false (low32 (s.aA f)) (low32 (s.aB f)))

/-- FADDS with the second operand negated (R132). -/
def execFaddsNegated (f : AF) (s : State) : Out :=
  scalarF f s (fun c w => fAddF f32 c w true (low32 (s.aA f)) (low32 (s.aB f)))

/-- FMULS (R132). -/
def execFmuls (f : AF) (s : State) : Out :=
  scalarF f s (fun c w => fMulF f32 c w (low32 (s.aA f)) (low32 (s.aB f)))

/-- round(±(a × b) ± d), one rounding (R132). -/
def fMaF (c : FCtl) (w : W32) (negP negC : Bool) (a b d : Nat) : Nat × BitVec 6 :=
  let p := (f32.dec c.daz a).mul (f32.dec c.daz b)
  let z := f32.dec c.daz d
  let t := (if negP then p.1.neg else p.1).add c.zneg (if negC then z.neg else z)
  let r := f32.round (c.deflt w) c.satn c.ftz t.1
  (r.1, z.productFlags p.2 ||| t.2 ||| r.2)

/-- FMAS: w[1] negates the product, w[0] the addend s[d], read at issue (R132). -/
def execFmas (f : AF) (s : State) : Out :=
  scalarF f s (fun c w => fMaF c w (f.w.getLsbD 1) (f.w.getLsbD 0) (low32 (s.aA f)) (low32 (s.aB f)) (low32 (s.aD f)))

/-- The float format of a CVTS type code (R133). -/
def cvtsFmt (t : Nat) : Option Fmt :=
  match t with
  | 2 => some f32
  | 3 => some f16
  | 4 => some bf16
  | 5 => some e4m3
  | 6 => some e5m2
  | _ => none

/-- Width of an integer CVTS type: 0 i32, 1 i64 (R133). -/
def cvtsInt (t : Nat) : Nat := if t = 0 then 32 else 64

/-- CVTS's conversion (R24, R25, R27, R133): the 64-bit result and the flags. From an integer to a float it rounds by RM, also with
`.sr` (R27). -/
def cvtsV (c : FCtl) (r : RMode) (src dst : Nat) (x : W64) : W64 × BitVec 6 :=
  match cvtsFmt src, cvtsFmt dst with
  | some m, some n =>
    let v := n.round r c.satn c.ftz (m.dec c.daz (x.toNat % 2 ^ (m.ebits + m.fbits + 1)))
    (BitVec.ofNat 64 v.1, v.2)
  | some m, none =>
    let v := toInt (cvtsInt dst) r (m.dec c.daz (x.toNat % 2 ^ (m.ebits + m.fbits + 1)))
    (BitVec.ofInt 64 v.1, v.2)
  | none, some n =>
    let v := n.round c.mode c.satn c.ftz (FV.ofInt (toSigned (cvtsInt src) x.toNat))
    (BitVec.ofNat 64 v.1, v.2)
  | none, none =>
    let v := satS (cvtsInt dst) (toSigned (cvtsInt src) x.toNat)
    (BitVec.ofInt 64 v.1, if v.2 then fSAT else 0)

/-- CVTS (R133). With `.sr` it reads word 0 of the q0 head entry, even where the result is exact (R26). -/
def execCvts (f : AF) (s : State) : Out :=
  slotOp f.g s (fun s =>
    let sr := f.imm.getLsbD 8
    s.needRnd sr (
      let c := s.me.arch.fctl
      let r := cvtsV c (if sr then .sr (s.rnd 0) else c.mode) (fld f.imm 0 4) (fld f.imm 4 4) (s.aA f)
      s.land 3 1 (.s f.d.toNat r.1) r.2))

/-- FCMPS (R134): guard g[d], readable from n + 3; no flag. -/
def execFcmps (f : AF) (s : State) : Out :=
  slotOp f.g s (fun s =>
    let c := s.me.arch.fctl
    s.land 3 1 (landGuard f.d.toNat
      (fcmpCond f.q.toNat (f32.dec c.daz (low32 (s.aA f))) (f32.dec c.daz (low32 (s.aB f))))))

end Sys2Proof.Machine
end

