-- ==== Sys2Proof/Machine/Fetch.lean ====
section
/-! DEFINITION. Reading bundles: the syllables at an address (R72, R75, R78, R137), and the hardware loops' body ends, passes
and stage predicates (R67, R137, R138, R313). -/

namespace Sys2Proof.Machine

open Sys2Proof

/-- The syllable of context c at a code address, where its page is mapped for execute (check 1 of R75). -/
def State.syllable (s : State) (c : Fin 4) (va : Nat) : Option W32 :=
  let x := s.ctx c
  (s.fetchPa x.arch x.asid va).map (fun pa => BitVec.ofNat 32 (s.memNat pa 4))

/-- `n` consecutive syllables, all of them mapped. -/
def State.syllables (s : State) (c : Fin 4) : Nat → Nat → Option (List W32)
  | 0, _ => some []
  | n + 1, va =>
    match s.syllable c va, s.syllables c n (va + 4) with
    | some w, some ws => some (w :: ws)
    | _, _ => none

/-- The first word whose check fails that the fetch of `n` syllables, or a walk for them, reads (R428; DEDUCED, log 43). -/
def State.codeWord (s : State) (c : Fin 4) (va n : Nat) : Option BadWord :=
  let x := s.ctx c
  if s.bad.isEmpty then none
  else (List.range n).findSome? (fun i => (s.walkBad x.arch x.asid (va + 4 * i)).or
    ((s.fetchPa x.arch x.asid (va + 4 * i)).bind (fun pa => s.badAt .l2 (List.range' pa 4))))

/-- The syllables of the bundle at an address: from the loop buffer on the later passes of a body (R137), else from memory. -/
def State.bundleAt (s : State) (c : Fin 4) (va : Nat) : Except Byte (List W32) :=
  match (s.ctx c).arch.lbuf.find? (fun p => p.1 == va) with
  | some p => .ok p.2
  | none =>
    if (s.codeWord c va 1).isSome then .error cUNCORRECTABLE_MEM else
    match s.syllable c va with
    | none => .error cFETCH_UNMAPPED
    | some h =>
      match s.syllables c (bundleLen h) va with
      | some ws => if (s.codeWord c va ws.length).isSome then .error cUNCORRECTABLE_MEM else .ok ws
      | none => .error cFETCH_UNMAPPED

/-- The failing word that the fetch of the bundle at an address meets. -/
def State.fetchWord (s : State) (c : Fin 4) (va : Nat) : Option BadWord :=
  (s.codeWord c va 1).or ((s.syllable c va).bind (fun h => s.codeWord c va (bundleLen h)))

/-- The bundle at an address through all the checks of R75. -/
def State.fetchBundle (s : State) (c : Fin 4) (va : Nat) : Except Byte (List W32 × Bundle) :=
  match s.bundleAt c va with
  | .error e => .error e
  | .ok ws =>
    match decodeBundle ws with
    | .error e => .error e
    | .ok b => .ok (ws, b)

/-! ### Hardware loops -/

/-- The innermost active loop and its lp register (R137). -/
def innermost (lps : List LoopReg) : Option (Nat × LoopReg) :=
  (lps.zipIdx.filter (fun p => p.1.active)).foldl
    (fun best p => match best with
      | some (i, l) => if l.depth ≤ p.1.depth then some (p.2, p.1) else some (i, l)
      | none => some (p.2, p.1))
    none

def Arch.loop (a : Arch) : Option (Nat × LoopReg) := innermost a.lps

/-- An address that no body's end can equal: the end of a body whose bundles cannot all be read. -/
def noEnd : Nat := 2 ^ 60

/-- The address after `n` bundles, found from their headers. -/
def State.bodyEnd (s : State) (c : Fin 4) : Nat → Nat → Nat
  | 0, va => va
  | n + 1, va =>
    match s.bundleAt c va with
    | .ok ws => s.bodyEnd c n (va + 4 * ws.length)
    | .error _ => noEnd

/-- The address after `n` bundles that a loop which runs no times checks in turn; the first failing check names its bundle
(R137). -/
def State.bodyCheck (s : State) (c : Fin 4) : Nat → Nat → Except (Byte × Nat) Nat
  | 0, va => .ok va
  | n + 1, va =>
    match s.fetchBundle c va with
    | .ok (_, b) => s.bodyCheck c n (va + 4 * b.len)
    | .error e => .error (e, va)

/-- The counters of a nest one pass on: the innermost level advances fastest (R137). -/
def nextLevels : List (Nat × Nat) → List (Nat × Nat) × Bool
  | [] => ([], true)
  | (i, n) :: t =>
    let r := nextLevels t
    if r.2 then (if i + 1 < n then ((i + 1, n) :: r.1, false) else ((0, n) :: r.1, true)) else ((i, n) :: r.1, false)

/-- The guards g8 to g(8 + S − 1). -/
def stageMask (stages : Nat) : BitVec 16 := BitVec.ofNat 16 ((2 ^ stages - 1) * 2 ^ 8)

/-- The stage predicates of pass p (R67). -/
def stageVal (stages trip p : Nat) : BitVec 16 :=
  BitVec.ofNat 16 ((List.range stages).foldl (fun v j => if j ≤ p ∧ p - j < trip then v + 2 ^ (8 + j) else v) 0)

/-- Whether any loop is active. -/
def Arch.inLoop (a : Arch) : Bool := a.lps.any LoopReg.active

/-- The end of a pass: where the next bundle would be the one after the innermost body, the loop begins its next pass or
becomes idle; an idle loop lets the enclosing one end its pass there too (R67, R137, R138). -/
def Arch.loopNext : Nat → Arch → Nat → Arch × Nat
  | 0, a, pc => (a, pc)
  | n + 1, a, pc =>
    match a.loop with
    | none => (a, pc)
    | some (i, l) =>
      if pc ≠ l.stop then (a, pc)
      else if l.pass + 1 < l.passes then
        let l' := { l with pass := l.pass + 1, levels := (nextLevels l.levels).1 }
        let a := { a with lps := setNth a.lps i l' }
        (if l.sp then a.apply (.g (stageMask l.stages) (stageVal l.stages l.trip l'.pass)) else a, l.start)
      else
        let a := { a with lps := setNth a.lps i {} }
        Arch.loopNext n (if l.sp then a.apply (.g (stageMask l.stages) 0) else a) pc

/-- Goes on at the bundle at `pc`, after the ends of loop passes; outside every body the loop buffer is empty. -/
def Arch.goTo (a : Arch) (pc : Nat) : Arch :=
  let r := Arch.loopNext 4 a pc
  { r.1 with pc := r.2, rep := 0, lbuf := if r.1.inLoop then r.1.lbuf else [] }

end Sys2Proof.Machine
end

