-- ==== Sys2Proof/Machine/Trace.lean ====
section
/-! DEFINITION. The drift log, the interlock and sample records (R437 to R442), and the recording of nondeterministic inputs
(R446 to R448). -/

namespace Sys2Proof.Machine

open Sys2Proof

/-! ### Logs -/

/-- Where a log append goes: mapped for write, at a target that takes it (R438). -/
def State.logTr (s : State) (c : Fin 4) (va : Nat) : Except Byte Tr :=
  let x := s.ctx c
  s.access x.arch x.asid .write va

/-- A log append that fails ends the launch, naming its bundle: ACCESS_UNMAPPED for any translation that fails (R438), UNCORRECTABLE_MEM for a
walk that meets a failing word (R428). -/
def State.logFault (s : State) (c : Fin 4) (r : LogRec) (code : Byte) (va : Nat) : State :=
  (s.walkHit c code [va]).fatal c (if code = cUNCORRECTABLE_MEM then code else cACCESS_UNMAPPED) r.bundle 0

/-- Where record n of a log stands. -/
def LogRec.at_ (r : LogRec) (n : Nat) : Nat := r.base + 64 + 16 * (n % 2 ^ r.logn)

/-- The append waits for a migration window of its count's or its record's page to close (R389). -/
def State.logParks (s : State) (c : Fin 4) (r : LogRec) : Bool :=
  let wp := fun (va : Nat) => (s.logTr c va).toOption.any Tr.wp
  match s.logTr c r.base with
  | .ok t => t.wp || wp (r.at_ (s.memNat t.pa 8))
  | .error _ => false

/-- Appends a record to a log: the count rises, then the record is written (R438). -/
def State.logPut (s : State) (c : Fin 4) (r : LogRec) : State :=
  match s.logTr c r.base with
  | .error e => s.logFault c r e r.base
  | .ok tn =>
    let n := s.memNat tn.pa 8
    let s := s.memPut tn.pa (leBytes 8 (n + 1))
    match s.logTr c (r.at_ n) with
    | .error e => s.logFault c r e (r.at_ n)
    | .ok t => s.memPut t.pa r.bytes

/-- The append is made, or waits behind those that wait; the TLBs keep what it has found (R389). -/
def State.logTry (s : State) (c : Fin 4) (r : LogRec) : State :=
  if !(s.ctx c).logWait.isEmpty ∨ s.logParks c r then
    let n := ((s.logTr c r.base).toOption.map (fun t => s.memNat t.pa 8)).getD 0
    (s.tlbFillAll (s.ctx c).asid [r.base, r.at_ n]).mod c (fun x => { x with logWait := x.logWait ++ [r] })
  else s.logPut c r

/-- Appends a 16-byte record to the log at `base` of 2^`logn` records; a failure names `bundle`. -/
def State.logAppend (s : State) (c : Fin 4) (base logn : Nat) (rec_ : List Byte) (bundle : Nat) : State :=
  s.logTry c { base, logn, bytes := rec_, bundle }

/-- The records of context c that wait translate again (R389). -/
def State.logRetry (s : State) (c : Fin 4) : State :=
  (s.ctx c).logWait.foldl (fun s r => s.logTry c r) (s.mod c (fun x => { x with logWait := [] }))

/-- A drift-log record (R438). -/
def driftRec (addr kind : Nat) (drift : Int) (ticks : Nat) : List Byte :=
  leBytes 7 addr ++ leBytes 1 kind ++ leBytes 4 (ofSigned 32 (satS 32 drift).1) ++ leBytes 4 ticks

/-- Appends to the drift log, which LBASE = 0 disables (R437). -/
def State.driftAppend (s : State) (c : Fin 4) (kind : Nat) (drift : Int) (bundle : Nat) : State :=
  let d := (s.ctx c).arch.driftcfg
  let base := fld d 12 44 * 2 ^ 12
  if base = 0 then s
  else s.logAppend c base (fld d 60 4 + 4) (driftRec bundle kind drift (s.ctx c).tick) bundle

/-- ITER and LOOP of a trace or sample record (R441, R442). -/
def loopFields (a : Arch) (guard : Nat) : Nat × Nat :=
  match a.loop with
  | none => (0, 0)
  | some (i, l) =>
    if l.sp ∧ 8 ≤ guard ∧ guard < 8 + l.stages then ((l.pass + 2 ^ 32 - (guard - 8)) % 2 ^ 32, i + 4 + 8 * (guard - 8)) else (l.pass % 2 ^ 32, i + 4)

/-- Appends a trace or sample record, which TBASE = 0 disables (R439, R441): of the bundle and the repetition that the context issued
last. CYCLES is a free value below 2^16, 0 where nothing held the context (log 5). -/
def State.traceAppend (s : State) (c : Fin 4) (kind : Nat) : State :=
  let x := s.ctx c
  let a := x.arch
  let base := fld a.tracecfg 0 44 * 2 ^ 12
  let lf := x.lastLoop
  let bundle := x.lastPc
  let cause := x.lastCause
  let cycles := if cause = 0 then 0 else fld (Config.freeWord s.times) 0 16
  if base = 0 then s
  else s.logAppend c base (fld a.tracecfg 47 4 + 6)
    (leBytes 7 bundle ++ leBytes 1 kind ++ leBytes 4 lf.1 ++ leBytes 1 lf.2 ++ leBytes 1 cause ++ leBytes 2 cycles) bundle

/-- The guard of the S slot or else of the first encoded slot, for a record's stage (R442). -/
def guardOfBundle (ws : List W32) : Nat := if bundleLen (nth ws 0) = 1 then 0 else (guardOf (nth ws 1)).toNat

/-- A tick of the context, whose loop fields have been noted before its slots (R442): what held it before (a fetch is free where nothing else did, log 5), and its interlock record while the trace
is armed; a MARK of the tick arms it for the ticks that follow (R440, R441). Other contexts that could have issued were held by it. -/
def State.traceTick (s : State) (c : Fin 4) (bundle : Nat) : State :=
  let s := s.mod c (fun x => { x with
    lastPc := bundle, traceCause := 0
    lastCause := if x.traceCause ≠ 0 then x.traceCause else if Config.raceAt s.times 6 then 6 else 0 })
  let s := if (s.ctx c).traceLeft = 0 then s
    else (s.traceAppend c 1).mod c (fun x => { x with traceLeft := x.traceLeft - 1 })
  ctxIds.foldl (fun s d => s.mod d (fun x =>
    if d = c then { x with traceLeft := x.traceArm.getD x.traceLeft, traceArm := none }
    else if x.mode = .live ∧ x.wait = .run ∧ x.traceCause = 0 then { x with traceCause := 7 } else x)) s

/-! ### Recording and replay -/

/-- RMODE (R439). -/
def Context.rmode (x : Context) : Nat := fld x.arch.tracecfg 59 2

/-- Where a context's recording stands: its header line, then 16-byte entries (R446). The places of the header's fields
and of an entry's fields are the model's (log 13). -/
def Context.rplAddr (x : Context) : Nat := x.rplBase.toNat + 2 ^ 20 * x.order

/-- The entries that a recording of 2^20 bytes holds after its header line. -/
def rplMax : Nat := 65532

/-- An entry: kind, bundle, value. -/
def rplEntry (kind bundle : Nat) (v : W64) : List Byte := leBytes 1 kind ++ leBytes 7 bundle ++ leBytes 8 v.toNat

/-- Where entry i of a recording stands. -/
def Context.rplEntryAt (x : Context) (i : Nat) : Nat := x.rplAddr + 64 + 16 * i

/-- Appends an entry; a recording that fills is marked invalid and stops growing (R446). An entry that a trap has taken back is made again in
its place (R435). -/
def State.rplAppend (s : State) (c : Fin 4) (kind : Nat) (v : W64) (bundle : Nat) : State :=
  let x := s.ctx c
  let p := x.rplAddr
  if x.rplOff then s
  else match x.rplRedo.find? (fun r => r.1 == kind) with
    | some r => (s.memPut (x.rplEntryAt r.2) (rplEntry kind bundle v)).mod c (fun x => { x with
        rplRedo := x.rplRedo.erase r, rplNew := x.rplNew ++ [r] })
    | none =>
      if rplMax ≤ x.rplPos then (s.memPut (p + 8) (leBytes 8 0)).mod c (fun x => { x with rplOff := true })
      else
        let s := s.memPut (x.rplEntryAt x.rplPos) (rplEntry kind bundle v)
        (s.memPut p (leBytes 8 (x.rplPos + 1))).mod c (fun x => { x with
          rplPos := x.rplPos + 1, rplNew := x.rplNew ++ [(kind, x.rplPos)] })

/-- The next recorded entry of a kind, where the recording still holds: its place and its value. Entries of one kind are taken in their order;
those of atomics are asked for as these are served, which is no order with the others (DEDUCED, log 39). -/
def State.rplNext (s : State) (c : Fin 4) (kind : Nat) : Option (Nat × W64) :=
  let x := s.ctx c
  let from_ := x.rplAt.getD kind 0
  if x.rplOff then none
  else ((List.range' from_ (min (s.memNat x.rplAddr 8) rplMax - from_)).find? (fun i => s.memNat (x.rplEntryAt i) 1 == kind)).map
    (fun i => (i, BitVec.ofNat 64 (s.memNat (x.rplEntryAt i + 8) 8)))

/-- A nondeterministic input of context c: recorded under RMODE 1, replaced by the recorded one under RMODE 2 and 3 (R446, R448). It is of the
bundle that issues, or of the one named. -/
def State.input (s : State) (c : Fin 4) (kind : Nat) (v : W64) (bundle : Option Nat := none) : State × W64 :=
  match (s.ctx c).rmode with
  | 0 => (s, v)
  | 1 => (s.rplAppend c kind v (bundle.getD (s.ctx c).arch.pc), v)
  | _ =>
    match s.rplNext c kind with
    | none => (s, v)
    | some (i, w) => (s.mod c (fun x => { x with rplAt := setNth x.rplAt kind (i + 1) }), w)

/-- No further value of its recording is substituted for a context, and the recording is marked invalid (R448). -/
def State.dropRpl (s : State) (lid : BitVec 32) : State :=
  let off := fun (x : Context) => { x with rplOff := true }
  let mine := fun (x : Context) => x.lid == lid && x.mode != .free
  let s := ctxIds.foldl (fun s c => if mine (s.ctx c) then (s.memPut ((s.ctx c).rplAddr + 8) (leBytes 8 0)).mod c off else s) s
  s.away.foldl (fun s p => if p.2.lid == lid then s.memPut (p.2.rplAddr + 8) (leBytes 8 0) else s)
    { s with away := mapIf (fun p => p.2.lid == lid) (fun p => (p.1, off p.2)) s.away }

/-- A MARK's signature: recorded, or compared with the recorded one; a difference is reported, stops the launch under RMODE 2 and drops
the recording of all its contexts under RMODE 3 (R447, R448). -/
def State.markSig (s : State) (c : Fin 4) : State :=
  let x := s.ctx c
  if x.mode ≠ .live ∨ x.rmode = 0 ∨ x.rplOff then s
  else
    let compared := decide (2 ≤ x.rmode) && (s.rplNext c kSIG).isSome
    let r := s.input c kSIG x.sig
    if r.2 = x.sig then if compared then r.1.mod c (fun x => { x with lastMark := some x.arch.pc }) else r.1
    else
      let told : State := { r.1 with
        diverged := r.1.diverged ++ [{ lid := x.lid, bundle := x.arch.pc, sig := x.sig, recorded := r.2, last := x.lastMark }] }
      if x.rmode = 2 then told.fatal c cREPLAY_DIVERGED x.arch.pc 0
      else told.dropRpl x.lid

end Sys2Proof.Machine
end

