-- ==== Sys2Proof/Machine/ScalarMem.lean ====
section
/-! DEFINITION. The A-slot operations on memory, the tile table, extraction patterns and es registers (R115 to R131). -/

namespace Sys2Proof.Machine

open Sys2Proof

/-! ### Scalar loads, stores and atomics -/

/-- A memory address that a scalar access forms at issue: below 2^56 and a multiple of its width (R116), translated for
the access (R386). A remote load or atomic in a bundle with rep > 0 faults where the rule says so (R117). -/
def scalarAddr (s : State) (n : Need) (width va : Nat) (once : Bool) : Except Byte Tr :=
  if 2 ^ 56 ≤ va ∨ va % width ≠ 0 then .error cILLEGAL_OPERAND
  else match s.access s.me.arch s.me.asid n va with
    | .error c => .error c
    | .ok t => if once ∧ s.remote t.pa ∧ s.me.repeats then .error cILLEGAL_OPERAND else .ok t

/-- LDS (R115 to R117). -/
def execLds (f : AF) (s : State) : Out :=
  slotOp f.g s (fun s =>
    let n := 2 ^ f.w.toNat
    let va := (s.aA f + s.aImm f).toNat
    match scalarAddr s .read n va true with
    | .error c => s.accFault c [va]
    | .ok t =>
      let s := if s.remote t.pa then s.ensureCkpt else s
      (s.tlbFill s.me.asid va).enterLoad 4 1
        { id := 0, kind := .load, cls := f.cls, addrs := byteAddrs t.pa n, va := BitVec.ofNat 56 va, width := n, acq := f.q == 1,
          scope := f.b.setWidth 3, remote := s.remote t.pa, dst := .s f.d.toNat n true })

/-- STS (R115 to R117): the low bytes of s[d] enter the holding buffer; `.rel` takes its implicit checkpoint first. -/
def execSts (f : AF) (s : State) : Out :=
  slotOp f.g s (fun s =>
    let n := 2 ^ f.w.toNat
    let va := (s.aA f + s.aImm f).toNat
    match scalarAddr s .write n va false with
    | .error c => s.accFault c [va]
    | .ok t =>
      let s := if f.q = 2 then s.ensureCkpt else s
      (s.tlbFill s.me.asid va).enter true
        { id := 0, kind := .store, cls := f.cls, cells := cellsOf t.pa n (s.aD f).toNat, va := BitVec.ofNat 56 va, width := n,
          wp := t.wp, rel := f.q == 2, scope := f.b.setWidth 3, remote := s.remote t.pa })

/-- Whether an SC atomic at this scope finds its tumbler: at DOMAIN scope the designated one, on a package that is not lost
(R120, R410). -/
def State.tumblerOk (s : State) (sc : Nat) : Bool :=
  sc != 5 || (bit (s.reg regDOMTUMB) 15 && !s.lostPkgs.any (fun p => p.toNat == fld (s.reg regDOMTUMB) 0 10))

/-- Takes the next ticket of the package's or the domain's tumbler for an SC atomic (R301). -/
def State.takeTicket (s : State) (sc : Nat) : State × Nat × Nat :=
  if sc = 4 then ({ s with pkgTumbler := s.pkgTumbler + 1 }, s.pkgTumbler + 1, 1)
  else ({ s with domTumbler := s.domTumbler + 1 }, s.domTumbler + 1, 2)

/-- The ticket of an SC atomic, recorded or replayed (R446, R448). -/
def State.scTicket (s : State) (sc : Nat) : State × Nat × Nat :=
  let k := s.takeTicket sc
  let r := k.1.input k.1.cur kTICKET (BitVec.ofNat 64 k.2.1)
  (r.1, r.2.toNat, k.2.2)

/-- AMO (R118 to R121): after its implicit checkpoint it enters its class queue; the old value returns to s[d]. -/
def execAmo (f : AF) (s : State) : Out :=
  slotOp f.g s (fun s =>
    let n := if f.w = 0 then 4 else 8
    let va := (s.aA f).toNat
    let op := fld f.imm 0 4
    let sc := fld f.imm 4 3
    match scalarAddr s .both n va false with
    | .error c => s.accFault c [va]
    | .ok t =>
      if f.q = 4 ∧ !s.tumblerOk sc then s.issueFault cUNCORRECTABLE_MEM
      else
        let s := (s.ensureCkpt).tlbFill s.me.asid va
        let k := if f.q = 4 ∧ s.me.replay.isEmpty then s.scTicket sc else (s, 0, 0)
        let q := f.q.toNat
        let r := k.1.enterAtomic
          { id := 0, kind := .amo, cls := f.cls, addrs := byteAddrs t.pa n, va := BitVec.ofNat 56 va, wp := t.wp,
            rel := q == 2 || q == 3 || q == 4, acq := q == 1 || q == 3 || q == 4, scope := BitVec.ofNat 3 sc,
            remote := s.remote t.pa, op := op, width := n, operand := s.aB f, expect := s.aD f, sr := op == 11,
            dst := .s f.d.toNat n (decide (op < 10)), ticket := k.2.1, tumbler := k.2.2 }
        match r.2.2 with
        | some v => r.1.land 4 1 (.s f.d.toNat v)
        | none => r.1.modMe (fun x => x.landLoad 4 1 r.2.1))

/-! ### FENCE and PROBE -/

/-- FENCE (R122, R297, R298): the release takes its implicit checkpoint and stalls until nothing is pending; the acquire
drops the clean bytes of the scope. -/
def execFence (f : AF) (s : State) : Out :=
  slotOp f.g s (fun s =>
    let mask : BitVec 16 := f.imm.setWidth 16
    let sc := fld f.imm 16 3
    let s := if f.q.getLsbD 1 then s.ensureCkpt else s
    if f.q.getLsbD 1 ∧ s.relPending s.cur s.me.nextId mask sc then s.stall 4
    else if f.q.getLsbD 0 then s.acquire sc else s)

/-- The 32 bytes of a page-fault record (R387). -/
def pfRecord (x : Context) (va : Addr) (kind : BitVec 2) : List Byte :=
  leBytes 8 va.toNat ++ leBytes 2 x.asid.toNat ++ leBytes 2 kind.toNat ++ leBytes 4 x.coord28.toNat ++
    leBytes 8 (fld x.ctxid 0 48) ++ leBytes 8 x.faultAt.toNat

/-- Whether the page-fault ring has a free slot (R407). -/
def State.pfRoom (s : State) : Bool := fld (s.reg regPFTAIL - s.reg regPFHEAD) 0 32 != 256

/-- Appends the page-fault record of context c, where the ring has room (R387). -/
def State.pfAppend (s : State) (c : Fin 4) (va : Addr) (kind : BitVec 2) : State :=
  let n := (s.reg regPFTAIL).toNat
  (s.memPut ((s.reg regPFRING).toNat + 32 * (n % 256)) (pfRecord (s.ctx c) va kind)).setReg regPFTAIL
    (BitVec.ofNat 64 ((n + 1) % 2 ^ 32))

/-- A PROBE page fault parks the current context, with its record in the ring where there is room (R387). A ring at
PFRING = 0 ends the launch (R407). -/
def State.park (s : State) (va : Addr) (kind : BitVec 2) : State :=
  if s.reg regPFRING = 0 then s.issueFault cPROBE_UNRESOLVED
  else
  let s := s.modMe (fun x => { x with faultAt := s.gtb })
  if s.pfRoom then (s.pfAppend s.cur va kind).modMe (fun x => { x with wait := .probe va kind false true })
  else s.modMe (fun x => { x with wait := .probe va kind false false })

def probeNeed (w : BitVec 2) : Need := if w = 0 then .read else if w = 1 then .write else .exec

/-- PROBE (R123, R124). It must stand in a bundle with ckpt = 1 and rep = 0. For execute, an address that the heap triple translates
answers with bit 63 set and [1:0] = 0 (DESIGN CHOICE, log 67). -/
def execProbe (f : AF) (s : State) : Out :=
  slotOp f.g s (fun s =>
    let va := (s.aA f + s.aImm f).toNat
    if s.me.repeats ∨ !s.me.hdr.getLsbD 1 ∨ 2 ^ 56 ≤ va then s.issueFault cILLEGAL_OPERAND
    else if (s.walkBad s.me.arch s.me.asid va).isSome then s.accFault cUNCORRECTABLE_MEM [va]
    else match s.translate s.me.arch s.me.asid va with
      | none => s.park (BitVec.ofNat 56 va) f.w
      | some t =>
        (s.tlbFill s.me.asid va).land 4 1
          (.s f.d.toNat (BitVec.ofNat 64 (t.size + (if t.allows (probeNeed f.w) then 0 else 2 ^ 63)))))

/-! ### Tile table (R125 to R128) -/

/-- A stall on tile state, timed from its first tick (R274). -/
def State.tileStall (s : State) : State :=
  s.modMe (fun x => { x with wait := .stall 1, stallSince := some (x.stallSince.getD s.gtb) })

/-- A tile-table instruction names a handle of the share, or faults ACCESS_PROT (R125). -/
def tileOp (f : AF) (s : State) (eff : Nat → State → State) : Out :=
  slotOp f.g s (fun s => if s.me.share.hasTile (fld f.imm 0 8) then eff (s.tileKey (fld f.imm 0 8)) s else s.issueFault cACCESS_PROT)

/-- A TDEF or TFREE takes place once: a replay after a trap passes it by (R435). -/
def State.tileOnce (s : State) (eff : State → State) : State :=
  let once := fun (x : Context) => { x with tileDone := x.tileDone + 1 }
  if s.me.tileSkip = 0 then (eff s).modMe once else s.modMe (fun x => once { x with tileSkip := x.tileSkip - 1 })

/-- The word of the call that runs keeps the tile claimed (R432). -/
def State.claimedTile (s : State) (k : Nat) : Bool := s.run.any (fun r => r.claimed.contains k)

/-- The limits of TDEF (R126). -/
def tdefOk (base shape : W64) : Bool :=
  let size := fld shape 0 24
  fld base 21 43 == 0 && base.toNat % 64 == 0 && size % 64 == 0 && size != 0 && decide (base.toNat + size ≤ 0x180000) &&
    fld shape 24 24 != 0

/-- TDEF (R126); a reserved tile makes it wait (R338), and one that a word keeps claimed (R432). -/
def execTdef (f : AF) (s : State) : Out :=
  tileOp f s (fun k s =>
    let t := s.tile k
    if !tdefOk (s.aA f) (s.aB f) then s.issueFault cILLEGAL_OPERAND
    else if s.me.tileSkip = 0 ∧ (t.state = 1 ∨ t.state = 3 ∨ t.reserved ∨ s.claimedTile k) then s.tileStall
    else s.tileOnce (fun s =>
      let tid := BitVec.ofNat 16 (fld (s.aB f) 48 16)
      ((s.dropScales t.tid).dropScales tid).setTile k
        { base := (s.aA f).toNat, size := fld (s.aB f) 0 24, expected := fld (s.aB f) 24 24, arrived := 0, tid := tid,
          owner := BitVec.ofNat 2 s.cur.val, state := 0, reserved := t.reserved }))

/-- TFREE (R127): a READY tile drains; TILE_DRAIN_COMPLETE ends it. -/
def execTfree (f : AF) (s : State) : Out :=
  tileOp f s (fun k s =>
    let t := s.tile k
    if s.me.tileSkip = 0 ∧ (t.state = 1 ∨ t.state = 3 ∨ t.reserved) then s.tileStall
    else s.tileOnce (fun s => if t.state = 0 then s else s.setTile k { t with state := 3, freeing := true, freeCtx := s.cur, freeCalls := s.me.nextOrder, freeLoads := s.me.nextId }))

/-- TSTAT (R128). -/
def execTstat (f : AF) (s : State) : Out :=
  tileOp f s (fun k s =>
    let t := s.tile k
    s.land 1 1 (.s f.d.toNat (BitVec.ofNat 64 (t.state.toNat + t.owner.toNat * 4 + t.arrived * 2 ^ 8 + t.expected * 2 ^ 32))))

/-- TDESC (R128). -/
def execTdesc (f : AF) (s : State) : Out :=
  tileOp f s (fun k s =>
    let t := s.tile k
    s.land 1 1 (.s f.d.toNat (BitVec.ofNat 64 (t.base + t.size * 2 ^ 24 + t.tid.toNat * 2 ^ 48))))

/-! ### Extraction patterns and shaper configuration -/

/-- The bits that fields 0 to nfld of a pattern take, gaps included (R35, R36). -/
def bxSpan (p : BitVec 128) : Nat :=
  (List.range (fld p 7 4 + 1)).foldl (fun n j => n + fld p (7 * j + 14) 4 + (fld p (7 * j + 11) 3 + 1)) 0

/-- A valid pattern (R35, R36, R129). -/
def bxOk (p : BitVec 128) : Bool := fld p 123 5 == 0 && decide (bxSpan p ≤ fld p 0 7 + 1)

/-- The 128-bit value whose low half is `lo`. -/
def pair128 (hi lo : W64) : BitVec 128 := hi ++ lo

/-- BFXCFG (R129): loads issued from the next tick use the new pattern. -/
def execBfxcfg (f : AF) (s : State) : Out :=
  slotOp f.g s (fun s =>
    let p := pair128 (s.aB f) (s.aA f)
    if bxOk p then s.land 1 1 (.bx f.d.toNat p) else s.issueFault cILLEGAL_OPERAND)

/-- The calls of context c that have not completed, the one that runs first (R185). -/
def State.callsOf (s : State) (c : Fin 4) : List Call :=
  (match s.run with
   | some r => if r.ctx = c then [r.call] else []
   | none => []) ++ (s.ctx c).calls

/-- Whether an uncompleted call of the current context names es register i (R56, R464). -/
def State.esBusy (s : State) (i : Nat) : Bool := (s.callsOf s.cur).any (fun k => k.ess.getLsbD i)

/-- A configuration or direct write of an es register (R56, R131). -/
def esWrite (f : AF) (s : State) (eff : State → State) : Out :=
  slotOp f.g s (fun s => if s.esBusy f.d.toNat then s.issueFault cSHAPER_BUSY else eff s)

/-- SSRCFG (R130, R45): the descriptor, with SATD and every error word at zero. -/
def execSsrcfg (f : AF) (s : State) : Out :=
  esWrite f s (fun s =>
    let d := pair128 (s.aB f) (s.aA f)
    if fld d 60 68 ≠ 0 ∨ esOwn d = 3 ∨ 8 < esFmt d then s.issueFault cILLEGAL_OPERAND
    else s.land 1 1 (.esCfg f.d.toNat (setFld d 57 1 0)))

/-- SSRCLR (R130). -/
def execSsrclr (f : AF) (s : State) : Out := esWrite f s (fun s => s.land 1 1 (.esClear f.d.toNat true))

/-- SSRCLR of SATD only (R130). -/
def execSsrclrSatd (f : AF) (s : State) : Out := esWrite f s (fun s => s.land 1 1 (.esClear f.d.toNat false))

/-- SSRRD (R130, R58): a matrix-owned register waits until no call that names it is outstanding, with an implicit
checkpoint first where one of those calls is provisional. -/
def execSsrrd (f : AF) (s : State) : Out :=
  slotOp f.g s (fun s =>
    let i := f.a.toNat
    let n := (s.aB f).toNat
    let d := s.me.arch.es i
    if 385 < n then s.issueFault cILLEGAL_OPERAND
    else if esOwn d = 2 ∧ s.esBusy i then
      (if (s.callsOf s.cur).any (fun k => k.ess.getLsbD i && !k.committed) then s.ensureCkpt else s).stall 3
    else
      let v : W64 := if n = 384 then d.setWidth 64 else if n = 385 then (d >>> 64).setWidth 64
        else (s.me.arch.esw.get (384 * i + n)).setWidth 64
      s.land 1 1 (.s f.d.toNat v))

/-- SSRWR (R130). -/
def execSsrwr (f : AF) (s : State) : Out :=
  esWrite f s (fun s =>
    let n := (s.aA f).toNat
    if 383 < n then s.issueFault cILLEGAL_OPERAND
    else s.land 1 1 (.esWord f.d.toNat n ((s.aB f).setWidth 32)))

end Sys2Proof.Machine
end

