-- ==== Sys2Proof/Machine/Tiles.lean ====
section
/-! DEFINITION. The scratchpad banks: the accumulate port (R267, R268), counted writes and the tile table (R269 to R273), and
the READY state that reads by calls and engines wait for (R197, R472). -/

namespace Sys2Proof.Machine

open Sys2Proof

/-- What a step of an engine or a call comes to: it goes through, it waits for a tile or a queue, it faults, or it meets a word whose check
fails (R428). -/
inductive Got (α : Type) where
  | got (a : α)
  | wait
  | fault (code : Byte)
  | meets (b : BadWord)
  deriving DecidableEq, Repr

/-! ### The accumulate port -/

/-- The float adds of the memory side and of the banks, FCR ignored (R119, R237, R268). -/
def addBits (m : Fmt) (r : RMode) (x y : Nat) : Nat := (m.round r false false ((m.dec false x).add false (m.dec false y)).1).1

/-- op(old, v) of ACC 1 to 5 and whether a clamp acted: 1 add.f32, 2 add.bf16, 3 add.bf16.sr, 4 add.i32, 5 add.f32.sr (R235,
R268). -/
def accOp (op : Nat) (w : W32) (old v : Nat) : Nat × Bool :=
  match op with
  | 1 => (addBits f32 .rne old v, false)
  | 2 => (addBits bf16 .rne old v, false)
  | 3 => (addBits bf16 (.sr w) old v, false)
  | 4 =>
    let r := satS 32 (toSigned 32 old + toSigned 32 v)
    (ofSigned 32 r.1, r.2)
  | 5 => (addBits f32 (.sr w) old v, false)
  | _ => (v, false)

/-! ### Covering tiles -/

/-- Whether a tile (by its key) belongs to the share of context c (R472). -/
def State.ownTile (s : State) (c : Fin 4) (k : Nat) : Bool := k / 256 == s.myX && (s.ctx c).share.hasTile (k % 256)

/-- Whether a tile belongs to a launch: some context of the launch on this core has the handle, or the tile's own core has reported
it as the launch's (R269). -/
def State.tileOfLaunch (s : State) (lid : BitVec 32) (k : Nat) : Bool :=
  if k / 256 = s.myX then
    ctxIds.any (fun d => (s.ctx d).lid == lid && decide ((s.ctx d).mode ≠ .free) && (s.ctx d).share.hasTile (k % 256))
  else (s.tile k).lid == lid

/-- The keys of the tiles that cover bytes, each once, in order; none where a byte has no covering tile that `ok` allows. -/
def State.coverAll (s : State) (ok : Nat → Bool) : List Nat → Option (List Nat)
  | [] => some []
  | b :: bs =>
    match s.covering b, s.coverAll ok bs with
    | some k, some ks => if ok k then some (if ks.contains k then ks else k :: ks) else none
    | _, _ => none

/-- A read by a call: every byte in a READY tile of the share, or in one that its word keeps claimed (R197, R432). -/
def State.readReady (s : State) (c : Fin 4) (off len : Nat) : Got (List Byte) :=
  if 0x180000 < off + len then .fault cACCESS_PROT
  else
    let key := spKey s.myX off
    match s.coverAll (s.ownTile c) (byteAddrs key len) with
    | none => .fault cACCESS_PROT
    | some ks =>
      if !ks.all (fun k => (s.tile k).state == 2 || s.claimedTile k) ∨ s.spFenced (byteAddrs key len) then .wait
      else match s.badAt .sp (byteAddrs key len) with
        | some b => .meets b
        | none => .got (s.spBytes key len)

/-! ### Counted writes -/

/-- `n` counted words arrive at a tile: the claim of an EMPTY tile, the count, READY when a FILLING tile reaches it (R269, R270,
R272). -/
def Tile.count (t : Tile) (n : Nat) : Option Tile :=
  let t := if t.state = 0 then { t with state := 1, arrived := 0 } else t
  if t.expected < t.arrived + n then none
  else some { t with arrived := t.arrived + n, state := if t.state = 1 ∧ t.arrived + n = t.expected then 2 else t.state }

/-- The words that a write counts towards tile k: those of which it writes byte 3 (R269). -/
def State.wordsIn (s : State) (k : Nat) (keys : List Nat) : Nat :=
  (keys.filter (fun b => b % 4 == 3 && s.covering b == some k)).length

/-- Counts towards the listed tiles. -/
def State.countAll (s : State) (s0 : State) (keys : List Nat) : List Nat → Option State
  | [] => some s
  | k :: ks =>
    match (s.tile k).count (s0.wordsIn k keys) with
    | some t => State.countAll (s.setTile k t) s0 keys ks
    | none => none

/-- The count of a counted write of a launch to the bytes `keys`, before the bytes change; its status where it faults (R269,
R270). -/
def State.countedOf (s : State) (lid : BitVec 32) (keys : List Nat) : Except Byte State :=
  match s.coverAll (s.tileOfLaunch lid) keys with
  | none => .error cACCESS_PROT
  | some ks =>
    match s.countAll s keys ks with
    | some s' => .ok s'
    | none => .error cILLEGAL_OPERAND

/-- The count of a counted write of context c. -/
def State.counted (s : State) (c : Fin 4) (keys : List Nat) : Except Byte State := s.countedOf (s.ctx c).lid keys

/-- A counted write by the matrix sequencer or an engine of context c: it waits while a covering tile is READY or DRAINING
(R223, R272). -/
def State.fillWrite (s : State) (c : Fin 4) (cells : List (Nat × Byte)) : Got State :=
  let keys := cells.map Prod.fst
  match s.coverAll (s.ownTile c) keys with
  | none => .fault cACCESS_PROT
  | some ks =>
    if ks.any (fun k => (s.tile k).bars) ∨ s.spFenced keys then .wait
    else match s.counted c keys with
      | .ok s' => .got (s'.spWrite cells)
      | .error e => .fault e

/-! ### Queue latches (R148, R317) -/

/-- Appends an entry to a latch of context c, visible from the tick after `due` on. -/
def Context.push (x : Context) (q : Nat) (e : QSlot) : Context :=
  { x with qs := x.qs.zipIdx.map (fun p => if p.2 = q then { p.1 with ents := p.1.ents ++ [e] } else p.1) }

def Context.qLen (x : Context) (q : Nat) : Nat := (x.qs.getD q {}).ents.length

/-- Changes latch q of a context. -/
def Context.modQ (x : Context) (q : Nat) (f : Que → Que) : Context :=
  { x with qs := x.qs.zipIdx.map (fun p => if p.2 = q then f p.1 else p.1) }

/-- The places taken in the stream that latch q feeds (R148, R349). -/
def Context.streamLen (x : Context) (q : Nat) : Nat :=
  if x.share.kind q = 1 then x.qLen q else (x.out.filter (fun p => p.q == q)).length

/-- A push of the current context to q4–q7 (R148, R178, R262, R322, R349): it faults where it feeds no consumer and blocks
while the stream is full. A loopback entry is seen from `k` ticks on; an entry for a neighbour goes on its way and into the
push log; in a replay a push that the log holds is suppressed and compared. An entry that load `tok` has still to supply holds its place
(R178). -/
def State.pushQ (s : State) (q k : Nat) (e : QEntry) (tok : Nat := 0) : State :=
  let x := s.me
  let st := x.qs.getD q {}
  if !x.share.mayPush q then s.issueFault cACCESS_PROT
  else if x.share.kind q = 1 then
    if 16 ≤ x.qLen q then s.block else s.modMe (fun x => x.push q { e := e, vis := decide (tok = 0), due := x.tick + k, tok := tok, born := x.tick })
  else if st.pushes < st.log.length then
    if tok ≠ 0 ∨ (st.log[st.pushes]?.map Pushed.e).getD e = e then s.modMe (fun x => x.modQ q (fun t => { t with pushes := t.pushes + 1 }))
    else s.issueFault cREPLAY_DIVERGED
  else if 16 ≤ x.streamLen q then s.block
  else s.modMe (fun x => { x.modQ q (fun t => { t with log := t.log ++ [{ q, e, tok }], pushes := t.pushes + 1 }) with out := x.out ++ [{ q, e, tok }] })

end Sys2Proof.Machine
end

