-- ==== Sys2Proof/Machine/Calls.lean ====
section
/-! DEFINITION. The M slot: MNOP, MCALL and MQUIET (R184 to R186, R190), what a call names (R464), and the fault of a call
(R191). -/

namespace Sys2Proof.Machine

open Sys2Proof

/-! ### What a call names (R464) -/

/-- A word of the microprogram store (R198). -/
def State.muWord (s : State) (i : Nat) : W64 := s.mu.get i
/-- A word of the epilogue store (R215). -/
def State.epWord (s : State) (i : Nat) : W32 := s.ep.get i

/-- The opcode and the imm target of a microprogram word (R199). -/
def muOp (w : W64) : Nat := fld w 0 6
def muTarget (w : W64) : Nat := fld w 40 13

/-- The words that can follow a word: none after MEND, the next one, and the target of an MLP or MBRN. -/
def muNext (w : W64) (i : Nat) : List Nat :=
  if muOp w = 13 then [] else if muOp w = 11 ∨ muOp w = 12 then [i + 1, muTarget w] else [i + 1]

/-- The reachable words, found from a list of words to visit; each visit costs one of the steps. -/
def reachable (mu : Store 64) : Nat → List Nat → List Nat → List Nat
  | 0, _, seen => seen
  | _ + 1, [], seen => seen
  | n + 1, i :: todo, seen =>
    if 8192 ≤ i ∨ seen.contains i then reachable mu n todo seen
    else reachable mu n (muNext (mu.get i) i ++ todo) (i :: seen)

/-- The first word of routine i, where the routine is present (R198). -/
def State.entryOf (s : State) (i : Nat) : Option Nat :=
  let e := s.muWord i
  if fld e 13 51 = 0 ∧ 256 ≤ fld e 0 13 then some (fld e 0 13) else none

/-- The reachable words of a routine: each of the 8,192 words is visited once and has at most two words after it. -/
def State.reach (s : State) (routine : Nat) : List W64 :=
  match s.entryOf routine with
  | some e => (reachable s.mu 24576 [e] []).map s.muWord
  | none => []

/-- The instructions of epilogue program n up to its first DONE (R464). -/
def epiUpTo (ep : Store 32) : Nat → Nat → List W32
  | 0, _ => []
  | k + 1, i => if fld (ep.get i) 0 5 = 0 then [] else ep.get i :: epiUpTo ep k (i + 1)

def State.epiProg (s : State) (n : Nat) : List W32 := epiUpTo s.ep 64 (64 * n)

/-- The epilogue program that a DRN runs (R212). -/
def drnProg (w : W64) (m7 : W64) : Nat := if fld w 15 1 = 1 then fld w 12 3 else fld m7 24 3

def bits8 (l : List Nat) : BitVec 8 := l.foldl (fun b i => b ||| BitVec.ofNat 8 (2 ^ i)) 0
def bits4 (l : List Nat) : BitVec 4 := l.foldl (fun b i => b ||| BitVec.ofNat 4 (2 ^ i)) 0

/-- The accumulator tiles of ZACC, RUN, OPRK, ACHN and DRN. -/
def accsOf (ws : List W64) : List Nat :=
  (ws.filter (fun w => muOp w == 1 || muOp w == 6 || muOp w == 7 || muOp w == 5 || muOp w == 9)).map (fun w => fld w 6 3)

/-- The epilogue instructions of every reachable DRN. -/
def State.epiOf (s : State) (ws : List W64) (m7 : W64) : List W32 :=
  (ws.filter (fun w => muOp w == 9)).flatMap (fun w => s.epiProg (drnProg w m7))

/-- es registers of ACHN, of epilogue NRW, and of WRT in mode `kb`. -/
def achnOf (ws : List W64) : List Nat := (ws.filter (fun w => muOp w == 5)).map (fun w => fld w 12 2)
def nrwOf (es : List W32) : List Nat := (es.filter (fun e => fld e 0 5 == 11)).map (fun e => fld e 17 2)
def wrtOf (es : List W32) : List Nat := (es.filter (fun e => fld e 0 5 == 14 && fld e 17 2 == 3)).map (fun e => fld e 19 2)

/-- The call that an MCALL creates (R185, R464). -/
def State.newCall (s : State) (routine : Nat) : Call :=
  let x := s.me
  let m := (List.range 8).map x.arch.rm
  let ws := s.reach routine
  let es := s.epiOf ws (nth m 7)
  { routine := BitVec.ofNat 8 routine, m, rkey := x.arch.rkey, bundle := x.arch.pc, born := x.tick, order := x.nextOrder,
    accs := bits8 (accsOf ws), ess := bits4 (achnOf ws ++ nrwOf es ++ wrtOf es), achnEs := bits4 (achnOf ws), nrwEs := bits4 (nrwOf es) }

/-! ### The M slot -/

/-- MNOP has no effect; clearing its latch is the bundle's (R81). -/
def execMnop (f : SF) (s : State) : Out := slotOp f.g s (fun s => s)

/-- Whether the launch of the current context owns the core's stores (R352). -/
def State.storeOwner (s : State) : Bool := decide (s.sched.owner = some s.me.lid)

/-- MCALL (R185, R352): it blocks while the call queue is full. -/
def execMcall (f : SF) (s : State) : Out :=
  slotOp f.g s (fun s =>
    if !s.storeOwner then s.issueFault cACCESS_PROT
    else if 4 ≤ (s.callsOf s.cur).length then s.block
    else
      let k := s.newCall (f.f 12 8)
      s.modMe (fun x => { x with calls := x.calls ++ [k], nextOrder := x.nextOrder + 1 }))

/-- MQUIET (R190): a stall until every earlier call of the context has completed, after an implicit checkpoint where one of
them is provisional. -/
def execMquiet (f : SF) (s : State) : Out :=
  slotOp f.g s (fun s =>
    let ks := s.callsOf s.cur
    if ks.isEmpty then s else (if ks.any (fun k => !k.committed) then s.ensureCkpt else s).stall 3)

/-! ### The running call -/

/-- A fault of the running call: the launch ends, with the call's identity (R191). -/
def State.callFault (s : State) (r : CallRun) (code : Byte) : State :=
  { s.fatal r.ctx code r.call.bundle (callIdent r.call.routine r.word) with run := none }

/-- The running call reads a word whose check fails: it faults (R428). -/
def State.callMeets (s : State) (r : CallRun) (b : BadWord) : State := (s.meets b (s.ctx r.ctx).lid).callFault r cUNCORRECTABLE_MEM

/-- Goes on at the next word. -/
def State.nextWord (s : State) (r : CallRun) : State := { s with run := some { r with word := r.word + 1, stallSince := none, mismatch := 0, claimed := [] } }

/-- The shape of every microprogram word's meaning (R191, R199, R200): nothing where no call runs or an epilogue program has
begun; a nonzero zero field or a reserved code faults; a wait on a tile state is timed from its start (R274). -/
def wordOp (i : Instr) (s : State) (eff : CallRun → Got State) : Out :=
  match s.run with
  | none => .next s
  | some r =>
    if r.epi.isSome ∨ r.ended then .next s
    else if !operandsOk i then .next (s.callFault r cILLEGAL_OPERAND)
    else match eff r with
      | .got s' => .next s'
      | .wait => .next { s with run := some { r with stallSince := some (r.stallSince.getD s.gtb) } }
      | .fault c => .next (s.callFault r c)
      | .meets b => .next (s.callMeets r b)

/-- The context whose call runs. -/
def State.callCtx (s : State) (r : CallRun) : Context := s.ctx r.ctx

/-- Parameter register p of the running call. -/
def CallRun.pr (r : CallRun) (i : Nat) : W64 := nth r.p i

/-- imm of a microprogram word, sign-extended (R201). -/
def immP (imm : BitVec 24) : W64 := imm.signExtend 64

/-- An accumulator tile of the share, or ACCESS_PROT (R191). -/
def accTile (s : State) (r : CallRun) (t : Nat) (eff : Got State) : Got State :=
  if (s.callCtx r).share.hasAcc t then eff else .fault cACCESS_PROT

/-! ### Accumulator words -/

def accIdx (t row col : Nat) : Nat := (t * 128 + row) * 128 + col

/-- The 128 words of one accumulator row. -/
def State.accRow (s : State) (t row : Nat) : List W32 := (List.range 128).map (fun n => s.acc.get (accIdx t row n))

/-- The failing words that remain when accumulator words are written: each is written whole (R428). -/
def State.accMended (s : State) (a n : Nat) : List BadWord := s.mended .acc (List.range' a n)

def State.putAccRow (s : State) (t row : Nat) (ws : List W32) : State :=
  { s with acc := s.acc.putList (accIdx t row 0) (ws.take 128), bad := s.accMended (accIdx t row 0) (ws.take 128).length }

/-- A call reads `n` accumulator rows: it faults where a word of them fails its check (R428). -/
def State.accReads {α : Type} (s : State) (t row n : Nat) (eff : Got α) : Got α :=
  match s.badAt .acc (List.range' (accIdx t row 0) (128 * n)) with
  | some b => .meets b
  | none => eff

end Sys2Proof.Machine
end

