-- ==== Sys2Proof/Machine/Special.lean ====
section
/-! DEFINITION. The special functions EXP2, LOG2, RCP and RSQ by the fixed algorithms of R163, and the table interpolation
of R221. The table entries are the `rne32` of the exact values R163 names, worked out from it with exact arithmetic. -/

namespace Sys2Proof.Machine

def exp2Tab0 : List Nat :=
  [0x3F800000, 0x3F8164D2, 0x3F82CD87, 0x3F843A29, 0x3F85AAC3, 0x3F871F62, 0x3F88980F, 0x3F8A14D5,
   0x3F8B95C2, 0x3F8D1ADF, 0x3F8EA43A, 0x3F9031DC, 0x3F91C3D3, 0x3F935A2B, 0x3F94F4F0, 0x3F96942D]
def exp2Tab1 : List Nat :=
  [0x3F9837F0, 0x3F99E046, 0x3F9B8D3A, 0x3F9D3EDA, 0x3F9EF532, 0x3FA0B051, 0x3FA27043, 0x3FA43516,
   0x3FA5FED7, 0x3FA7CD94, 0x3FA9A15B, 0x3FAB7A3A, 0x3FAD583F, 0x3FAF3B79, 0x3FB123F6, 0x3FB311C4]
def exp2Tab2 : List Nat :=
  [0x3FB504F3, 0x3FB6FD92, 0x3FB8FBAF, 0x3FBAFF5B, 0x3FBD08A4, 0x3FBF179A, 0x3FC12C4D, 0x3FC346CD,
   0x3FC5672A, 0x3FC78D75, 0x3FC9B9BE, 0x3FCBEC15, 0x3FCE248C, 0x3FD06334, 0x3FD2A81E, 0x3FD4F35B]
def exp2Tab3 : List Nat :=
  [0x3FD744FD, 0x3FD99D16, 0x3FDBFBB8, 0x3FDE60F5, 0x3FE0CCDF, 0x3FE33F89, 0x3FE5B907, 0x3FE8396A,
   0x3FEAC0C7, 0x3FED4F30, 0x3FEFE4BA, 0x3FF28177, 0x3FF5257D, 0x3FF7D0DF, 0x3FFA83B3, 0x3FFD3E0C]
/-- T[j] = rne32(2^(j/64)), j in 0..63 (R163). -/
def exp2Tab : List Nat := exp2Tab0 ++ exp2Tab1 ++ exp2Tab2 ++ exp2Tab3

def log2Rc0 : List Nat :=
  [0x3F7E03F8, 0x3F7A232D, 0x3F76603E, 0x3F72B9D6, 0x3F6F2EB7, 0x3F6BBDB3, 0x3F6865AC, 0x3F652598,
   0x3F61FC78, 0x3F5EE95C, 0x3F5BEB62, 0x3F5901B2, 0x3F562B81, 0x3F53680D, 0x3F50B6A0, 0x3F4E168A]
def log2Rc1 : List Nat :=
  [0x3F4B8728, 0x3F4907DA, 0x3F46980C, 0x3F443730, 0x3F41E4BC, 0x3F3FA030, 0x3F3D6910, 0x3F3B3EE7,
   0x3F392144, 0x3F370FBB, 0x3F3509E7, 0x3F330F63, 0x3F311FD4, 0x3F2F3ADE, 0x3F2D602B, 0x3F2B8F6A]
def log2Rc2 : List Nat :=
  [0x3F29C84A, 0x3F280A81, 0x3F2655C4, 0x3F24A9CF, 0x3F23065E, 0x3F216B31, 0x3F1FD80A, 0x3F1E4CAD,
   0x3F1CC8E1, 0x3F1B4C70, 0x3F19D723, 0x3F1868C8, 0x3F17012E, 0x3F15A025, 0x3F144581, 0x3F12F114]
def log2Rc3 : List Nat :=
  [0x3F11A2B4, 0x3F105A38, 0x3F0F177A, 0x3F0DDA52, 0x3F0CA29C, 0x3F0B7034, 0x3F0A42F8, 0x3F091AC7,
   0x3F07F781, 0x3F06D905, 0x3F05BF37, 0x3F04A9FA, 0x3F039930, 0x3F028CC0, 0x3F01848E, 0x3F008081]
/-- Rc[j] = rne32(1/c), c = 1 + j/64 + 1/128 (R163). -/
def log2Rc : List Nat := log2Rc0 ++ log2Rc1 ++ log2Rc2 ++ log2Rc3

def log2Lc0 : List Nat :=
  [0x3C37F286, 0x3D08E68F, 0x3D626FD6, 0x3D9D517F, 0x3DC8C50B, 0x3DF39761, 0x3E0EE68D, 0x3E23B550,
   0x3E383A17, 0x3E4C76E8, 0x3E606DB6, 0x3E74205F, 0x3E83C857, 0x3E8D602E, 0x3E96D888, 0x3EA03232]
def log2Lc1 : List Nat :=
  [0x3EA96DF0, 0x3EB28C7F, 0x3EBB8E96, 0x3EC474E4, 0x3ECD4012, 0x3ED5F0C4, 0x3EDE8797, 0x3EE70525,
   0x3EEF69FF, 0x3EF7B6B4, 0x3EFFEBCD, 0x3F0404E8, 0x3F08089E, 0x3F0C0146, 0x3F0FEF1F, 0x3F13D260]
def log2Lc2 : List Nat :=
  [0x3F17AB44, 0x3F1B7A00, 0x3F1F3ECA, 0x3F22F9D5, 0x3F26AB53, 0x3F2A5374, 0x3F2DF268, 0x3F31885C,
   0x3F35157D, 0x3F3899F5, 0x3F3C15EE, 0x3F3F8991, 0x3F42F506, 0x3F465872, 0x3F49B3FB, 0x3F4D07C7]
def log2Lc3 : List Nat :=
  [0x3F5053F7, 0x3F5398AF, 0x3F56D60F, 0x3F5A0C3A, 0x3F5D3B4E, 0x3F60636A, 0x3F6384AD, 0x3F669F35,
   0x3F69B31E, 0x3F6CC083, 0x3F6FC781, 0x3F72C832, 0x3F75C2B0, 0x3F78B714, 0x3F7BA578, 0x3F7E8DF2]
/-- Lc[j] = rne32(log2 c) (R163). -/
def log2Lc : List Nat := log2Lc0 ++ log2Lc1 ++ log2Lc2 ++ log2Lc3

def rcpTab0 : List Nat :=
  [0x3F7F00FF, 0x3F7D08E5, 0x3F7B1885, 0x3F792FB2, 0x3F774E40, 0x3F757404, 0x3F73A0D5, 0x3F71D48C,
   0x3F700F01, 0x3F6E500F, 0x3F6C9791, 0x3F6AE564, 0x3F693965, 0x3F679373, 0x3F65F36D, 0x3F645933]
def rcpTab1 : List Nat :=
  [0x3F62C4A7, 0x3F6135AA, 0x3F5FAC1F, 0x3F5E27EB, 0x3F5CA8F1, 0x3F5B2F17, 0x3F59BA42, 0x3F584A5A,
   0x3F56DF44, 0x3F5578E9, 0x3F541733, 0x3F52BA08, 0x3F516154, 0x3F500D01, 0x3F4EBCF9, 0x3F4D7127]
def rcpTab2 : List Nat :=
  [0x3F4C2978, 0x3F4AE5D8, 0x3F49A634, 0x3F486A79, 0x3F473294, 0x3F45FE74, 0x3F44CE08, 0x3F43A13E,
   0x3F427806, 0x3F415250, 0x3F40300C, 0x3F3F112B, 0x3F3DF59D, 0x3F3CDD53, 0x3F3BC841, 0x3F3AB656]
def rcpTab3 : List Nat :=
  [0x3F39A786, 0x3F389BC3, 0x3F379301, 0x3F368D31, 0x3F358A48, 0x3F348A3A, 0x3F338CFA, 0x3F32927C,
   0x3F319AB6, 0x3F30A59B, 0x3F2FB322, 0x3F2EC33E, 0x3F2DD5E6, 0x3F2CEB10, 0x3F2C02B0, 0x3F2B1CBE]
def rcpTab4 : List Nat :=
  [0x3F2A392F, 0x3F2957FB, 0x3F287917, 0x3F279C7B, 0x3F26C21E, 0x3F25E9F7, 0x3F2513FD, 0x3F244029,
   0x3F236E72, 0x3F229ECF, 0x3F21D13A, 0x3F2105A9, 0x3F203C17, 0x3F1F747A, 0x3F1EAECD, 0x3F1DEB07]
def rcpTab5 : List Nat :=
  [0x3F1D2922, 0x3F1C6917, 0x3F1BAADF, 0x3F1AEE73, 0x3F1A33CD, 0x3F197AE7, 0x3F18C3BB, 0x3F180E41,
   0x3F175A75, 0x3F16A850, 0x3F15F7CC, 0x3F1548E5, 0x3F149B93, 0x3F13EFD2, 0x3F13459C, 0x3F129CEC]
def rcpTab6 : List Nat :=
  [0x3F11F5BD, 0x3F115009, 0x3F10ABCC, 0x3F100901, 0x3F0F67A2, 0x3F0EC7AB, 0x3F0E2918, 0x3F0D8BE3,
   0x3F0CF009, 0x3F0C5584, 0x3F0BBC51, 0x3F0B246B, 0x3F0A8DCD, 0x3F09F874, 0x3F09645C, 0x3F08D181]
def rcpTab7 : List Nat :=
  [0x3F083FDE, 0x3F07AF70, 0x3F072033, 0x3F069223, 0x3F06053C, 0x3F05797C, 0x3F04EEDD, 0x3F04655E,
   0x3F03DCF9, 0x3F0355AD, 0x3F02CF75, 0x3F024A4E, 0x3F01C636, 0x3F014328, 0x3F00C122, 0x3F004020]
/-- rne32(1 / (1 + j/128 + 1/256)), j in 0..127 (R163). -/
def rcpTab : List Nat := rcpTab0 ++ rcpTab1 ++ rcpTab2 ++ rcpTab3 ++ rcpTab4 ++ rcpTab5 ++ rcpTab6 ++ rcpTab7

def rsqTab0 : List Nat :=
  [0x3F7E05EC, 0x3F7A33F9, 0x3F768CDC, 0x3F730D8A, 0x3F6FB345, 0x3F6C7B90, 0x3F69642A, 0x3F666B02,
   0x3F638E39, 0x3F60CC16, 0x3F5E2305, 0x3F5B9193, 0x3F59166B, 0x3F56B051, 0x3F545E22, 0x3F521ED0]
def rsqTab1 : List Nat :=
  [0x3F4FF162, 0x3F4DD4ED, 0x3F4BC89B, 0x3F49CBA2, 0x3F47DD45, 0x3F45FCD6, 0x3F4429AF, 0x3F426337,
   0x3F40A8DE, 0x3F3EFA1C, 0x3F3D5671, 0x3F3BBD67, 0x3F3A2E8C, 0x3F38A975, 0x3F372DBF, 0x3F35BB09]
def rsqTab2 : List Nat :=
  [0x3F3450FC, 0x3F32EF41, 0x3F319589, 0x3F304387, 0x3F2EF8F2, 0x3F2DB587, 0x3F2C7904, 0x3F2B432A,
   0x3F2A13C0, 0x3F28EA8C, 0x3F27C759, 0x3F26A9F4, 0x3F25922C, 0x3F247FD3, 0x3F2372BD, 0x3F226ABE]
def rsqTab3 : List Nat :=
  [0x3F2167AF, 0x3F206968, 0x3F1F6FC4, 0x3F1E7AA0, 0x3F1D89D9, 0x3F1C9D4E, 0x3F1BB4E1, 0x3F1AD073,
   0x3F19EFE6, 0x3F191320, 0x3F183A05, 0x3F17647C, 0x3F16926C, 0x3F15C3BC, 0x3F14F857, 0x3F143026]
def rsqTab4 : List Nat :=
  [0x3F136B13, 0x3F12A90B, 0x3F11E9F9, 0x3F112DCA, 0x3F10746D, 0x3F0FBDCE, 0x3F0F09DD, 0x3F0E5889,
   0x3F0DA9C2, 0x3F0CFD79, 0x3F0C539F, 0x3F0BAC25, 0x3F0B06FD, 0x3F0A641A, 0x3F09C36D, 0x3F0924EC]
def rsqTab5 : List Nat :=
  [0x3F088889, 0x3F07EE37, 0x3F0755ED, 0x3F06BF9E, 0x3F062B40, 0x3F0598C7, 0x3F05082A, 0x3F04795F,
   0x3F03EC5C, 0x3F036117, 0x3F02D788, 0x3F024FA6, 0x3F01C967, 0x3F0144C4, 0x3F00C1B4, 0x3F004030]
/-- rne32(1 / sqrt(1 + (j + 0.5)/32)), j in 0..95 (R163). -/
def rsqTab : List Nat := rsqTab0 ++ rsqTab1 ++ rsqTab2 ++ rsqTab3 ++ rsqTab4 ++ rsqTab5

/-- Entry `j` of a table, as an FP32 pattern. -/
def tabAt (t : List Nat) (j : Nat) : W32 := BitVec.ofNat 32 (t.getD j 0)

/-- C1, C2, C3 of EXP2 and D1, D2, D3 of LOG2 (R163). -/
def exp2C1 : W32 := 0x3F317218
def exp2C2 : W32 := 0x3E75FDF0
def exp2C3 : W32 := 0x3D635847
def log2D1 : W32 := 0x3FB8AA3B
def log2D2 : W32 := 0xBF38AA3B
def log2D3 : W32 := 0x3EF6384F

/-- The pattern of a value that FP32 holds exactly. -/
def pat32 (v : FV) : W32 := rne32 v

/-- A final result of a special function: a rounded value with FTZ applied; NX outside the exact cases, and in them no flag but
those of a flush (R20, R163). -/
def specialEnd (ftz exact : Bool) (v : FV) : W32 × BitVec 6 :=
  let r := f32.round .rne false ftz v
  let flushed := r.1 != (f32.round .rne false false v).1
  (BitVec.ofNat 32 r.1, if exact then (if flushed then fUF ||| fNX else 0) else r.2 ||| fNX)

/-- Whether mag is a power of two. -/
def isPow2 (mag : Nat) : Bool := decide (mag = 2 ^ Nat.log2 mag)

/-- EXP2 on the value read after DAZ (R163). -/
def exp2V (ftz : Bool) : FV → W32 × BitVec 6
  | .nan => (0x7FC00000, 0)
  | .inf true => (0, fUF ||| fNX)
  | .inf false => (0x7F800000, fOF ||| fNX)
  | .fin neg mag exp =>
    let x : FV := .fin neg mag exp
    if 0 ≤ x.cmp (FV.ofInt 128) then (0x7F800000, fOF ||| fNX)
    else if x.cmp (FV.ofInt (-150)) < 0 then (0, fUF ||| fNX)
    else
      let n := floorI neg mag exp
      let f := (x.add false (FV.ofInt (-n))).1
      let f64 := match f with | .fin _ m e => floorI false m (e + 6) | _ => 0
      let r := (f.add false ((FV.ofInt (-f64)).scale (-6))).1
      let t := tabAt exp2Tab f64.toNat
      let q := (fma32V (dec32 exp2C3) r (dec32 exp2C2)).1
      let q := (fma32V (dec32 q) r (dec32 exp2C1)).1
      let q := rne32 ((dec32 q).mul r).1
      let z := fma32 t q t
      let exact := (f.cmp (FV.ofInt 0) == 0) && decide (-149 ≤ n) && decide (n ≤ 127)
      specialEnd ftz exact ((dec32 z).scale n)

/-- LOG2 on the value read after DAZ; a NaN operand sets NV, as the table of R163 says (log 8). -/
def log2V (ftz : Bool) : FV → W32 × BitVec 6
  | .nan => (0x7FC00000, fNV)
  | .inf true => (0x7FC00000, fNV)
  | .inf false => (0x7F800000, 0)
  | .fin neg mag exp =>
    if mag = 0 then (0xFF800000, 0)
    else if neg then (0x7FC00000, fNV)
    else
      let e := leadExp mag exp
      let m : FV := .fin false mag (exp - e)
      let m24 := mag * 2 ^ (23 - Nat.log2 mag)
      let j := nfld m24 17 6
      let m32 := pat32 m
      let t := fma32 m32 (tabAt log2Rc j) (0xBF800000#32)
      let p := fma32 log2D3 t log2D2
      let p := fma32 p t log2D1
      let s := (mul32 p t).1
      let b := rne32 ((FV.ofInt e).add false (dec32 (tabAt log2Lc j))).1
      specialEnd ftz (isPow2 mag) ((dec32 b).add false (dec32 s)).1

/-- The two Newton steps of RCP from the table value. -/
def rcpStep (m y : W32) : W32 :=
  let d := fma32 (m ^^^ 0x80000000#32) y 0x3F800000#32
  fma32 y d y

/-- RCP on the value read after DAZ (R163). -/
def rcpV (ftz : Bool) : FV → W32 × BitVec 6
  | .nan => (0x7FC00000, 0)
  | .inf neg => (if neg then 0x80000000 else 0, 0)
  | .fin neg mag exp =>
    if mag = 0 then (if neg then 0xFF800000 else 0x7F800000, 0)
    else
      let e := leadExp mag exp
      let m24 := mag * 2 ^ (23 - Nat.log2 mag)
      let j := nfld m24 16 7
      let m32 := pat32 (.fin false mag (exp - e))
      let y := rcpStep m32 (rcpStep m32 (tabAt rcpTab j))
      let v := (dec32 y).scale (-e)
      let exact := isPow2 mag && decide (-126 ≤ e) && decide (e ≤ 126)
      specialEnd ftz exact (if neg then v.neg else v)

/-- One Newton step of RSQ. -/
def rsqStep (m y : W32) : W32 :=
  let t := (mul32 y y).1
  let d := fma32 (m ^^^ 0x80000000#32) t 0x3F800000#32
  fma32 (mul32 y 0x3F000000#32).1 d y

/-- RSQ on the value read after DAZ; a NaN operand sets NV, as the table of R163 says (log 8). -/
def rsqV (ftz : Bool) : FV → W32 × BitVec 6
  | .nan => (0x7FC00000, fNV)
  | .inf true => (0x7FC00000, fNV)
  | .inf false => (0, 0)
  | .fin neg mag exp =>
    if mag = 0 then (if neg then 0xFF800000 else 0x7F800000, 0)
    else if neg then (0x7FC00000, fNV)
    else
      let e0 := leadExp mag exp
      let odd := decide (e0 % 2 ≠ 0)
      let e := if odd then e0 - 1 else e0
      let m24 := mag * 2 ^ (23 - Nat.log2 mag) * (if odd then 2 else 1)
      let j := (m24 - 2 ^ 23) / 2 ^ 18
      let m32 := pat32 (.fin false mag (exp - e))
      let y := rsqStep m32 (rsqStep m32 (tabAt rsqTab j))
      specialEnd ftz (isPow2 mag && !odd) ((dec32 y).scale (-(e / 2)))

/-- The special functions on an FP32 lane: input after DAZ, FTZ on the result (R163). -/
def exp2F (daz ftz : Bool) (x : W32) : W32 × BitVec 6 := exp2V ftz (f32.dec daz x.toNat)
def log2F (daz ftz : Bool) (x : W32) : W32 × BitVec 6 := log2V ftz (f32.dec daz x.toNat)
def rcpF (daz ftz : Bool) (x : W32) : W32 × BitVec 6 := rcpV ftz (f32.dec daz x.toNat)
def rsqF (daz ftz : Bool) (x : W32) : W32 × BitVec 6 := rsqV ftz (f32.dec daz x.toNat)

/-- A pattern with any NaN made canonical (R19). -/
def canon32 (a : W32) : W32 := if (dec32 a).isNan then 0x7FC00000 else a

/-- TBL: interpolation in the 64 FP32 words of a table program, a NaN knot giving the canonical NaN (R19, R221). For t = −0 the fraction
fr is +0 (DESIGN CHOICE, log 68). -/
def tblV (t : List W32) (a : W32) : W32 × BitVec 6 :=
  let lo := nth t 0
  let h := nth t 1
  let d := add32 a (lo ^^^ 0x80000000#32)
  let m := mul32 d.1 h
  let fl := d.2 ||| m.2
  let v (i : Nat) : W32 := nth t (2 + i)
  match dec32 m.1 with
  | .nan => (0x7FC00000, fl)
  | .inf true => (canon32 (v 0), fl)
  | .inf false => (canon32 (v 61), fl)
  | .fin neg mag exp =>
    let x : FV := .fin neg mag exp
    if x.cmp (FV.ofInt 0) < 0 then (canon32 (v 0), fl)
    else if 0 ≤ x.cmp (FV.ofInt 61) then (canon32 (v 61), fl)
    else
      let i := floorI neg mag exp
      let fr := (x.add false (FV.ofInt (-i))).1
      let dv := add32 (v (i.toNat + 1)) (v i.toNat ^^^ 0x80000000#32)
      let r := fma32V fr (dec32 dv.1) (dec32 (v i.toNat))
      (r.1, fl ||| dv.2 ||| r.2)

end Sys2Proof.Machine
end

