-- ==== Sys2Proof/Machine/Triads.lean ====
section
/-! DEFINITION. The units of a triad (R147 to R163): α, β and γ of one lane group, each on the chained value and its own
source. The three instructions of a triad run in that order within the tick; `State.casc` carries the chained value. -/

namespace Sys2Proof.Machine

open Sys2Proof

/-! ### Sources, results -/

/-- The constant table (R151). -/
def constTab : List W32 :=
  [0x3F800000, 0x3F000000, 0x40000000, 0xBF800000, 0x3F317218, 0x3FB8AA3B, 0x7F800000, 0xFF800000, 0x7F7FFFFF, 0x43E00000,
   0x47600000, 1, 2, 3, 0x7FFFFFFF, 0x80000000, 0xFFFFFFFF, 0x3F803F80]

/-- The 16 lanes of a triad source (R97). -/
def State.triadSrc (s : State) (g code : Nat) : List W32 :=
  let a := s.me.arch
  if code < 32 then a.rvs g code
  else if code < 40 then (s.me.qLanes (code - 32) g).getD (List.replicate 16 0)
  else if code < 43 then a.rvs g (code - 8)
  else if code = 43 then (List.range 16).map (BitVec.ofNat 32)
  else if code = 44 then List.replicate 16 (BitVec.ofNat 32 g)
  else if code = 45 then List.replicate 16 0
  else List.replicate 16 (nth constTab (code - 46))

/-- A source that is a queue head needs an entry of a latch of the share (R65, R147). -/
def State.needSrc (s : State) (code : Nat) (go : State) : State :=
  if 32 ≤ code ∧ code < 40 then s.needQ (code - 32) go else go

/-- The unit's place in the cascade. -/
def unitIdx (f : TF) : Nat :=
  match f.pos with
  | .alpha => 0
  | .beta => 1
  | .gamma => 2

/-- The unit's own source field (R98). -/
def ownSrc (f : TF) : Nat :=
  match f.pos with
  | .alpha => f.srcB.toNat
  | .beta => f.srcC.toNat
  | .gamma => f.srcD.toNat

def triadPos (f : TF) : Nat := 7 + f.grp.toNat

def cascIdx (g u l : Nat) : Nat := (g * 3 + u) * 16 + l

/-- The chained value that unit `u` of group `g` has given in this tick. -/
def State.chained (s : State) (g u : Nat) : List W32 := (List.range 16).map (fun l => s.casc.get (cascIdx g u l))

/-- The write mask of the triad (R142). -/
def State.triadMask (s : State) (f : TF) : BitVec 16 := s.me.arch.kgrp f.k.toNat f.grp.toNat

/-- The chained input of the unit: srcA for α (R98). -/
def State.unitIn (s : State) (f : TF) : List W32 :=
  match f.pos with
  | .alpha => s.triadSrc f.grp.toNat f.srcA.toNat
  | .beta => s.chained f.grp.toNat 0
  | .gamma => s.chained f.grp.toNat 1

/-- The flags of the lanes in the write mask (R149). -/
def maskFlags (m : BitVec 16) (outs : List (W32 × BitVec 6)) : BitVec 6 :=
  outs.zipIdx.foldl (fun f p => if m.getLsbD p.2 then f ||| p.1.2 else f) 0

/-- The bits of k that a triad result sets: c ≠ 0 in each lane of the mask (R147). -/
def nonzeroBits (outs : List W32) : BitVec 16 :=
  outs.zipIdx.foldl (fun b p => if p.1 = 0 then b else b ||| BitVec.ofNat 16 (2 ^ p.2)) 0

/-- Where γ's result goes: a v register, a k register, a queue, nowhere (R97, R147, R148). -/
def State.triadDest (s : State) (f : TF) (m : BitVec 16) (xs : List W32) (fl : BitVec 6) : State :=
  let g := f.grp.toNat
  let d := f.dest.toNat
  if d < 32 then s.land 3 (triadPos f) (.v g d m xs) fl
  else if d < 48 then
    s.land 3 (triadPos f) (.k (d - 32) ((m.setWidth 128) <<< (16 * g)) (((nonzeroBits xs).setWidth 128) <<< (16 * g))) fl
  else if d < 52 then
    (s.land 3 (triadPos f) .nothing fl).pushQ (d - 44) 3 ⟨m, xs.zipIdx.map (fun p => if m.getLsbD p.2 then p.1 else 0)⟩
  else s.land 3 (triadPos f) .nothing fl

/-- A unit's result: the chained value, the bypass register in all 16 lanes from the next tick (R66), the flags of the lanes
in the write mask at the due tick (R149), and for γ the destination. -/
def State.unitOut (s : State) (f : TF) (outs : List (W32 × BitVec 6)) : State :=
  let g := f.grp.toNat
  let xs := outs.map Prod.fst
  let m := s.triadMask f
  let fl := maskFlags m outs
  let s := { s with casc := s.casc.putList (cascIdx g (unitIdx f) 0) xs }
  let s := s.land 1 (triadPos f) (.v g (32 + unitIdx f) 0xFFFF xs)
  match f.pos with
  | .gamma => s.triadDest f m xs fl
  | _ => s.land 3 (triadPos f) .nothing fl

/-- The shape of every unit: the guard; srcA for α and the own source for a unit that is not NONE must have their entries;
then the 16 results. -/
def unitOp (f : TF) (s : State) (reads rnd : Bool) (op : State → List W32 → List W32 → List (W32 × BitVec 6)) : Out :=
  slotOp f.g s (fun s =>
    let go := s.unitOut f (op s (s.unitIn f) (s.triadSrc f.grp.toNat (ownSrc f)))
    let go := s.needRnd rnd (if reads then s.needSrc (ownSrc f) go else go)
    match f.pos with
    | .alpha => s.needSrc f.srcA.toNat go
    | _ => go)

/-- A unit whose result in a lane depends on the lane's two values alone. -/
def laneOp (f : TF) (s : State) (op : W32 → W32 → W32 × BitVec 6) : Out :=
  unitOp f s true false (fun _ xs ys => List.zipWith op xs ys)

/-- NONE passes its input on and reads no source of its own (R98, R147). -/
def execUnitNone (f : TF) (s : State) : Out := unitOp f s false false (fun _ xs _ => xs.map (fun x => (x, 0)))

/-! ### Subelements (R150) -/

/-- The width of the subelements of a lane type. -/
def typeWidth (t : Nat) : Nat := if t = 0 ∨ t = 3 then 32 else if t = 1 ∨ t = 4 ∨ t = 5 then 16 else 8

/-- The float format of a lane type. -/
def typeFmt (t : Nat) : Option Fmt :=
  match t with
  | 3 => some f32
  | 4 => some bf16
  | 5 => some f16
  | 6 => some e4m3
  | 7 => some e5m2
  | _ => none

/-- An operation on each subelement of width w, with its index. -/
def mapSub (w : Nat) (op : Nat → Nat → Nat → Nat × BitVec 6) (x y : W32) : W32 × BitVec 6 :=
  (List.range (32 / w)).foldl
    (fun (r : W32 × BitVec 6) j =>
      let o := op j (fld x (w * j) w) (fld y (w * j) w)
      (r.1 ||| BitVec.ofNat 32 (o.1 % 2 ^ w * 2 ^ (w * j)), r.2 ||| o.2))
    (0, 0)

/-! ### Integer and bitwise operations (R152) -/

def intOp (f : TF) (s : State) (op : Nat → Nat → Nat → Nat) : Out :=
  let w := typeWidth f.typeAt
  laneOp f s (mapSub w (fun _ a b => (op w a b, 0)))

def execIadd (f : TF) (s : State) : Out := intOp f s (fun _ a b => a + b)
def execIsub (f : TF) (s : State) : Out := intOp f s (fun w a b => a + (2 ^ w - b))
def execImul (f : TF) (s : State) : Out := intOp f s (fun _ a b => a * b)
def execImulh (f : TF) (s : State) : Out :=
  intOp f s (fun w a b => ofSigned w (toSigned w a * toSigned w b / ((2 ^ w : Nat) : Int)))
def execTriadAnd (f : TF) (s : State) : Out := intOp f s (fun _ a b => a &&& b)
def execTriadOr (f : TF) (s : State) : Out := intOp f s (fun _ a b => a ||| b)
def execTriadXor (f : TF) (s : State) : Out := intOp f s (fun _ a b => a ^^^ b)
def execTriadShl (f : TF) (s : State) : Out := intOp f s (fun w a b => a * 2 ^ (b % w))
def execTriadShr (f : TF) (s : State) : Out := intOp f s (fun w a b => a / 2 ^ (b % w))
def execTriadSra (f : TF) (s : State) : Out :=
  intOp f s (fun w a b => ofSigned w (toSigned w a / ((2 ^ (b % w) : Nat) : Int)))
def execImin (f : TF) (s : State) : Out := intOp f s (fun w a b => if toSigned w b < toSigned w a then b else a)
def execImax (f : TF) (s : State) : Out := intOp f s (fun w a b => if toSigned w a < toSigned w b then b else a)

/-- |x| of a W-bit integer; −2^(W−1) gives 2^(W−1) − 1 with SAT (R152). -/
def absInt (w a : Nat) : Nat × BitVec 6 :=
  let v := toSigned w a
  if v = -((2 ^ (w - 1) : Nat) : Int) then (2 ^ (w - 1) - 1, fSAT) else (v.natAbs, 0)

/-- |x| of a float, read after DAZ and flushed by FTZ; no flag (R153). -/
def absFlt (m : Fmt) (daz ftz : Bool) (a : Nat) : Nat := (m.round .rtz false ftz (m.dec daz a).abs).1

/-- ABS (R152, R153): y is read and ignored. -/
def execTriadAbs (f : TF) (s : State) : Out :=
  let t := f.typeAt
  let c := s.me.arch.fctl
  laneOp f s (mapSub (typeWidth t) (fun _ a _ => match typeFmt t with
    | some m => (absFlt m c.daz c.ftz a, 0)
    | none => absInt (typeWidth t) a))

/-! ### Float operations (R153, R465) -/

/-- The random word of lane l of the group for subelement j: rotated left by 16j (R465). -/
def State.laneRnd (s : State) (f : TF) (l j : Nat) : W32 := (s.rnd (16 * f.grp.toNat + l)).rotateLeft (16 * j)

/-- A float unit that rounds by default: with its lane's random word under SRD. -/
def fltOp (f : TF) (s : State) (op : Fmt → FCtl → W32 → Nat → Nat → Nat × BitVec 6) : Out :=
  let t := f.typeAt
  let c := s.me.arch.fctl
  match typeFmt t with
  | none => unitOp f s true false (fun _ xs _ => xs.map (fun x => (x, 0)))
  | some m =>
    unitOp f s true c.srd (fun s xs ys =>
      (xs.zip ys).zipIdx.map (fun p => mapSub (typeWidth t) (fun j a b => op m c (s.laneRnd f p.2 j) a b) p.1.1 p.1.2))

/-- The fused γ: round(P ± y) with P the exact product of β's input and srcC; the flags of the whole operation (R153). -/
def fusedOp (f : TF) (s : State) (sub : Bool) : Out :=
  let t := f.typeAt
  let c := s.me.arch.fctl
  match typeFmt t with
  | none => unitOp f s true false (fun _ xs _ => xs.map (fun x => (x, 0)))
  | some m =>
    unitOp f s true c.srd (fun s _ ys =>
      let as := s.chained f.grp.toNat 0
      let bs := s.triadSrc f.grp.toNat f.srcC.toNat
      ((as.zip bs).zip ys).zipIdx.map (fun p =>
        let l := p.2
        let y := p.1.2
        mapSub (typeWidth t) (fun j a b =>
          let pr := (m.dec c.daz a).mul (m.dec c.daz b)
          let d := m.dec c.daz (fld y (typeWidth t * j) (typeWidth t))
          let q := pr.1.add c.zneg (if sub then d.neg else d)
          let r := m.round (c.deflt (s.laneRnd f l j)) c.satn c.ftz q.1
          (r.1, d.productFlags pr.2 ||| q.2 ||| r.2)) p.1.1.1 p.1.1.2))

/-- Whether the unit is the γ of a fused cascade. -/
def fusedHere (f : TF) : Bool := f.fuse && decide (f.pos = .gamma)

def execFadd (f : TF) (s : State) : Out :=
  if fusedHere f then fusedOp f s false else fltOp f s (fun m c w a b => fAddF m c w false a b)
def execFsub (f : TF) (s : State) : Out :=
  if fusedHere f then fusedOp f s true else fltOp f s (fun m c w a b => fAddF m c w true a b)

/-- FMUL; with fuse its rounding raises no flag (R153). -/
def execFmul (f : TF) (s : State) : Out :=
  fltOp f s (fun m c w a b => let r := fMulF m c w a b; (r.1, if f.fuse then 0 else r.2))

def minMaxOp (f : TF) (s : State) (mx : Bool) : Out :=
  let t := f.typeAt
  let c := s.me.arch.fctl
  laneOp f s (mapSub (typeWidth t) (fun _ a b => match typeFmt t with
    | some m => (fMinMax m c.daz c.ftz mx a b, 0)
    | none => (a, 0)))

def execFmin (f : TF) (s : State) : Out := minMaxOp f s false
def execFmax (f : TF) (s : State) : Out := minMaxOp f s true

/-! ### Compares and selection (R154, R155) -/

/-- All ones in each subelement where the condition holds. -/
def cmpOp (f : TF) (s : State) (fi : Int → Int → Bool) (ff : FV → FV → Bool) : Out :=
  let t := f.typeAt
  let w := typeWidth t
  let c := s.me.arch.fctl
  laneOp f s (mapSub w (fun _ a b =>
    let r := match typeFmt t with
      | some m => let u := m.dec c.daz a; let v := m.dec c.daz b; !u.isNan && !v.isNan && ff u v
      | none => fi (toSigned w a) (toSigned w b)
    (if r then 2 ^ w - 1 else 0, 0)))

def execCmplt (f : TF) (s : State) : Out := cmpOp f s (fun a b => decide (a < b)) (fun a b => decide (a.cmp b < 0))
def execCmpeq (f : TF) (s : State) : Out := cmpOp f s (fun a b => decide (a = b)) (fun a b => decide (a.cmp b = 0))

/-- SEL (R155): by the lane's bit of k(8 + sel). -/
def execTriadSel (f : TF) (s : State) : Out :=
  unitOp f s true false (fun s xs ys =>
    let m := s.me.arch.kgrp (8 + f.sel.toNat) f.grp.toNat
    (xs.zip ys).zipIdx.map (fun p => (if m.getLsbD p.2 then p.1.1 else p.1.2, 0)))

/-- PERM (R156). -/
def execPerm (f : TF) (s : State) : Out :=
  unitOp f s true false (fun _ xs ys => ys.map (fun y => (nth xs (fld y 0 4), 0)))

/-- PACK (R157). -/
def packV (sel : Nat) (x y : W32) : W32 :=
  if sel < 4 then setFld y (8 * sel) 8 x.toNat else setFld y (16 * (sel - 4)) 16 x.toNat

def execPack (f : TF) (s : State) : Out := laneOp f s (fun x y => (packV f.sel.toNat x y, 0))

/-! ### CVT and SRND (R158, R159) -/

/-- conv: an element of lane type `t` into lane type `u` (R24, R25, R27, R158). -/
def convV (c : FCtl) (r : RMode) (t u a : Nat) : Nat × BitVec 6 :=
  match typeFmt t, typeFmt u with
  | some m, some n => n.round r c.satn c.ftz (m.dec c.daz a)
  | some m, none => let v := toInt (typeWidth u) r (m.dec c.daz a); (ofSigned (typeWidth u) v.1, v.2)
  | none, some n => n.round r c.satn c.ftz (FV.ofInt (toSigned (typeWidth t) a))
  | none, none => let v := satS (typeWidth u) (toSigned (typeWidth t) a); (ofSigned (typeWidth u) v.1, if v.2 then fSAT else 0)

/-- CVT on one lane: which elements of the source or the target p = y[1:0] names (R158). -/
def cvtLane (c : FCtl) (t u : Nat) (x y : W32) : W32 × BitVec 6 :=
  let wt := typeWidth t
  let wu := typeWidth u
  let ns := 32 / wt
  let nt := 32 / wu
  let p := fld y 0 2
  if nt ≤ ns then
    let q := p % (ns / nt)
    (List.range nt).foldl (fun (r : W32 × BitVec 6) j =>
      let o := convV c c.mode t u (fld x (wt * (q * nt + j)) wt)
      (r.1 ||| BitVec.ofNat 32 (o.1 * 2 ^ (wu * j)), r.2 ||| o.2)) (0, 0)
  else
    let q := p % (nt / ns)
    (List.range ns).foldl (fun (r : W32 × BitVec 6) i =>
      let o := convV c c.mode t u (fld x (wt * i) wt)
      (r.1 ||| BitVec.ofNat 32 (o.1 * 2 ^ (wu * (q * ns + i))), r.2 ||| o.2)) (0, 0)

def execTriadCvt (f : TF) (s : State) : Out := laneOp f s (cvtLane s.me.arch.fctl f.typeAt f.sel.toNat)

/-- SRND (R159): the whole lane of y is the random word. A clamp to an integer target sets NV and SAT whatever the source. -/
def execSrnd (f : TF) (s : State) : Out :=
  let c := s.me.arch.fctl
  let int := (typeFmt f.sel.toNat).isNone
  laneOp f s (fun x y =>
    let o := convV c (.sr y) f.typeAt f.sel.toNat x.toNat
    (BitVec.ofNat 32 o.1, if int && o.2 &&& fSAT != 0 then o.2 ||| fNV else o.2))

/-! ### The special functions (R163) -/

def specialOp (f : TF) (s : State) (op : Bool → Bool → W32 → W32 × BitVec 6) : Out :=
  let c := s.me.arch.fctl
  laneOp f s (fun x _ => op c.daz c.ftz x)

def execTriadExp2 (f : TF) (s : State) : Out := specialOp f s exp2F
def execTriadLog2 (f : TF) (s : State) : Out := specialOp f s log2F
def execTriadRcp (f : TF) (s : State) : Out := specialOp f s rcpF
def execTriadRsq (f : TF) (s : State) : Out := specialOp f s rsqF

/-! ### NRW (R160 to R162, R470) -/

/-- NRW on the 16 lanes: results with flags, and the es register after the lanes of the mask. -/
def nrwLanes (a : Arch) (i g : Nat) (m : BitVec 16) (xs ys : List W32) : Arch × List (W32 × BitVec 6) :=
  let d := a.es i
  let kbm := (targetOf (esFmt d)).kbM
  let sc := kbScale (xs.zipIdx.map (fun p => if m.getLsbD p.2 then dec32 p.1 else .fin false 0 0))
  let block : BitVec 6 := if kbm.isNone ∨ m = 0 then 0 else (if sc.nan then fNV else 0) ||| (if sc.sat then fSAT else 0)
  (xs.zip ys).zipIdx.foldl
    (fun (o : Arch × List (W32 × BitVec 6)) p =>
      let l := p.2
      let n := 16 * g + l
      let e := shapeElem d (sc.stepExp (kbm.getD 0) l) sc.nan (dec32 p.1.1) p.1.2 (a.esWords i n)
      if m.getLsbD l then
        let b := o.1.putEsWords i n e.ws
        (if e.satd then b.setEs i (setFld (b.es i) 57 1 1) else b, o.2 ++ [(shapeLane kbm.isSome e.y sc.record, e.flags ||| block)])
      else (o.1, o.2 ++ [(shapeLane kbm.isSome (if kbm.isSome then 0 else e.y) sc.record, 0)]))
    (a, [])

/-- NRW (R160 to R162): the ownership at issue; the error words and SATD as updated are what the next tick's NRW uses (R52). -/
def execTriadNrw (f : TF) (s : State) : Out :=
  slotOp f.g s (fun s =>
    let i := fld f.sel 0 2
    let d := s.me.arch.es i
    s.needSrc (ownSrc f) (
      if esOwn d = 2 then s.issueFault cSHAPER_BUSY
      else if esOwn d = 0 then s.issueFault cILLEGAL_OPERAND
      else
        let r := nrwLanes s.me.arch i f.grp.toNat (s.triadMask f) (s.unitIn f) (s.triadSrc f.grp.toNat (ownSrc f))
        (s.modMe (fun x => { x with arch := r.1 })).unitOut f r.2))

end Sys2Proof.Machine
end

