-- ==== Sys2Proof/Machine/Cross.lean ====
section
/-! DEFINITION. The X slot (R93, R179, R180): moves and reductions across the lane groups, at slot position 5. -/

namespace Sys2Proof.Machine

open Sys2Proof

/-- XNOP has no effect; clearing its latch is the bundle's (R81). -/
def execXnop (f : XF) (s : State) : Out := slotOp f.g s (fun s => s)

/-- v[dv] of group `g` in the lanes of kmask, readable from n + k (R179). -/
def State.landX (s : State) (f : XF) (k g : Nat) (xs : List W32) (fl : BitVec 6 := 0) : State :=
  s.land k 5 (.v g f.d.toNat (s.me.arch.kgrp f.fn.toNat g) xs) fl

/-- The lanes of v[sv] of group `g`. -/
def State.xSrc (s : State) (f : XF) (g : Nat) : List W32 := s.me.arch.rvs g f.v.toNat

/-- XCP (R179). -/
def execXcp (f : XF) (s : State) : Out := slotOp f.g s (fun s => s.landX f 4 f.h.toNat (s.xSrc f f.j.toNat))

/-- XBC (R179). -/
def execXbc (f : XF) (s : State) : Out :=
  slotOp f.g s (fun s => (List.range 8).foldl (fun t g => t.landX f 4 g (s.xSrc f f.j.toNat)) s)

/-- XSHF (R179): lane i of all 128 takes lane (i − r) mod 128. -/
def execXshf (f : XF) (s : State) : Out :=
  slotOp f.g s (fun s =>
    let r := f.fn.toNat % 2 * 64 + f.h.toNat * 8 + f.j.toNat
    (List.range 8).foldl
      (fun t g => t.land 4 5 (.v g f.d.toNat 0xFFFF ((List.range 16).map (fun l =>
        let i := (16 * g + l + 128 - r) % 128
        s.me.arch.rv (i / 16) f.v.toNat (i % 16))))) s)

/-- XS2V (R179). -/
def execXs2v (f : XF) (s : State) : Out :=
  slotOp f.g s (fun s => s.landX f 4 f.h.toNat (List.replicate 16 ((s.me.arch.rs f.v.toNat).setWidth 32)))

/-- XV2S (R179). -/
def execXv2s (f : XF) (s : State) : Out :=
  slotOp f.g s (fun s => s.land 4 5 (.s f.d.toNat ((s.me.arch.rv f.j.toNat f.v.toNat f.fn.toNat).setWidth 64)))

/-- Pairs combined in the order of R180. -/
def combine8 {α : Type} (op : α → α → α) (x : Nat → α) : α :=
  op (op (op (x 0) (x 1)) (op (x 2) (x 3))) (op (op (x 4) (x 5)) (op (x 6) (x 7)))

/-- XSUM and XMAX on one lane: its eight words combined subelement by subelement (R180). -/
def reduceLane (t : Nat) (op : Nat → Nat → Nat × BitVec 6) (x : Nat → W32) : W32 × BitVec 6 :=
  let w := typeWidth t
  combine8
    (fun (a b : W32 × BitVec 6) => let r := mapSub w (fun _ u v => op u v) a.1 b.1; (r.1, a.2 ||| b.2 ||| r.2))
    (fun g => (x g, 0))

/-- The reduction across the groups into group dg, with the flags of the lanes that are written (DEDUCED, log 30). -/
def crossReduce (f : XF) (s : State) (op : Nat → Nat → Nat × BitVec 6) : Out :=
  slotOp f.g s (fun s =>
    let outs := (List.range 16).map (fun l => reduceLane f.j.toNat op (fun g => s.me.arch.rv g f.v.toNat l))
    s.landX f 6 f.h.toNat (outs.map Prod.fst) (maskFlags (s.me.arch.kgrp f.fn.toNat f.h.toNat) outs))

/-- One addition of XSUM: integers wrap, floats round by RNE whatever FCR says (R180). -/
def xsumOp (t a b : Nat) : Nat × BitVec 6 :=
  match typeFmt t with
  | some m =>
    let q := (m.dec false a).add false (m.dec false b)
    let r := m.rne q.1
    (r.1, q.2 ||| r.2)
  | none => (a + b, 0)

/-- XSUM (R179, R180). -/
def execXsum (f : XF) (s : State) : Out := crossReduce f s (xsumOp f.j.toNat)

/-- One maximum of XMAX: integers signed, floats as FMAX (R153, R180). -/
def xmaxOp (c : FCtl) (t a b : Nat) : Nat × BitVec 6 :=
  match typeFmt t with
  | some m => (fMinMax m c.daz c.ftz true a b, 0)
  | none => (if toSigned (typeWidth t) a < toSigned (typeWidth t) b then b else a, 0)

/-- XMAX (R179, R180). -/
def execXmax (f : XF) (s : State) : Out := crossReduce f s (xmaxOp s.me.arch.fctl f.j.toNat)

end Sys2Proof.Machine
end

