-- ==== Sys2Proof/Machine/Accum.lean ====
section
/-! DEFINITION. The O slot (R181 to R183): reads and writes of the accumulators, at slot position 4. -/

namespace Sys2Proof.Machine

open Sys2Proof

/-- ONOP has no effect; clearing its latch is the bundle's (R81). -/
def execOnop (f : OF) (s : State) : Out := slotOp f.g s (fun s => s)

/-- The shape of an O operation that names an accumulator tile (R182): a tile of the share, rows that exist, then the
interlock with the calls of the context that have issued at an earlier tick, taking an implicit checkpoint first where one
of them is provisional; `eff` gets the row. -/
def accOpn (f : OF) (s : State) (eff : Nat → State → State) : Out :=
  slotOp f.g s (fun s =>
    let row := s.me.arch.rowOf f.st f.row
    let named := (s.callsOf s.cur).filter (fun k => k.accs.getLsbD f.acc.toNat && decide (k.born ≠ s.me.tick))
    if !s.me.share.hasAcc f.acc.toNat then s.issueFault cACCESS_PROT
    else if 128 < row + f.cnt.toNat + 1 then s.issueFault cILLEGAL_OPERAND
    else if !named.isEmpty then (if named.any (fun k => !k.committed) then s.ensureCkpt else s).stall 3
    else eff row s)

/-- The groups of a group select, with the segment each takes (R183). -/
def segsOf (f : OF) : List (Nat × Nat) :=
  if f.gs = 8 then (List.range 8).map (fun g => (g, g)) else [(f.gs.toNat, f.seg.toNat)]

/-- The 16 words of segment `c` of a row. -/
def State.accSeg (s : State) (t row c : Nat) : List W32 := s.acc.getList (accIdx t row (16 * c)) 16

/-- An O write of consecutive accumulator words, which a trap can undo (R435). -/
def State.putAcc (s : State) (a : Nat) (ws : List W32) : State :=
  ({ s with acc := s.acc.putList a ws, bad := s.accMended a ws.length }).modMe
    (fun x => { x with accUndo := (List.range' a ws.length).map (fun i => (i, s.acc.get i)) ++ x.accUndo })

def State.putAccSeg (s : State) (t row c : Nat) (ws : List W32) : State := s.putAcc (accIdx t row (16 * c)) ws

/-- An O operation reads accumulator words: the launch ends where one fails its check (R428). -/
def State.oReads (s : State) (as : List Nat) (eff : State) : State :=
  match s.badAt .acc as with
  | some b => s.metBy b s.cur s.me.arch.pc
  | none => eff

/-- The accumulator words of the groups of an O operation. -/
def segWords (f : OF) (row : Nat) : List Nat := (segsOf f).flatMap (fun p => List.range' (accIdx f.acc.toNat row (16 * p.2)) 16)

/-- ORD (R183). -/
def execOrd (f : OF) (s : State) : Out :=
  accOpn f s (fun row s => s.oReads (segWords f row) ((segsOf f).foldl
    (fun t p => t.land 3 4 (.v p.1 f.v.toNat 0xFFFF (s.accSeg f.acc.toNat row p.2))) s))

/-- OWR (R183). -/
def execOwr (f : OF) (s : State) : Out :=
  accOpn f s (fun row s => (segsOf f).foldl (fun t p => t.putAccSeg f.acc.toNat row p.2 (s.me.arch.rvs p.1 f.v.toNat)) s)

/-- The flags of a list of results. -/
def orFlags (outs : List (W32 × BitVec 6)) : BitVec 6 := outs.foldl (fun b p => b ||| p.2) 0

/-- OADD (R39, R183); its flags set at the end of this tick (R23). -/
def execOadd (f : OF) (s : State) : Out :=
  accOpn f s (fun row s => s.oReads (segWords f row) ((segsOf f).foldl
    (fun t p =>
      let outs := List.zipWith add32 (s.accSeg f.acc.toNat row p.2) (s.me.arch.rvs p.1 f.v.toNat)
      (t.putAccSeg f.acc.toNat row p.2 (outs.map Prod.fst)).land 1 4 .nothing (orFlags outs)) s))

/-- Changes rows row to row + count − 1 word by word. -/
def State.accRows (s : State) (f : OF) (row : Nat) (op : W32 → W32 × BitVec 6) : State :=
  s.oReads (List.range' (accIdx f.acc.toNat row 0) (128 * (f.cnt.toNat + 1))) ((List.range (f.cnt.toNat + 1)).foldl
    (fun t i =>
      let outs := (s.accRow f.acc.toNat (row + i)).map op
      (t.putAcc (accIdx f.acc.toNat (row + i) 0) (outs.map Prod.fst)).land 1 4 .nothing (orFlags outs)) s)

/-- OZERO (R183). -/
def execOzero (f : OF) (s : State) : Out :=
  accOpn f s (fun row s => (List.range (f.cnt.toNat + 1)).foldl
    (fun t i => t.putAcc (accIdx f.acc.toNat (row + i) 0) (List.replicate 128 0)) s)

/-- OSCL (R39, R183). -/
def execOscl (f : OF) (s : State) : Out :=
  accOpn f s (fun row s => let m := s.me.arch.rv f.gs.toNat f.v.toNat 0; s.accRows f row (fun w => mul32 w m))

end Sys2Proof.Machine
end

