-- ==== Sys2Proof/Machine/Array.lean ====
section
/-! DEFINITION. The systolic array: operand formats and rows (R193 to R197), scale records (R33, R34), the order of sums
(R37 to R39), and shaping along rows and columns (R53 to R55, R211). -/

namespace Sys2Proof.Machine

open Sys2Proof

/-- m of a KB format code (R193). -/
def kbOf (fmt : Nat) : Nat := fmt - 8

/-- K_pass of a format (R195). -/
def kPass (fmt : Nat) : Nat := if fmt = 8 ∨ fmt = 9 then 512 else if fmt = 10 ∨ fmt = 11 then 256 else 128

/-- Formats of the 8-bit class, which 2:4 sparsity needs (R195). -/
def class8 (fmt : Nat) : Bool := decide (fmt < 3) || decide (12 ≤ fmt)

/-- Bytes of `n` consecutive elements, and of one KB block (R196): of a row that ends within a block the whole block is read (DESIGN CHOICE,
log 70). -/
def blockBytes (fmt : Nat) : Nat := 2 * (kbOf fmt + 1)
def rowBytes (fmt n : Nat) : Nat := if fmt < 3 then n else if fmt = 3 then 2 * n else blockBytes fmt * ((n + 15) / 16)

/-- The value of element i from its bits and its block's scale record (R28, R193). -/
def elemBits (fmt bits record i : Nat) : FV :=
  match fmt with
  | 0 => FV.ofInt (toSigned 8 bits)
  | 1 => e4m3.dec false (bits % 256)
  | 2 => e5m2.dec false (bits % 256)
  | 3 => bf16.dec false (bits % 65536)
  | _ => kbValue (kbOf fmt) record (i % 16) bits

/-- The bits of element i of a row's bytes. -/
def rowBits (fmt : Nat) (bs : List Byte) (i : Nat) : Nat :=
  if fmt < 3 then (nth bs i).toNat
  else if fmt = 3 then (nth bs (2 * i)).toNat + 256 * (nth bs (2 * i + 1)).toNat
  else kbBits (kbOf fmt) ((bs.drop (blockBytes fmt * (i / 16))).take (blockBytes fmt)) (i % 16)

/-- The first `n` element values of a row. -/
def rowVals (fmt : Nat) (bs : List Byte) (scales : List Half) (n : Nat) : List FV :=
  (List.range n).map (fun i => elemBits fmt (rowBits fmt bs i) (nth scales (i / 16)).toNat i)

/-! ### Scale records (R32 to R34, R196) -/

/-- Which of an old and a new value a racing read gives: a free choice (log 4). -/
def State.race (s : State) : State × Bool := ({ s with choices := s.choices + 1 }, Config.racePick s.choices)

/-- The set of the scale cache, of 1,024, that a record goes to (R33). -/
def scaleSetOf (tid block : Nat) : Nat := Config.scaleSet tid block % 1024

/-- The scale cache with a record used last in front; of a set of more than 4 the least recently used leaves (R33). -/
def useScale (cache : List (Nat × Nat × Half)) (tid block : Nat) (v : Half) : List (Nat × Nat × Half) :=
  let others := cache.filter (fun e => !(e.1 == tid && e.2.1 == block))
  let mates := others.filter (fun e => scaleSetOf e.1 e.2.1 == scaleSetOf tid block)
  let out := mates.drop 3
  (tid, block, v) :: others.filter (fun e => !out.contains e)

/-- The number that names a record of the scale cache among the protected words (R426, log 43). -/
def scaleKey (tid block : Nat) : Nat := tid * 2 ^ 32 + block

/-- An access of context c by a call or an engine has come to a status: a failing word of its walk, or a fault. -/
def State.gotFault {α : Type} (s : State) (c : Fin 4) (code : Byte) (vas : List Nat) : Got α :=
  match s.walkWord c vas with
  | some b => if code = cUNCORRECTABLE_MEM then .meets b else .fault code
  | none => .fault code

/-- The scale record of a block, through the scale cache: a cached record stays; where memory has changed under it, either
value is read (R33, R34). -/
def State.scaleRec (s : State) (c : Fin 4) (tid block va : Nat) : Got (State × Half) :=
  let hit := s.scaleCache.find? (fun e => e.1 == tid && e.2.1 == block)
  let x := s.ctx c
  match s.access x.arch x.asid .read va, hit with
  | .error e, none => s.gotFault c e [va]
  | .ok t, none =>
    let v := BitVec.ofNat 16 (s.memNat t.pa 2)
    if s.homeHeld (byteAddrs t.pa 2) then .wait
    else match s.badAt .l2 (byteAddrs t.pa 2) with
      | some b => .meets b
      | none => .got ({ s.tlbFill x.asid va with
          scaleCache := useScale s.scaleCache tid block v, bad := s.mended .scale [scaleKey tid block] }, v)
  | tr, some h =>
    let v := match tr with
      | .ok t => BitVec.ofNat 16 (s.memNat t.pa 2)
      | .error _ => h.2.2
    match s.badAt .scale [scaleKey tid block] with
    | some b => .meets b
    | none =>
      let s := { s with scaleCache := useScale s.scaleCache tid block h.2.2 }
      if h.2.2 = v then .got (s, v)
      else
        let r := s.race
        .got (r.1, if r.2 then v else h.2.2)

/-- The scale records of the blocks of a row at scratchpad offset `off` (R196). -/
def State.scaleRow (s : State) (c : Fin 4) (fmt base : Nat) : Nat → Nat → Got (State × List Half)
  | 0, _ => .got (s, [])
  | n + 1, off =>
    match s.covering (spKey s.myX off) with
    | none => .fault cACCESS_PROT
    | some k =>
      let t := s.tile k
      let b := (off - t.base) / blockBytes fmt
      match s.scaleRec c t.tid.toNat b ((base + 2 * b) % 2 ^ 64) with
      | .wait => .wait
      | .fault e => .fault e
      | .meets w => .meets w
      | .got (s, v) =>
        match s.scaleRow c fmt base n (off + blockBytes fmt) with
        | .wait => .wait
        | .fault e => .fault e
        | .meets w => .meets w
        | .got (s, vs) => .got (s, v :: vs)

/-- A row of `n` elements of a scratchpad source, with its scale records (R196, R197). -/
def readRow (s : State) (r : CallRun) (src : Src) (off n : Nat) : Got (State × List Byte × List Half) :=
  match s.readReady r.ctx off (rowBytes src.fmt.toNat n) with
  | .wait => .wait
  | .fault e => .fault e
  | .meets b => .meets b
  | .got bs =>
    if src.fmt.toNat < 8 then .got (s, bs, [])
    else match s.covering (spKey s.myX off) with
      | none => .fault cACCESS_PROT
      | some k =>
        if (off - (s.tile k).base) % blockBytes src.fmt.toNat ≠ 0 then .fault cILLEGAL_OPERAND
        else match s.scaleRow r.ctx src.fmt.toNat (r.pr src.sreg).toNat ((n + 15) / 16) off with
          | .wait => .wait
          | .fault e => .fault e
          | .meets b => .meets b
          | .got (s, sc) => .got (s, bs, sc)

/-- `k` rows of a source, `stride` apart from `off`: their bytes and scale records. -/
def readRows (s : State) (r : CallRun) (src : Src) (n : Nat) : Nat → W64 → Got (State × List (List Byte) × List (List Half))
  | 0, _ => .got (s, [], [])
  | k + 1, off =>
    match readRow s r src off.toNat n with
    | .wait => .wait
    | .fault e => .fault e
    | .meets b => .meets b
    | .got (s, bs, sc) =>
      match readRows s r src n k (off + BitVec.ofNat 64 src.stride) with
      | .wait => .wait
      | .fault e => .fault e
      | .meets b => .meets b
      | .got (s, bss, scs) => .got (s, bs :: bss, sc :: scs)

/-! ### Group sums (R37 to R39) -/

/-- The exact sum of finite values; a zero sum is −0 only where every value is −0 and the group is full (R37, R39). -/
def sumFin (full : Bool) (ps : List FV) : FV :=
  let e := ps.foldl (fun e p => match p with | .fin _ m x => if m = 0 then e else min e x | _ => e) (0 : Int)
  let n := ps.foldl (fun n p => n + FV.numAt e p) (0 : Int)
  FV.ofNum (full && ps.all FV.isNeg && ps.all (fun p => match p with | .fin _ m _ => decide (m = 0) | _ => false)) n e

/-- The products of a BF16 group in the window of 48 bits below the largest leading bit, and the sticky bit (R38). -/
def windowed (ps : List FV) : List FV :=
  match maxLead ps with
  | none => ps
  | some top =>
    let q := top - 48
    let cut : FV → FV × Bool := fun p => match p with
      | .fin n m e => let r := roundAt .rtz n m e q; (.fin n r.1 (max q e), r.2)
      | v => (v, false)
    let cut1 : FV → FV × Bool := fun p => match p with
      | .fin n m e => if q ≤ e then (.fin n m e, false) else cut (.fin n m e)
      | v => (v, false)
    let ts := ps.map (fun p => (cut1 p).1)
    if ps.any (fun p => (cut1 p).2) then
      let neg := match sumFin false ts with
        | .fin n m _ => if m = 0 then
            ((ps.foldl (fun (b : Option FV) p => match b with
                | none => some p
                | some v => if p.abs.cmp v.abs > 0 then some p else some v) none).map FV.isNeg).getD false
          else n
        | _ => false
      ts ++ [.fin neg 1 (q - 1)]
    else ts

/-- A group sum G with the flags of its invalid products, none where an operand of the group is a NaN (R19, R37, R38, R39; DEDUCED,
log 8). -/
def groupSum (bf : Bool) (ps : List (FV × FV)) : FV × BitVec 6 :=
  let pr := ps.map (fun p => p.1.mul p.2)
  let anyNan := ps.any (fun p => p.1.isNan || p.2.isNan)
  let fl := if anyNan then 0 else pr.foldl (fun f p => f ||| p.2) 0
  let vs := pr.map Prod.fst
  if vs.all (fun v => match v with | .fin _ _ _ => true | _ => false) then
    (sumFin (decide (ps.length = if bf then 4 else 16)) (if bf then windowed vs else vs), fl)
  else
    let r := vs.foldl (fun a v => match v with
      | .fin _ _ _ => a
      | v => match a with
        | (.fin _ _ _, f) => (v, f)
        | (u, f) => let t := u.add false v; (t.1, f ||| t.2)) ((.fin false 0 0, fl) : FV × BitVec 6)
    (r.1, if anyNan then 0 else r.2)

/-- acc := rne32(acc + G), or sat(acc + G) on an INT32 accumulator (R37, R39). -/
def accumulate (int : Bool) (acc : W32) (g : FV × BitVec 6) : W32 × BitVec 6 :=
  if int then
    let r := satS 32 (toSigned 32 acc.toNat + FV.numAt 0 g.1)
    (BitVec.ofNat 32 (ofSigned 32 r.1), if r.2 then fSAT else 0)
  else
    let t := (dec32 acc).add false g.1
    let r := f32.rne t.1
    (BitVec.ofNat 32 r.1, (dec32 acc).productFlags g.2 ||| t.2 ||| r.2)

/-- The pairs of one sum cut into groups of `n`, in order. -/
def groupsOf {α : Type} (n : Nat) : Nat → List α → List (List α)
  | 0, _ => []
  | k + 1, l => if l.isEmpty then [] else l.take n :: groupsOf n k (l.drop n)

/-- One accumulator word after all the groups of its sum, in increasing k. -/
def accWord (int bf : Bool) (acc : W32) (ps : List (FV × FV)) : W32 × BitVec 6 :=
  (groupsOf (if bf then 4 else 16) ps.length ps).foldl
    (fun a g => let r := accumulate int a.1 (groupSum bf g); (r.1, a.2 ||| r.2)) (acc, 0)

/-! ### Shaping a tile (R53 to R55, R210, R211, R222) -/

/-- Sets SATD of es register i. -/
def Arch.setSatd (a : Arch) (i : Nat) : Arch := a.setEs i (setFld (a.es i) 57 1 1)

/-- The error words of the listed streams at zero: a tile start with CARRY = 0 (R54). -/
def Arch.zeroStreams (a : Arch) (i : Nat) (ns : List Nat) : Arch :=
  { a with esw := a.esw.filter (fun p => !(decide (384 * i ≤ p.1) && decide (p.1 < 384 * i + 384) && ns.contains ((p.1 - 384 * i) / 3))) }

/-- The streams that rows row0 to row0 + count − 1 and `cols` columns cover (R53). -/
def esStreams (d : BitVec 128) (row0 count cols : Nat) : List Nat :=
  if esAxisCol d then List.range cols else (List.range count).map (fun i => row0 + i)

def Arch.tileStart (a : Arch) (i row0 count cols : Nat) : Arch :=
  if esCarry (a.es i) then a else a.zeroStreams i (esStreams (a.es i) row0 count cols)

/-- What shaping gives: narrow results, the scale records of KB blocks, the registers, and the flags. -/
structure RowShaped where
  ys : List Nat
  recs : List Nat
  a : Arch
  flags : BitVec 6

/-- The scales of the blocks of a row, from the unshaped inputs (R31, R55). -/
def rowScales (xs : List W32) : List KbScale := (groupsOf 16 xs.length (xs.map dec32)).map kbScale

/-- One row of an accumulator tile through `shape`, columns in increasing order; `w` gives the random words. -/
def shapeRow (a : Arch) (i row : Nat) (xs : List W32) (w : Nat → W32) : RowShaped :=
  let d := a.es i
  let kbm := (targetOf (esFmt d)).kbM
  let sc := if kbm.isSome then rowScales xs else []
  let fl0 : BitVec 6 := sc.foldl (fun f k => f ||| (if k.nan then fNV else 0) ||| (if k.sat then fSAT else 0)) 0
  let r := xs.zipIdx.foldl
    (fun (o : RowShaped) p =>
      let j := p.2
      let n := if esAxisCol d then j else row
      let k := sc.getD (j / 16) ⟨false, 0, [], false⟩
      let e := shapeElem d (k.stepExp (kbm.getD 0) (j % 16)) k.nan (dec32 p.1) (w j) (o.a.esWords i n)
      let a := o.a.putEsWords i n e.ws
      { o with ys := o.ys ++ [e.y], a := if e.satd then a.setSatd i else a, flags := o.flags ||| e.flags })
    ⟨[], sc.map KbScale.record, a, fl0⟩
  r

/-- The random words of ACHN and of a DRN's NRW (R211). -/
def callRnd (r : CallRun) (row n tag : Nat) (col : Nat) : W32 :=
  nth (philox r.call.rkey (128 * row + col) n (fld (nth r.call.m 7) 32 32) tag) 0

/-- The ownership rule of a carrier of the matrix sequencer (R56). -/
def esOwned (d : BitVec 128) (eff : Got State) : Got State :=
  if esOwn d = 2 then eff else if esOwn d = 1 then .fault cSHAPER_BUSY else .fault cILLEGAL_OPERAND

end Sys2Proof.Machine
end

