-- ==== Sys2Proof/Machine/Load.lean ====
section
/-! DEFINITION. What a load gives: the element types of the V slot (R165), the context's own stores that a load sees first
(R168, R290), and what the bytes of a load become in its destination (R115, R171, R172). -/

namespace Sys2Proof.Machine

open Sys2Proof

/-! ### Element types (R165) -/

/-- Bytes per lane of an element type. -/
def tySize (ty : Nat) : Nat :=
  match ty with
  | 0 => 4
  | 1 => 2
  | 2 => 1
  | 3 => 2
  | 4 => 2
  | 5 => 1
  | 6 => 1
  | 7 => 1
  | _ => 2

/-- An exact widening to FP32, any NaN canonical. -/
def widenF (m : Fmt) (v : Nat) : W32 := BitVec.ofNat 32 (f32.rne (m.dec false v)).1

/-- A memory element in its lane. -/
def widen (ty v : Nat) : W32 :=
  match ty with
  | 1 => BitVec.ofInt 32 (toSigned 16 v)
  | 2 => BitVec.ofInt 32 (toSigned 8 v)
  | 3 => widenF bf16 v
  | 4 => widenF f16 v
  | 5 => widenF e4m3 v
  | 6 => widenF e5m2 v
  | _ => BitVec.ofNat 32 v

/-! ### Own stores -/

/-- The value of the context's latest store to a byte before access `id`, where that store is in the CTX station (R290). -/
def Context.ownByte (x : Context) (sp : Bool) (id b : Nat) : Option Byte :=
  (x.queue ++ x.hold).foldl
    (fun o a => if a.kind = .store ∧ a.sp = sp ∧ a.id < id then a.cells.foldl (fun o p => if p.1 = b then some p.2 else o) o else o)
    none

/-- The virtual address of each byte that an access of memory names. -/
def Acc.vaList (a : Acc) : List Nat := if a.vas.isEmpty then byteAddrs a.va.toNat (max 1 a.width) else a.vas

/-- The virtual addresses at which a load names the byte at a physical address. -/
def Acc.vasAt (a : Acc) (b : Nat) : List Nat := ((a.addrs.zip a.vaList).filter (fun p => p.1 == b)).map Prod.snd

/-- The context's own store to a byte that load `a` sees first: that of the same place, or a parked store to the same virtual address, whatever
translation each has found (R290, R389). -/
def Context.ownOf (x : Context) (a : Acc) (b : Nat) : Option Byte :=
  if a.sp || !(x.queue ++ x.hold).any (fun e => e.kind == .store && e.wp) then x.ownByte a.sp a.id b
  else
    let vs := a.vasAt b
    (x.queue ++ x.hold).foldl
      (fun o e => if e.kind = .store ∧ !e.sp ∧ e.id < a.id then
          (e.cells.zip e.vaList).foldl (fun o p => if p.1.1 = b ∨ (e.wp ∧ vs.contains p.2) then some p.1.2 else o) o
        else o)
      none

/-- Whether an earlier store or atomic of context c on a byte is on its way to home: a load of the byte waits for it, since it
may not read behind it in coherence order (R295). -/
def State.onItsWay (s : State) (c : Fin 4) (sp : Bool) (id b : Nat) : Bool :=
  s.bankQ.any (fun r => r.ctx == c && decide (r.acc.id < id) && r.acc.kind.isStore && r.acc.touches sp b) ||
    s.homeQ.any (fun h => h.ctx == c && decide (h.acc.id < id) && h.acc.kind.isStore && h.acc.touches sp b)

/-- A `.strm` store on its way to home has updated the L1's copy of a byte: what home holds of it is older than what a context may
have read (R276, R295). -/
def State.strmOn (s : State) (b : Nat) : Bool := s.homeQ.any (fun h => h.acc.upd && h.acc.cells.any (fun p => p.1 == b))

/-- The bytes that context c reads in scratchpad, its own stores first. -/
def State.spRead (s : State) (c : Fin 4) (id : Nat) (keys : List Nat) : List Byte :=
  keys.map (fun b => ((s.ctx c).ownByte true id b).getD (s.sp.get b))

/-! ### Bit-field extraction (R35, R36, R172) -/

/-- The bit position of field `i` of the stream, and its width. -/
def bxAt (p : BitVec 128) (i : Nat) : Nat × Nat :=
  let n := fld p 7 4 + 1
  let j := i % n
  let before := (List.range j).foldl (fun o k => o + fld p (7 * k + 14) 4 + (fld p (7 * k + 11) 3 + 1)) 0
  (i / n * (fld p 0 7 + 1) + before + fld p (7 * j + 14) 4, fld p (7 * j + 11) 3 + 1)

/-- The first byte that fields first to first + 63 take, and how many bytes. -/
def bxBytes (p : BitVec 128) (first : Nat) : Nat × Nat :=
  let a := (bxAt p first).1 / 8
  let e := bxAt p (first + 63)
  (a, (e.1 + e.2 - 1) / 8 + 1 - a)

/-- A field extended to a byte. -/
def extByte (sx : Bool) (w v : Nat) : Nat := if sx then ofSigned 8 (toSigned w v) else v % 2 ^ w

/-- Field `first` + `i` of the bytes that a load of it read. -/
def bxField (p : BitVec 128) (sx : Bool) (first i : Nat) (n : Nat) : Nat :=
  let q := bxAt p (first + i)
  extByte sx q.2 (nfld n (q.1 - 8 * (bxBytes p first).1) q.2)

/-! ### Destinations -/

/-- The 16 lanes of elements that stand for the lanes of a mask, in order. -/
def laneElts (ty : Nat) (mask : BitVec 16) (bs : List Byte) : List W32 :=
  let n := tySize ty
  ((List.range 16).foldl
    (fun (o : List W32 × List Byte) l =>
      if mask.getLsbD l then (o.1 ++ [widen ty (ofLe (o.2.take n))], o.2.drop n) else (o.1 ++ [0], o.2))
    ([], bs)).1

/-- LDT's transposition: lane l holds byte l of the four rows (R171). -/
def ldtLanes (bs : List Byte) : List W32 :=
  (List.range 16).map (fun l => BitVec.ofNat 32 (ofLe ((List.range 4).map (fun r => nth bs (16 * r + l)))))

/-- LDX: lane l holds fields 4l to 4l + 3 (R172). -/
def ldxLanes (p : BitVec 128) (sx : Bool) (first : Nat) (bs : List Byte) : List W32 :=
  let n := ofLe bs
  (List.range 16).map (fun l => BitVec.ofNat 32 (ofLe ((List.range 4).map (fun j => BitVec.ofNat 8 (bxField p sx first (4 * l + j) n)))))

/-- What the bytes of a load write when it lands. -/
def LoadDst.lands (d : LoadDst) (bs : List Byte) : Land :=
  match d with
  | .nothing => .nothing
  | .s r n sgn => .s r (if sgn then BitVec.ofInt 64 (toSigned (8 * n) (ofLe bs)) else BitVec.ofNat 64 (ofLe bs))
  | .v g r ty mask => .v g r mask (laneElts ty mask bs)
  | .ldt g r => .v g r 0xFFFF (ldtLanes bs)
  | .ldx g r p sx first => .v g r 0xFFFF (ldxLanes p sx first bs)
  | .push _ _ _ _ => .nothing

end Sys2Proof.Machine
end

