-- ==== Sys2Proof/Machine/Engines.lean ====
section
/-! DEFINITION. The E slot (R228 to R247): the issue of each engine command with the checks of its descriptor, and the
descriptor fields that the engines read again as the command runs. -/

namespace Sys2Proof.Machine

open Sys2Proof

/-! ### Descriptors -/

/-- A local scratchpad range of a descriptor (R166). -/
def spRange (a n : Nat) : Bool := decide (a < 2 ^ 21) && decide (a + n ≤ 0x180000)

/-! ### The issue of a command (R229, R230) -/

/-- The descriptor's address: s[register] + the latch's offset (R229). -/
def State.eAddr (s : State) (f : EF) : Nat :=
  (s.me.arch.rs f.dreg.toNat + (if f.st ∧ (s.me.arch.latch 3).valid then (s.me.arch.latch 3).off else 0)).toNat

/-- How many commands of an engine a queue holds (R230). -/
def queueCap (e : Engine) : Nat := if e = .quiet then 4 else 16

/-- The queue of an engine that a command would enter, the timed or the other, holds as many as it can (R230). -/
def State.queueFull (s : State) (f : EF) (e : Engine) : Bool :=
  decide (queueCap e ≤ (s.me.cmds.filter (fun c => c.eng == e && c.timed == decide (f.toff ≠ 0xFFFF))).length)

/-- The command enters its engine queue as provisional, or blocks while that is full (R229 to R231, R234). -/
def State.queueCmd (s : State) (f : EF) (e : Engine) (op : Nat) (d : List Byte) (k : CollRun := {}) : State :=
  if s.queueFull f e then s.block
  else s.modMe (fun x => { x with
    cmds := x.cmds ++ [{ id := x.arch.cmdno, eng := e, op, timed := decide (f.toff ≠ 0xFFFF), ef := f, desc := d, trel := x.arch.trel, fcr := x.arch.fcr,
                         rkey := x.arch.rkey, bundle := x.arch.pc, order := x.nextOrder, coll := k }]
    nextOrder := x.nextOrder + 1
    arch := { x.arch with cmdno := x.arch.cmdno + 1 } })

/-- The semaphores of the tokens belong to the share (R227). -/
def State.tokensOk (s : State) (f : EF) : Bool :=
  (f.thr == 0 || s.me.share.hasSem f.wsem) && (f.inc == 0 || s.me.share.hasSem f.sig)

/-- The issue of a command that reads a descriptor (R229, R409): the class, the tokens, the address, the descriptor as a load
of the context would read it, the checks of its entry, then `go` with the copy. -/
def cmdOp (f : EF) (s : State) (check : List Byte → State → Got Unit) (go : List Byte → State → State) : Out :=
  slotOp f.g s (fun s =>
    let a := s.eAddr f
    if f.vc = 7 ∨ !spRange a 128 ∨ a % 128 ≠ 0 then s.issueFault cILLEGAL_OPERAND
    else if !s.tokensOk f then s.issueFault cACCESS_PROT
    else
      let keys := byteAddrs (spKey s.myX a) 128
      let id := s.me.nextId
      if keys.any (fun b => s.onItsWay s.cur true id b) then s.stall 2
      else
        let d := s.spRead s.cur id keys
        match s.badAt .sp (keys.filter (fun b => (s.me.ownByte true id b).isNone)) with
        | some b => s.metBy b s.cur s.me.arch.pc
        | none => match check d s with
        | .fault c => s.issueFault c
        | .meets b => s.metBy b s.cur s.me.arch.pc
        | .wait => s.tileStall
        | .got _ => go d s)

/-- ENOP has no effect; clearing its latch is the bundle's (R81). -/
def execEnop (f : EF) (s : State) : Out := slotOp f.g s (fun s => s)

/-- EQUIET (R247). -/
def execEquiet (f : EF) (s : State) : Out :=
  slotOp f.g s (fun s =>
    if f.toff ≠ 0xFFFF then s.issueFault cILLEGAL_OPERAND
    else if !s.tokensOk f then s.issueFault cACCESS_PROT
    else s.queueCmd f .quiet 0x0A [])

/-- A check that fails. -/
def need (b : Bool) (c : Byte) (k : Got Unit) : Got Unit := if b then k else .fault c

/-! ### COPY and TLOAD (R235 to R240) -/

/-- Every byte touched lies in the tile (R236). -/
def cpInTile (t : Tile) (base n : Nat) (sp : Int × Int) : Bool :=
  decide (t.size ≠ 0) && decide ((t.base : Int) ≤ base + sp.1) && decide ((base : Int) + sp.2 + n ≤ t.base + t.size)

/-- A descriptor address of COPY and TLOAD (R116, R235): its layout. -/
def cpAddr (s : State) (sp peer : Bool) (a : Nat) (k : Got Unit) : Got Unit :=
  if !sp then need (decide (a < 2 ^ 56)) cILLEGAL_OPERAND k
  else if !peer then need (decide (a < 0x180000)) cACCESS_PROT k
  else match s.spAddr true (BitVec.ofNat 64 a).toNat 1 with
    | .ok _ => k
    | .error c => .fault c

/-- The limits of COPY on levels, sizes and flags (R235, R236). -/
def cpShape (d : List Byte) : Bool :=
  let n := 2 ^ cpEsz d
  let acc := cpAcc d
  decide (cpNlev d ≤ 5) && decide (cpEsz d ≤ 6) && decide (acc ≤ 5) && decide (dn d 0x5E 2 < 128) && dz d 0x5D 0x5E && dz d 0x60 0x80 &&
    dz d (0x1C + 12 * cpNlev d) 0x58 && decide (dn d 0 8 % n = 0) && decide (dn d 8 8 % n = 0) &&
    (cpLevels d).all (fun l => decide (l.2.1 % (n : Int) = 0) && decide (l.2.2 % (n : Int) = 0)) &&
    (!(acc == 1 || acc == 4 || acc == 5) || cpEsz d == 2) && (!(acc == 2 || acc == 3) || cpEsz d == 1) &&
    (!cpFlag d 3 || (decide (2 ≤ cpEsz d) && cpFlag d 1)) && (!cpFlag d 2 || cpFlag d 0) &&
    (!cpFlag d 5 || cpFlag d 0) && (!cpFlag d 6 || cpFlag d 1) && !(cpFlag d 2 && cpFlag d 5) && !(cpFlag d 3 && cpFlag d 6)

/-- A tile that the descriptor marks valid: of the share, and holding every byte touched. -/
def cpTile (s : State) (d : List Byte) (valid : Bool) (t base : Nat) (ls : List (Nat × Int)) (k : Got Unit) : Got Unit :=
  if !valid then k
  else need (s.me.share.hasTile t) cACCESS_PROT
    (need (decide (cpCount d = 0) || cpInTile (s.tile (s.tileKey t)) base (2 ^ cpEsz d) (cpSpan ls)) cACCESS_PROT k)

/-- COPY's checks at issue, then the stall on its tiles (R238). -/
def copyCheck (d : List Byte) (s : State) : Got Unit :=
  let st := s.tile (s.tileKey (cpStile d))
  let dt := s.tile (s.tileKey (cpDtile d))
  need (cpShape d) cILLEGAL_OPERAND
    (cpAddr s (cpFlag d 0) (cpFlag d 5) (dn d 0 8)
      (cpAddr s (cpFlag d 1) (cpFlag d 6) (dn d 8 8)
        (cpTile s d (cpFlag d 2) (cpStile d) (dn d 0 8) ((cpLevels d).map (fun l => (l.1, l.2.1)))
          (cpTile s d (cpFlag d 3) (cpDtile d) (dn d 8 8) ((cpLevels d).map (fun l => (l.1, l.2.2)))
            (if (cpFlag d 2 && (!st.drains || s.claimedTile (s.tileKey (cpStile d)))) ||
                (cpFlag d 3 && (dt.bars || s.claimedTile (s.tileKey (cpDtile d)))) then .wait else .got ())))))

/-- COPY (R229, R235, R236, R238). -/
def execCopy (f : EF) (s : State) : Out := cmdOp f s copyCheck (fun d s => s.queueCmd f .copy 0x01 d)

/-- TLOAD's checks at issue (R235, R240). -/
def tloadCheck (d : List Byte) (_ : State) : Got Unit :=
  let fmt := dn d 0x60 1
  need (decide (cpNlev d ≤ 5) && cpEsz d == 0 && cpAcc d == 0 && dn d 0x5E 2 == 0 && dn d 8 8 == 0 && dz d 0x5D 0x5E && dz d 0x61 0x62 &&
      dz d 0x64 0x80 && dz d (0x1C + 12 * cpNlev d) 0x58 && (cpLevels d).all (fun l => decide (l.2.2 = 0)) && fmtOk fmt &&
      decide (dn d 0x62 2 + 1 ≤ kPass fmt) && decide (dn d 0 8 < 2 ^ 56)) cILLEGAL_OPERAND (.got ())

/-- TLOAD (R240). -/
def execTload (f : EF) (s : State) : Out := cmdOp f s tloadCheck (fun d s => s.queueCmd f .weight 0x02 d)

/-! ### COLL (R241, R327 to R331, R367) -/

/-- What an axis is in a layout (R330). -/
inductive AxisUse where
  | partialSum
  | replicated
  | shard (t : Nat)
  deriving DecidableEq, Repr

def clUse (d : List Byte) (dst : Bool) (a : Nat) : AxisUse :=
  if nfld (clPart d dst) a 1 = 1 then .partialSum
  else match (List.range (clNdim d)).find? (fun t => nfld (clShard d dst t) a 1 == 1) with
    | some t => .shard t
    | none => .replicated

/-- A layout axis by axis. -/
def clLayout (d : List Byte) (dst : Bool) : List AxisUse := (List.range (clNax d)).map (clUse d dst)

/-- P_t under a layout (R330). -/
def shardProd (d : List Byte) (lay : List AxisUse) (t : Nat) : Nat :=
  lay.zipIdx.foldl (fun p u => if u.1 = .shard t then p * clAx d u.2 else p) 1

/-- Elements of the local shard under a layout (R331). -/
def shardElts (d : List Byte) (lay : List AxisUse) : Nat :=
  (List.range (clNdim d)).foldl (fun n t => n * (clDim d t / shardProd d lay t)) 1

/-- One layout meets R241 and R331: the four shard masks and the partial mask within NAX, no axis named twice, DIM_t a multiple of
P_t. -/
def layoutOk (d : List Byte) (dst : Bool) : Bool :=
  let ms := (List.range 4).map (clShard d dst) ++ [clPart d dst]
  ms.all (fun m => decide (m < 2 ^ clNax d)) &&
    (List.range (clNax d)).all (fun a => decide ((ms.filter (fun m => nfld m a 1 == 1)).length ≤ 1)) &&
    (List.range (clNdim d)).all (fun t => decide (shardProd d (clLayout d dst) t ≠ 0) && decide (clDim d t % shardProd d (clLayout d dst) t = 0))

/-- The fields of a COLL descriptor that need no other state (R241, R331). -/
def collShape (d : List Byte) : Bool :=
  decide (dn d 0 2 < 4096) && dz d 6 8 && dz d 0x25 0x28 && dz d 0x2D 0x30 && dz d 0x43 0x80 && decide (clEtype d ≤ 3) && decide (clRop d ≤ 4) &&
    (clRop d == 4) == (clEtype d == 3) && (clRop d != 1 || decide (clEtype d ≤ 1)) && decide (1 ≤ clNdim d) && decide (clNdim d ≤ 4) &&
    decide (1 ≤ clNax d) && decide (clNax d ≤ 4) && decide (1 ≤ clNch d) && decide (clNch d ≤ 64) && layoutOk d false && layoutOk d true &&
    clPart d true &&& (0xFF - clPart d false) == 0

/-- A communicator table entry (R327, R407, R409): member list, members, MAXF + 1, WEIGHT + 1, PRIO, VC. -/
structure Comm where
  mlist : Nat
  nmemb : Nat
  maxf : Nat
  weight : Nat
  prio : Nat
  vc : Nat
  deriving DecidableEq, Repr

def State.comm (s : State) (n : BitVec 12) : Option Comm :=
  let base := (s.reg regCOMMBASE).toNat
  let v := s.memNat (base + 16 * n.toNat) 16
  if base = 0 ∨ nfld v 0 1 = 0 ∨ nfld v 38 3 = 7 then none
  else some ⟨nfld v 72 56, nfld v 56 16 + 1, nfld v 48 4 + 1, nfld v 44 4 + 1, nfld v 41 3, nfld v 38 3⟩

/-- The member list, one COORD per rank. -/
def State.commMembers (s : State) (c : Comm) : List (BitVec 28) :=
  (List.range c.nmemb).map (fun r => BitVec.ofNat 28 (s.memNat (c.mlist + 8 * r) 8))

/-- COORD with the s field zero, as member lists hold it (R327). -/
def Context.rankCoord (x : Context) : BitVec 28 := x.coord28 &&& ~~~(0xFC00 : BitVec 28)

/-- The sequence counter of a communicator (R328). -/
def Arch.seqOf (a : Arch) (n : BitVec 12) : Option (BitVec 32) := (a.collSeq.find? (fun p => p.1 == n)).map Prod.snd

/-- COLL's checks at issue (R241, R328, R331, R367). A chunk tile outside the share is a tile outside the share (R15, R241; R331 has another
status for it; DESIGN CHOICE, log 62). -/
def collCheck (d : List Byte) (s : State) : Got Unit :=
  let chunks := (List.range (clNch d)).map (fun i => clChtile d + i)
  let n := shardElts d (clLayout d true) * clSize d
  let dt := s.tile (s.tileKey (clDtile d))
  need (collShape d) cILLEGAL_OPERAND
    (match s.comm (clComm d) with
     | none => .fault cILLEGAL_OPERAND
     | some c =>
       need ((List.range (clNax d)).foldl (fun p a => p * clAx d a) 1 == c.nmemb) cILLEGAL_OPERAND
        (need ((s.commMembers c).contains s.me.rankCoord) cACCESS_PROT
          (need (decide (s.me.arch.collSeq.length < 16) || (s.me.arch.seqOf (clComm d)).isSome) cILLEGAL_OPERAND
            (need (s.me.share.hasTile (clDtile d)) cACCESS_PROT
              (need (spRange (clSbuf d) (shardElts d (clLayout d false) * clSize d) && spRange (clDbuf d) n) cACCESS_PROT
                (need (chunks.all s.me.share.hasTile) cACCESS_PROT
                  (need (dt.base == clDbuf d && dt.expected == n / 4 && chunks.all (fun t => decide (4096 ≤ (s.tile (s.tileKey t)).size)))
                    cILLEGAL_OPERAND (.got ()))))))))

/-- The source buffer of a COLL at its issue, by offset; its commit takes what it holds then (R342). -/
def State.srcNow (s : State) (d : List Byte) : List (Nat × Byte) :=
  (byteAddrs (clSbuf d) (shardElts d (clLayout d false) * clSize d)).map (fun o => (o, s.sp.get (spKey s.myX o)))

/-- COLL (R241, R328): it takes the communicator's next sequence number. -/
def execColl (f : EF) (s : State) : Out :=
  cmdOp f s collCheck (fun d s =>
    let n := clComm d
    let seq := (s.me.arch.seqOf n).getD 0
    if s.queueFull f .coll then s.block
    else (s.queueCmd f .coll 0x03 d { seq := seq, src := s.srcNow d }).modMe (fun x => x.modArch (fun a => { a with
      collSeq := (n, seq + 1) :: a.collSeq.filter (fun p => p.1 != n) })))

/-! ### MCST (R243, R412, R414) -/

/-- A group table entry as its 64 bytes, where GRPBASE is set. -/
def State.groupEnt (s : State) (g : Nat) : List Byte := s.memBytes ((s.reg regGRPBASE).toNat + 64 * g) 64

/-- The entry is valid (R407, R412): WBASE in DRAM of this package, WSIZE within its limits, unlisted bytes zero. -/
def State.groupOk (s : State) (g : Nat) : Bool :=
  let e := s.groupEnt g
  let w := dn e 8 8
  decide (s.reg regGRPBASE ≠ 0) && nfld (dn e 0 1) 0 1 == 1 && decide (dn e 0 1 < 8) && dz e 1 2 && dz e 0x16 0x18 && dz e 0x1C 0x20 && dz e 0x28 0x40 &&
    decide (w < 2 ^ 56) && paPkg w == s.myPkg && paRegion w == 0 && w % 64 == 0 && dn e 0x10 4 % 64 == 0 && decide (128 ≤ dn e 0x10 4)

def State.groupFlag (s : State) (g i : Nat) : Bool := s.groupOk g && nfld (dn (s.groupEnt g) 0 1) i 1 == 1

/-- MCST's checks at issue (R243, R414). -/
def mcstCheck (d : List Byte) (s : State) : Got Unit :=
  let g := mcGroup d
  need (decide (g < 4096) && decide (dn d 2 2 < 4) && dz d 0x28 0x80 && mcLen d % 64 == 0 && decide (64 ≤ mcLen d) && decide (mcLen d ≤ 65536) &&
      mcSrc d % 64 == 0 && mcOffs d % 64 == 0 && (!mcFlag d 1 || mcSeqa d % 8 == 0)) cILLEGAL_OPERAND
    (need (spRange (mcSrc d) (mcLen d) && (!mcFlag d 1 || spRange (mcSeqa d) 8)) cACCESS_PROT
      (need (s.groupFlag g 2) cACCESS_PROT
        (need (decide (mcOffs d + mcLen d + 64 ≤ dn (s.groupEnt g) 0x10 4)) cILLEGAL_OPERAND (.got ()))))

/-- MCST (R243): the implicit checkpoint comes before anything of it (R316). -/
def execMcst (f : EF) (s : State) : Out :=
  cmdOp f (if s.me.arch.rg f.g.toNat then s.ensureCkpt else s) mcstCheck (fun d s => s.queueCmd f .mcast 0x04 d)

/-! ### Sketch commands (R245) -/

/-- A header address of a sketch command (R116, R392). -/
def skAddrOk (a : Nat) : Bool := a % 64 == 0 && decide (a < 2 ^ 56)

def skaddCheck (d : List Byte) (_ : State) : Got Unit :=
  need (dz d 0x18 0x80 && skAddrOk (skDst d) && skAddrOk (skSrc d)) cILLEGAL_OPERAND (.got ())

/-- SKSCL: FACTOR finite, FLAGS within [0] (R245). -/
def sksclCheck (d : List Byte) (_ : State) : Got Unit :=
  need (dz d 0x18 0x80 && skAddrOk (skDst d) && decide (nfld (dn d 0x10 4) 23 8 ≠ 255) && decide (dn d 0x14 4 < 2)) cILLEGAL_OPERAND (.got ())

def skzeroCheck (d : List Byte) (_ : State) : Got Unit := need (dz d 0x18 0x80 && skAddrOk (skDst d)) cILLEGAL_OPERAND (.got ())

def execSkadd (f : EF) (s : State) : Out := cmdOp f s skaddCheck (fun d s => s.queueCmd f .sketch 0x05 d)
def execSkscl (f : EF) (s : State) : Out := cmdOp f s sksclCheck (fun d s => s.queueCmd f .sketch 0x06 d)
def execSkzero (f : EF) (s : State) : Out := cmdOp f s skzeroCheck (fun d s => s.queueCmd f .sketch 0x07 d)

/-! ### MULOAD and EPLOAD (R246, R352) -/

/-- The checks of a store load of words of `w` bytes into a store of `lim` words. -/
def loadCheck (w lim : Nat) (d : List Byte) (s : State) : Got Unit :=
  need (ldSrc d % w == 0 && decide (1 ≤ ldCount d) && decide (ldFirst d + ldCount d ≤ lim) && decide (dn d 0x0C 2 < 2) && dz d 0x0E 0x80)
    cILLEGAL_OPERAND
    (need s.storeOwner cACCESS_PROT (cpAddr s (ldSp d) false (ldSrc d) (.got ())))

def execMuload (f : EF) (s : State) : Out := cmdOp f s (loadCheck 8 8192) (fun d s => s.queueCmd f .copy 0x08 d)
def execEpload (f : EF) (s : State) : Out := cmdOp f s (loadCheck 4 512) (fun d s => s.queueCmd f .copy 0x09 d)

end Sys2Proof.Machine
end

