-- ==== Sys2Proof/Machine/Words.lean ====
section
/-! DEFINITION. The microprogram words (R201 to R214). Each takes effect whole, before the next begins (R200). -/

namespace Sys2Proof.Machine

open Sys2Proof

/-! ### Flow and parameters (R201) -/

def execMunop (f : WF) (s : State) : Out := wordOp (.munop f) s (fun r => .got (s.nextWord r))

/-- MEND: the routine has ended; CALL_COMPLETE follows (R189). -/
def execMend (f : WF) (s : State) : Out := wordOp (.mend f) s (fun r => .got { s with run := some { r with ended := true } })

/-- Goes on at a target word. -/
def State.jumpWord (s : State) (r : CallRun) (t : Nat) : State := { s with run := some { r with word := t, stallSince := none } }

def execMlp (f : WF) (s : State) : Out :=
  wordOp (.mlp f) s (fun r =>
    let c := nfld f.f0.toNat 0 3
    let v := r.pr c - 1
    let r := { r with p := setNth r.p c v }
    .got (if v = 0 then s.nextWord r else s.jumpWord r (nfld f.imm.toNat 0 13)))

/-- The conditions of MBRN. -/
def mbrnCond (c : Nat) (a b : W64) : Bool :=
  match c with
  | 0 => a == b
  | 1 => a != b
  | 2 => a.slt b
  | 3 => !a.slt b
  | 4 => a.ult b
  | _ => !a.ult b

def execMbrn (f : WF) (s : State) : Out :=
  wordOp (.mbrn f) s (fun r =>
    let t := mbrnCond (nfld f.f2.toNat 0 3) (r.pr (nfld f.f0.toNat 0 3)) (r.pr (nfld f.f1.toNat 0 3))
    .got (if t then s.jumpWord r (nfld f.imm.toNat 0 13) else s.nextWord r))

def execPadd (f : WF) (s : State) : Out :=
  wordOp (.padd f) s (fun r =>
    .got (s.nextWord { r with p := setNth r.p (nfld f.f0.toNat 0 3) (r.pr (nfld f.f1.toNat 0 3) + immP f.imm) }))

/-- PSET: one chunk of a parameter. -/
def psetV (chunk : Nat) (old : W64) (imm : BitVec 24) : W64 :=
  match chunk with
  | 0 => immP imm
  | 1 => setFld old 24 24 imm.toNat
  | _ => setFld old 48 16 imm.toNat

def execPset (f : WF) (s : State) : Out :=
  wordOp (.pset f) s (fun r =>
    let d := nfld f.f0.toNat 0 3
    .got (s.nextWord { r with p := setNth r.p d (psetV (nfld f.f4.toNat 0 2) (r.pr d) f.imm) }))

/-! ### Semaphores (R202) -/

/-- Whether some context's SWAIT on semaphore `n` can be satisfied now: contexts come before the sequencer (R226). -/
def State.swaitAny (s : State) (n : BitVec 8) : Bool :=
  ctxIds.any (fun d => match (s.ctx d).wait with
    | .swait m t _ _ => m == n && s.semReady n t
    | _ => false)

def execMwait (f : WF) (s : State) : Out :=
  wordOp (.mwait f) s (fun r =>
    let n : BitVec 8 := f.f3
    let t := nfld f.f4.toNat 0 4
    if !(s.callCtx r).share.hasSem n then .fault cACCESS_PROT
    else if s.semLatched n then .fault (s.semCode.get n.toNat)
    else if s.semReady n t ∧ !s.swaitAny n then .got ((s.semTake n t).nextWord r)
    else .got s)

def execMsig (f : WF) (s : State) : Out :=
  wordOp (.msig f) s (fun r =>
    let n : BitVec 8 := f.f3
    if !(s.callCtx r).share.hasSem n then .fault cACCESS_PROT
    else match s.semSignal n (nfld f.f4.toNat 0 4) with
      | some s' => .got (s'.nextWord r)
      | none => .fault cILLEGAL_OPERAND)

/-! ### Sources and banks (R203 to R205) -/

/-- The source that a WSTR or ASTR names. -/
def srcOf (f : WF) : Src :=
  { tload := f.f0.getLsbD 3, preg := nfld f.f0.toNat 0 3, fmt := f.f1.setWidth 4, sreg := nfld f.f2.toNat 0 3, stride := f.imm.toNat }

def execWstr (f : WF) (s : State) : Out := wordOp (.wstr f) s (fun r => .got (s.nextWord { r with wsrc := some (srcOf f) }))
def execAstr (f : WF) (s : State) : Out :=
  wordOp (.astr f) s (fun r => .got (s.nextWord { r with asrc := some (srcOf f), useChain := false }))

def CallRun.bank (r : CallRun) (b : Nat) : Bank := if b = 0 then r.wb0 else r.wb1
def CallRun.setBank (r : CallRun) (b : Nat) (k : Bank) : CallRun := if b = 0 then { r with wb0 := k } else { r with wb1 := k }

/-- A delivered weight block as a bank: its rows, then 16 bytes of scale records a row for a KB format (R240). -/
def bankOfBlock (b : WBlock) : Bank :=
  let rb := rowBytes b.fmt.toNat 128
  { full := true, fmt := b.fmt
    rows := (List.range b.k).map (fun k => (b.bytes.drop (k * rb)).take rb)
    scales := if b.fmt.toNat < 8 then (List.range b.k).map (fun _ => [])
      else (List.range b.k).map (fun k => (List.range 8).map (fun j =>
        BitVec.ofNat 16 (ofLe ((b.bytes.drop (b.k * rb + 16 * k + 2 * j)).take 2)))) }

/-- WLD (R204). A block of the wrong shape stays in the buffer. -/
def execWld (f : WF) (s : State) : Out :=
  wordOp (.wld f) s (fun r =>
    let b := nfld f.f0.toNat 0 1
    let k := f.f3.toNat + 256 * nfld f.f4.toNat 0 1 + 1
    match r.wsrc with
    | none => .fault cILLEGAL_OPERAND
    | some src =>
      if kPass src.fmt.toNat < k then .fault cILLEGAL_OPERAND
      else if src.tload then
        if f.imm ≠ 0 then .fault cILLEGAL_OPERAND
        else match (s.callCtx r).wbuf with
          | [] => .got s
          | blk :: rest =>
            if blk.fmt ≠ src.fmt ∨ blk.k ≠ k then .fault cILLEGAL_OPERAND
            else .got ((s.mod r.ctx (fun x => { x with wbuf := rest })).nextWord (r.setBank b (bankOfBlock blk)))
      else match readRows s r src 128 k (r.pr src.preg + immP f.imm) with
        | .wait => .wait
        | .fault e => .fault e
        | .meets b => .meets b
        | .got (s, rows, scales) => .got (s.nextWord (r.setBank b { full := true, fmt := src.fmt, rows, scales })))

/-- The nibble of column `n` in group `g` of 2:4 metadata: idx0 and idx1 (R205). -/
def metaIdx (m : List Byte) (g n : Nat) : Nat × Nat :=
  let v := nfld (nth m (64 * g + n / 2)).toNat (4 * (n % 2)) 4
  (v % 4, v / 4)

/-- SPSEL (R205). -/
def execSpsel (f : WF) (s : State) : Out :=
  wordOp (.spsel f) s (fun r =>
    let b := nfld f.f0.toNat 0 1
    let bk := r.bank b
    let k := bk.rows.length
    if !bk.full ∨ k % 2 ≠ 0 ∨ !class8 bk.fmt.toNat then .fault cILLEGAL_OPERAND
    else match s.readReady r.ctx (r.pr (nfld f.f0.toNat 3 3) + immP f.imm).toNat (32 * k) with
      | .wait => .wait
      | .fault e => .fault e
      | .meets b => .meets b
      | .got m =>
        if (List.range (k / 2)).any (fun g => (List.range 128).any (fun n => decide ((metaIdx m g n).2 ≤ (metaIdx m g n).1))) then
          .fault cSPARSE_META
        else .got (s.nextWord (r.setBank b { bk with hasMeta := true, mdata := m })))

/-! ### Accumulation (R206 to R209) -/

/-- ZACC (R206). -/
def execZacc (f : WF) (s : State) : Out :=
  wordOp (.zacc f) s (fun r =>
    let t := nfld f.f0.toNat 0 3
    accTile s r t (
      let lo := accIdx t f.f3.toNat 0
      let hi := accIdx t (f.f3.toNat + f.f4.toNat + 1) 0
      .got ({ s with acc := s.acc.filter (fun p => decide (p.1 < lo) || decide (hi ≤ p.1)), bad := s.accMended lo (hi - lo) }.nextWord r)))

/-- The A source of a word: a scratchpad source or the chain, with its format code. -/
inductive ASource where
  | sp (src : Src)
  | chain (c : Chain)

def CallRun.aSource (r : CallRun) : Option ASource := if r.useChain then r.chain.map .chain else r.asrc.map .sp

def ASource.fmt : ASource → Nat
  | .sp s => s.fmt.toNat
  | .chain c => c.fmtCode

/-- A row of `n` elements of the A source, as values: row `i` after the word's imm (R207, R210). -/
def aRow (s : State) (r : CallRun) (a : ASource) (imm : BitVec 24) (i n : Nat) : Got (State × List FV) :=
  match a with
  | .sp src =>
    match readRow s r src (r.pr src.preg + immP imm + BitVec.ofNat 64 (i * src.stride)).toNat n with
    | .wait => .wait
    | .fault e => .fault e
    | .meets b => .meets b
    | .got (s, bs, sc) => .got (s, rowVals src.fmt.toNat bs sc n)
  | .chain c =>
    let row := c.rows.getD (imm.toNat + i) []
    let sc := c.scales.getD (imm.toNat + i) []
    if c.cols < n then .fault cILLEGAL_OPERAND
    else .got (s, (List.range n).map (fun k => elemBits c.fmtCode (row.getD k 0) (nth sc (k / 16)).toNat k))

/-- The products' operands of column n of a RUN, in increasing compressed k (R207, R208). -/
def runPairs (bk : Bank) (w : List (List FV)) (sparse : Bool) (a : List FV) (n : Nat) : List (FV × FV) :=
  w.zipIdx.map (fun p =>
    let k := p.2
    let i := if sparse then
        let ix := metaIdx bk.mdata (k / 2) n
        4 * (k / 2) + (if k % 2 = 0 then ix.1 else ix.2)
      else k
    (a.getD i (.fin false 0 0), p.1.getD n (.fin false 0 0)))

/-- The rows of a RUN, from row i on: each reads its A row, then adds its group sums to the accumulator row. -/
def runRows (r : CallRun) (a : ASource) (bk : Bank) (w : List (List FV)) (sparse int : Bool) (f : WF) (t : Nat) :
    Nat → Nat → State → Got (State × List (Nat × List W32) × BitVec 6)
  | 0, _, s => .got (s, [], 0)
  | m + 1, i, s =>
    let k := bk.rows.length
    match aRow s r a f.imm i (if sparse then 2 * k else k) with
    | .wait => .wait
    | .fault e => .fault e
    | .meets b => .meets b
    | .got (s, av) =>
      let old := s.accRow t (f.f3.toNat + i)
      let new := old.zipIdx.map (fun p => accWord int (decide (bk.fmt = 3)) p.1 (runPairs bk w sparse av p.2))
      match runRows r a bk w sparse int f t m (i + 1) s with
      | .wait => .wait
      | .fault e => .fault e
      | .meets b => .meets b
      | .got (s, rows, fl) =>
        .got (s, (f.f3.toNat + i, new.map Prod.fst) :: rows, new.foldl (fun f p => f ||| p.2) fl)

/-- ⌈n / d⌉. -/
def ceilDiv (n d : Nat) : Nat := (n + d - 1) / d

/-- BF16 pairs only with BF16 (R194). -/
def pairOk (a w : Nat) : Bool := decide (a = 3) == decide (w = 3)

/-- RUN (R207, R208, R213): the rows are written only when every row has been read and verified. -/
def execRunW (f : WF) (s : State) : Out :=
  if s.arrayFenced then .next s else wordOp (.runW f) s (fun r =>
    let t := nfld f.f0.toNat 0 3
    let bk := r.bank (nfld f.f0.toNat 3 1)
    let sparse := f.f0.getLsbD 4
    let m := f.f4.toNat + 1
    accTile s r t (
      match r.aSource with
      | none => .fault cILLEGAL_OPERAND
      | some a =>
        let chainBad : Bool := match a with
          | .chain c => decide (128 ≤ f.imm.toNat) || decide (c.rows.length < f.imm.toNat + m) || decide (c.tile = t)
          | .sp _ => false
        if !bk.full ∨ (sparse ∧ !bk.hasMeta) ∨ !pairOk a.fmt bk.fmt.toNat ∨ chainBad then .fault cILLEGAL_OPERAND
        else
          let w := (bk.rows.zip bk.scales).map (fun p => rowVals bk.fmt.toNat p.1 p.2 128)
          s.accReads t f.f3.toNat m (match runRows r a bk w sparse (decide (a.fmt = 0) && decide (bk.fmt = 0)) f t m 0 s with
          | .wait => .wait
          | .fault e => .fault e
          | .meets b => .meets b
          | .got (s, rows, fl) =>
            let n := m * ceilDiv bk.rows.length (if bk.fmt = 3 then 4 else 16)
            .got ((rows.foldl (fun s p => s.putAccRow t p.1 p.2) s).nextWord
              { r with flags := r.flags ||| fl, verif := r.verif + n * (1 + r.mismatch) }))))

/-- OPRK (R209). It waits while the array is under test (R429). -/
def execOprk (f : WF) (s : State) : Out :=
  if s.arrayFenced then .next s else wordOp (.oprk f) s (fun r =>
    let t := nfld f.f0.toNat 0 3
    let n := f.f3.toNat + 256 * nfld f.f4.toNat 0 1 + 1
    accTile s r t (
      match r.aSource, r.wsrc with
      | some (.sp sa), some sw =>
        if sw.tload ∨ !pairOk sa.fmt.toNat sw.fmt.toNat then .fault cILLEGAL_OPERAND
        else s.accReads t 0 128 (match readRows s r sa 128 n (r.pr sa.preg) with
          | .wait => .wait
          | .fault e => .fault e
          | .meets b => .meets b
          | .got (s, ar, asc) =>
            match readRows s r sw 128 n (r.pr sw.preg) with
            | .wait => .wait
            | .fault e => .fault e
            | .meets b => .meets b
            | .got (s, br, bsc) =>
              let av := (ar.zip asc).map (fun p => rowVals sa.fmt.toNat p.1 p.2 128)
              let bv := (br.zip bsc).map (fun p => rowVals sw.fmt.toNat p.1 p.2 128)
              let int := decide (sa.fmt = 0) && decide (sw.fmt = 0)
              let zero : FV := .fin false 0 0
              let done := (List.range 128).map (fun i =>
                (s.accRow t i).zipIdx.map (fun p =>
                  accWord int (decide (sw.fmt = 3)) p.1 ((av.zip bv).map (fun q => (q.1.getD i zero, q.2.getD p.2 zero)))))
              let fl := done.foldl (fun f row => row.foldl (fun f p => f ||| p.2) f) 0
              .got ((done.zipIdx.foldl (fun s p => s.putAccRow t p.2 (p.1.map Prod.fst)) s).nextWord
                { r with flags := r.flags ||| fl, verif := r.verif + ceilDiv n (if sw.fmt = 3 then 4 else 16) * (1 + r.mismatch) }))
      | _, _ => .fault cILLEGAL_OPERAND))

/-! ### The chain path (R210) -/

/-- The format code of a chain in an es register's FMT; FP16 and INT4 have none (R193, R210). -/
def chainFmt (fmt : Nat) : Option Nat :=
  match fmt with
  | 0 => some 1
  | 1 => some 2
  | 2 => some 3
  | 4 => some 0
  | 6 => some 9
  | 7 => some 11
  | 8 => some 15
  | _ => none

/-- The chain rows of an ACHN, shaped one after another. -/
def chainRows (s : State) (r : CallRun) (t i cols : Nat) : Nat → Nat → Arch → List (List Nat) × List (List Half) × Arch × BitVec 6
  | 0, _, a => ([], [], a, 0)
  | n + 1, row, a =>
    let o := shapeRow a i row ((s.accRow t row).take cols) (callRnd r row r.nAchn 0xAC)
    let rest := chainRows s r t i cols n (row + 1) o.a
    (o.ys :: rest.1, (o.recs.map (BitVec.ofNat 16)) :: rest.2.1, rest.2.2.1, o.flags ||| rest.2.2.2)

/-- ACHN (R210). -/
def execAchn (f : WF) (s : State) : Out :=
  wordOp (.achn f) s (fun r =>
    let t := nfld f.f0.toNat 0 3
    let i := nfld f.f1.toNat 0 2
    let cols := nfld f.imm.toNat 0 7 + 1
    let count := f.f4.toNat + 1
    let a := (s.callCtx r).arch
    let d := a.es i
    accTile s r t (esOwned d (
      match chainFmt (esFmt d) with
      | none => .fault cILLEGAL_OPERAND
      | some cf =>
        if 8 ≤ cf ∧ esAxisCol d then .fault cILLEGAL_OPERAND
        else s.accReads t f.f3.toNat count (
          let o := chainRows s r t i cols count f.f3.toNat (a.tileStart i f.f3.toNat count cols)
          let c : Chain := { fmtCode := cf, cols, rows := o.1, scales := o.2.1, tile := t }
          .got ((s.mod r.ctx (fun x => { x with arch := o.2.2.1 })).nextWord
            { r with chain := some c, useChain := true, nAchn := r.nAchn + 1, flags := r.flags ||| o.2.2.2 })))))

/-! ### Drains and checksums (R212, R214) -/

/-- DRN (R212): the epilogue program begins at the first row, with one tile start for each register of its NRWs (R54). -/
def execDrn (f : WF) (s : State) : Out :=
  wordOp (.drn f) s (fun r =>
    let t := nfld f.f0.toNat 0 3
    let prog := if f.f1.getLsbD 3 then nfld f.f1.toNat 0 3 else fld (nth r.call.m 7) 24 3
    let row0 := f.f3.toNat
    accTile s r t (s.accReads t row0 1 (
      let x := s.callCtx r
      let regs := (nrwOf (s.epiProg prog)).eraseDups.filter (fun i => decide (esOwn (x.arch.es i) = 2))
      let a := regs.foldl (fun a i => a.tileStart i row0 (f.f4.toNat + 1) 128) x.arch
      let e : EpiRun :=
        { w := f, prog, row := row0, row0, last := row0 + f.f4.toNat, word := 0
          x := s.accRow t row0 :: List.replicate 7 (List.replicate 128 0), esd := x.arch.esd, esw := x.arch.esw }
      .got { s.mod r.ctx (fun x => { x with arch := a }) with run := some { r with epi := some e, stallSince := none } })))

/-- CKSV (R214): 16 uncounted bytes inside one tile of the share, in any state. -/
def execCksv (f : WF) (s : State) : Out :=
  wordOp (.cksv f) s (fun r =>
    let off := (r.pr (nfld f.f0.toNat 0 3) + immP f.imm).toNat
    let key := spKey s.myX off
    let one := match s.coverAll (s.ownTile r.ctx) (byteAddrs key 16) with
      | some [_] => decide (off + 16 ≤ 0x180000)
      | _ => false
    if !one then .fault cACCESS_PROT
    else if s.spFenced (byteAddrs key 16) then .wait
    else
      let bs := leBytes 4 (min r.verif (2 ^ 32 - 1)) ++ leBytes 4 (min r.reexec (2 ^ 32 - 1)) ++ leBytes 8 0
      let r := if f.f0.getLsbD 3 then { r with verif := 0, reexec := 0 } else r
      .got ((s.spPut key bs).nextWord r))

end Sys2Proof.Machine
end

