-- ==== Sys2Proof/Machine/Epilogue.lean ====
section
/-! DEFINITION. The epilogue instructions (R215 to R224): each works on the row that the running DRN drains. -/

namespace Sys2Proof.Machine

open Sys2Proof

/-- The shape of every epilogue instruction's meaning: nothing where no program runs; a nonzero zero field or a reserved
code faults, named by its DRN (R191, R216). -/
def epiOp (i : Instr) (s : State) (eff : CallRun → EpiRun → Got State) : Out :=
  match s.run with
  | none => .next s
  | some r =>
    match r.epi with
    | none => .next s
    | some e =>
      if !operandsOk i then .next (s.callFault r cILLEGAL_OPERAND)
      else match eff r e with
        | .got s' => .next s'
        | .wait => .next { s with run := some { r with stallSince := some (r.stallSince.getD s.gtb) } }
        | .fault c => .next (s.callFault r c)
        | .meets b => .next (s.callMeets r b)

/-- Goes on at the next instruction of the program. -/
def State.nextEpi (s : State) (r : CallRun) (e : EpiRun) : State :=
  { s with run := some { r with epi := some { e with word := e.word + 1 }, stallSince := none } }

/-- The lanes of register x_i. -/
def EpiRun.reg (e : EpiRun) (i : BitVec 3) : List W32 := e.x.getD i.toNat []
def EpiRun.setReg (e : EpiRun) (i : BitVec 3) (v : List W32) : EpiRun := { e with x := setNth e.x i.toNat v }

/-- Writes the lanes of xd, with the flags that the lanes raise. -/
def epiWrite (s : State) (r : CallRun) (e : EpiRun) (d : BitVec 3) (vs : List (W32 × BitVec 6)) : Got State :=
  .got (s.nextEpi { r with flags := vs.foldl (fun f v => f ||| v.2) r.flags } (e.setReg d (vs.map Prod.fst)))

/-- A lane-wise operation on xa, on xa and xb, and on xa, xb and xc (R218, R219). -/
def epi1 (i : Instr) (f : PF) (s : State) (op : W32 → W32 × BitVec 6) : Out :=
  epiOp i s (fun r e => epiWrite s r e f.d ((e.reg f.a).map op))
def epi2 (i : Instr) (f : PF) (s : State) (op : W32 → W32 → W32 × BitVec 6) : Out :=
  epiOp i s (fun r e => epiWrite s r e f.d (List.zipWith op (e.reg f.a) (e.reg f.b)))
def epi3 (i : Instr) (f : PF) (s : State) (op : W32 → W32 → W32 → W32 × BitVec 6) : Out :=
  epiOp i s (fun r e => epiWrite s r e f.d (List.zipWith (fun a p => op a p.1 p.2) (e.reg f.a) ((e.reg f.b).zip (e.reg f.c))))

/-! ### The row -/

/-- The words of an accumulator row, as they stood, in front of those already kept. -/
def keepAcc (s : State) (t row : Nat) (e : EpiRun) : EpiRun :=
  { e with undoAcc := ((s.accRow t row).zipIdx.map (fun p => (accIdx t row p.2, p.1))) ++ e.undoAcc }

/-- DONE (R212, R217, R219): the row ends, with zero-after; the next row begins, or the DRN ends. -/
def execEpiDone (f : PF) (s : State) : Out :=
  epiOp (.epiDone f) s (fun r e =>
    let t := nfld e.w.f0.toNat 0 3
    let z := e.w.f1.getLsbD 4
    let e := if z then keepAcc s t e.row e else e
    let s := if z then s.putAccRow t e.row (List.replicate 128 0) else s
    if e.row < e.last then s.accReads t (e.row + 1) 1
      (.got { s with run := some { r with epi := some { e with row := e.row + 1, word := 0, x := setNth e.x 0 (s.accRow t (e.row + 1)) }, stallSince := none } })
    else .got (s.nextWord { r with epi := none, nDrn := r.nDrn + 1 }))

/-- What a WRT is about to overwrite in scratchpad and count towards tiles, and in memory, in front of what is already kept. -/
def keepSp (s : State) (e : EpiRun) (cells : List (Nat × Byte)) : EpiRun :=
  let keys := cells.map Prod.fst
  { e with
    undoSp := keys.map (fun a => (a, s.sp.get a)) ++ e.undoSp
    undoTiles := ((s.coverAll (fun _ => true) keys).getD []).map (fun k => (k, s.tile k, s.wordsIn k keys)) ++ e.undoTiles }
def keepMem (s : State) (e : EpiRun) (cells : List (Nat × Byte)) : EpiRun :=
  { e with undoMem := cells.map (fun p => (p.1, s.mem.get p.1)) ++ e.undoMem }

/-! ### Lane operations -/

def execEpiAdd (f : PF) (s : State) : Out := epi2 (.epiAdd f) f s add32
def execEpiMul (f : PF) (s : State) : Out := epi2 (.epiMul f) f s mul32
def execEpiFma (f : PF) (s : State) : Out := epi3 (.epiFma f) f s (fun a b c => fma32V (dec32 a) (dec32 b) (dec32 c))

/-- FMIN and FMAX on FP32 lanes (R153). -/
def minMax32 (mx : Bool) (a b : W32) : W32 := BitVec.ofNat 32 (fMinMax f32 false false mx a.toNat b.toNat)

def execEpiMax (f : PF) (s : State) : Out := epi2 (.epiMax f) f s (fun a b => (minMax32 true a b, 0))
def execEpiMin (f : PF) (s : State) : Out := epi2 (.epiMin f) f s (fun a b => (minMax32 false a b, 0))
def execClmp (f : PF) (s : State) : Out :=
  epi3 (.clmp f) f s (fun a b c => (minMax32 false (minMax32 true a b) c, 0))

/-- RELU on one lane; a NaN stays NaN, as the canonical NaN (R218). -/
def reluV (a : W32) : W32 :=
  let v := dec32 a
  if !v.isNan && decide (v.cmp (.fin false 0 0) ≤ 0) then 0 else canon32 a

def execRelu (f : PF) (s : State) : Out := epi1 (.relu f) f s (fun a => (reluV a, 0))

/-- SEL: A where C is not 0 as 32 bits. -/
def execEpiSel (f : PF) (s : State) : Out := epi3 (.epiSel f) f s (fun a b c => (if c ≠ 0 then a else b, 0))

def execEpiExp2 (f : PF) (s : State) : Out := epi1 (.epiExp2 f) f s (exp2F false false)

/-- CVT by target (R27, R219). -/
def epiCvtV (t : Nat) (a : W32) : W32 × BitVec 6 :=
  let i (w : Nat) : W32 × BitVec 6 := let r := toInt w .rne (dec32 a); (BitVec.ofNat 32 (ofSigned 32 r.1), r.2)
  match t with
  | 0 => let r := bf16.rne (dec32 a); (BitVec.ofNat 32 r.1, r.2)
  | 1 => let r := f16.rne (dec32 a); (BitVec.ofNat 32 r.1, r.2)
  | 2 => i 32
  | 3 => i 16
  | 4 => i 8
  | _ => let r := f32.rne (FV.ofInt (toSigned 32 a.toNat)); (BitVec.ofNat 32 r.1, r.2)

def execEpiCvt (f : PF) (s : State) : Out := epi1 (.epiCvt f) f s (epiCvtV (nfld f.f.toNat 0 3))

/-- SCAL: by p[f][31:0]. -/
def execScal (f : PF) (s : State) : Out :=
  epiOp (.scal f) s (fun r e =>
    let p : W32 := (r.pr (nfld f.f.toNat 0 3)).setWidth 32
    epiWrite s r e f.d ((e.reg f.a).map (fun a => mul32 a p)))

/-- TBL: the 64 words of an epilogue program as a table (R221). -/
def execEpiTbl (f : PF) (s : State) : Out :=
  epiOp (.epiTbl f) s (fun r e =>
    let n := 64 * nfld f.f.toNat 0 3
    match s.badAt .ep (List.range' n 64) with
    | some b => .meets b
    | none => epiWrite s r e f.d ((e.reg f.a).map (tblV ((List.range 64).map (fun i => s.epWord (n + i))))))

/-! ### Reductions (R219) -/

/-- One level of the tree: lanes 2i and 2i + 1. -/
def treeStep (op : W32 → W32 → W32 × BitVec 6) : List (W32 × BitVec 6) → List (W32 × BitVec 6)
  | a :: b :: t => (let r := op a.1 b.1; (r.1, a.2 ||| b.2 ||| r.2)) :: treeStep op t
  | l => l

/-- The tree over seven levels. -/
def tree (op : W32 → W32 → W32 × BitVec 6) (xs : List W32) : W32 × BitVec 6 :=
  ((List.range 7).foldl (fun l _ => treeStep op l) (xs.map (fun x => (x, 0)))).headD (0, 0)

/-- Every lane takes the result of the tree. -/
def epiTree (i : Instr) (f : PF) (s : State) (op : W32 → W32 → W32 × BitVec 6) : Out :=
  epiOp i s (fun r e => epiWrite s r e f.d (List.replicate 128 (tree op (e.reg f.a))))

def execRmax (f : PF) (s : State) : Out := epiTree (.rmax f) f s (fun a b => (minMax32 true a b, 0))
def execRsum (f : PF) (s : State) : Out := epiTree (.rsum f) f s add32

/-! ### Scratchpad, shaper and queue -/

/-- LDB (R220). -/
def execLdb (f : PF) (s : State) : Out :=
  epiOp (.ldb f) s (fun r e =>
    let mode := nfld f.f.toNat 0 2
    let base := (r.pr f.a.toNat + BitVec.ofNat 64 (4 * nfld f.f.toNat 2 13)).toNat
    let off := if mode = 2 then (base + 4 * (e.row - e.row0)) % 2 ^ 64 else base
    match s.readReady r.ctx off (if mode = 0 then 512 else if mode = 1 then 256 else 4) with
    | .wait => .wait
    | .fault c => .fault c
    | .meets b => .meets b
    | .got bs =>
      let lane (n : Nat) : W32 :=
        if mode = 0 then BitVec.ofNat 32 (ofLe ((bs.drop (4 * n)).take 4))
        else if mode = 1 then widenF bf16 (ofLe ((bs.drop (2 * n)).take 2))
        else BitVec.ofNat 32 (ofLe bs)
      .got (s.nextEpi r (e.setReg f.d ((List.range 128).map lane))))

/-- NRW (R222). -/
def execEpiNrw (f : PF) (s : State) : Out :=
  epiOp (.epiNrw f) s (fun r e =>
    let i := nfld f.f.toNat 0 2
    let a := (s.callCtx r).arch
    let d := a.es i
    let kb := (targetOf (esFmt d)).kbM.isSome
    esOwned d (
      if kb ∧ esAxisCol d then .fault cILLEGAL_OPERAND
      else
        let o := shapeRow a i e.row (e.reg f.a) (callRnd r e.row r.nDrn 0xE0)
        let lanes := o.ys.zipIdx.map (fun p => shapeLane kb p.1 (o.recs.getD (p.2 / 16) 0))
        .got ((s.mod r.ctx (fun x => { x with arch := o.a })).nextEpi { r with flags := r.flags ||| o.flags } (e.setReg f.d lanes))))

/-- The bytes that WRT writes in modes `w32`, `w16` and `w8`, and the packed elements of mode `kb` (R223). -/
def wrtBytes (mode m : Nat) (xs : List W32) : List Byte :=
  match mode with
  | 0 => xs.flatMap (fun x => leBytes 4 x.toNat)
  | 1 => xs.flatMap (fun x => leBytes 2 x.toNat)
  | 2 => xs.flatMap (fun x => leBytes 1 x.toNat)
  | _ => (groupsOf 16 128 xs).flatMap (fun b => kbPack m (b.map BitVec.toNat))

/-- The physical addresses of the scale records of the blocks written at `off`, with their values (R32, R196, R223). A write
through an entry with WP = 1 waits (R389). -/
def scaleCells (s : State) (c : Fin 4) (base bs : Nat) : List (Nat × Nat) → Got (List (Nat × Byte))
  | [] => .got []
  | (off, v) :: t =>
    match s.covering (spKey s.myX off) with
    | none => .fault cACCESS_PROT
    | some k =>
      let x := s.ctx c
      match s.access x.arch x.asid .write ((base + 2 * ((off - (s.tile k).base) / bs)) % 2 ^ 64) with
      | .error e => s.gotFault c e [(base + 2 * ((off - (s.tile k).base) / bs)) % 2 ^ 64]
      | .ok p =>
        if p.wp ∨ s.homeHeld (byteAddrs p.pa 2) then .wait
        else match scaleCells s c base bs t with
          | .got l => .got (cellsOf p.pa 2 v ++ l)
          | .wait => .wait
          | .fault e => .fault e
          | .meets b => .meets b

/-- WRT (R223): the elements, then the scale records (R32), which wait alone where their page takes no writes (R389). In mode `kb` a block's
record is that of its first lane (DESIGN CHOICE, log 71). -/
def execWrt (f : PF) (s : State) : Out :=
  epiOp (.wrt f) s (fun r e =>
    let mode := nfld f.f.toNat 0 2
    let d := (s.callCtx r).arch.es (nfld f.f.toNat 2 2)
    let m := (targetOf (esFmt d)).kbM
    if mode = 3 ∧ (esOwn d ≠ 2 ∨ m.isNone) then .fault cILLEGAL_OPERAND
    else
      let off := (r.pr (nfld e.w.f0.toNat 3 3) + BitVec.ofNat 64 ((e.row - e.row0) * e.w.imm.toNat + 64 * nfld f.f.toNat 7 8)).toNat
      let bs := 2 * (m.getD 0 + 1)
      let xs := e.reg f.a
      let bytes := wrtBytes mode (m.getD 0) xs
      if 0x180000 < off + bytes.length then .fault cACCESS_PROT
      else
        let cells := bytes.zipIdx.map (fun p => (spKey s.myX off + p.2, p.1))
        match (if e.pushed = 0 then s.fillWrite r.ctx cells else .got s) with
        | .wait => .wait
        | .fault c => .fault c
        | .meets b => .meets b
        | .got s' =>
          let e := if e.pushed = 0 then keepSp s e cells else e
          let recs := if mode = 3 then
              scaleCells s' r.ctx (r.pr (nfld f.f.toNat 4 3)).toNat bs
                ((List.range 8).map (fun b => (off + b * bs, fld (nth xs (16 * b)) 16 16)))
            else .got []
          match recs with
          | .wait => .got { s' with run := some { r with epi := some { e with pushed := 1 } } }
          | .fault c => .fault c
          | .meets b => .meets b
          | .got mc =>
            if let some b := s'.tornAt .l2 (mc.map Prod.fst) then .meets b
            else .got ((s'.memWrite mc).nextEpi r { keepMem s' e mc with pushed := 0 }))

/-- PUSH (R224): entries enter q2 of the issuing context while it has a free place, in group order. -/
def execEpiPush (f : PF) (s : State) : Out :=
  epiOp (.epiPush f) s (fun r e =>
    let x := s.callCtx r
    let n := min (8 - e.pushed) (16 - x.qLen 2)
    let entry (g : Nat) : QSlot := { e := ⟨0xFFFF, ((e.reg f.a).drop (16 * g)).take 16⟩, vis := true, due := 0, tok := 0, born := x.tick }
    let x' := (List.range n).foldl (fun x i => x.push 2 (entry (e.pushed + i))) x
    let s := s.setCtx r.ctx x'
    if e.pushed + n < 8 then .got { s with run := some { r with epi := some { e with pushed := e.pushed + n } } }
    else .got (s.nextEpi r { e with pushed := 0 }))

end Sys2Proof.Machine
end

