-- ==== Sys2Proof/Machine/Scalar.lean ====
section
/-! DEFINITION. The integer, immediate, selection and move operations of the A slot (R108 to R114), and ANOP. -/

namespace Sys2Proof.Machine

open Sys2Proof

/-- The shape s[d] := op(s[a], s[b]) at width W, readable from n + k (R106, R108). -/
def aluReg (k : Nat) (op : Nat → Nat → Nat → Nat) (f : AF) (s : State) : Out :=
  slotOp f.g s (fun s =>
    let w := f.width
    s.land k 1 (.s f.d.toNat (wide w (op w ((s.aA f).toNat % 2 ^ w) ((s.aB f).toNat % 2 ^ w)))))

/-- ANOP has no effect; clearing its latch is the bundle's (R81). -/
def execAnop (f : AF) (s : State) : Out := slotOp f.g s (fun s => s)

def execAdd (f : AF) (s : State) : Out := aluReg 1 (fun _ a b => a + b) f s
def execSub (f : AF) (s : State) : Out := aluReg 1 (fun w a b => a + (2 ^ w - b)) f s
def execMul (f : AF) (s : State) : Out := aluReg 3 (fun _ a b => a * b) f s

/-- The high W bits of the signed product (R108). -/
def mulHigh (w a b : Nat) : Nat := ofSigned w (toSigned w a * toSigned w b / ((2 ^ w : Nat) : Int))
def execMulh (f : AF) (s : State) : Out := aluReg 3 mulHigh f s

/-- The quotient truncated towards zero; a divisor of zero gives all ones (R109). -/
def divSigned (w a b : Nat) : Nat := if b = 0 then 2 ^ w - 1 else ofSigned w ((toSigned w a).tdiv (toSigned w b))
def divUnsigned (w a b : Nat) : Nat := if b = 0 then 2 ^ w - 1 else a / b
def execDiv (f : AF) (s : State) : Out := aluReg 8 divSigned f s
def execDivu (f : AF) (s : State) : Out := aluReg 8 divUnsigned f s

def execAndA (f : AF) (s : State) : Out := aluReg 1 (fun _ a b => a &&& b) f s
def execOrA (f : AF) (s : State) : Out := aluReg 1 (fun _ a b => a ||| b) f s
def execXorA (f : AF) (s : State) : Out := aluReg 1 (fun _ a b => a ^^^ b) f s
def execShl (f : AF) (s : State) : Out := aluReg 1 (fun w a b => a * 2 ^ (b % w)) f s
def execShr (f : AF) (s : State) : Out := aluReg 1 (fun w a b => a / 2 ^ (b % w)) f s
def execSra (f : AF) (s : State) : Out :=
  aluReg 1 (fun w a b => ofSigned w (toSigned w a / ((2 ^ (b % w) : Nat) : Int))) f s
def execMinA (f : AF) (s : State) : Out := aluReg 1 (fun w a b => if toSigned w b < toSigned w a then b else a) f s
def execMaxA (f : AF) (s : State) : Out := aluReg 1 (fun w a b => if toSigned w a < toSigned w b then b else a) f s

/-- ADDI (R110). -/
def execAddi (f : AF) (s : State) : Out :=
  slotOp f.g s (fun s => s.land 1 1 (.s f.d.toNat (wide f.width ((s.aA f + s.aImm f).toNat))))

/-- LI (R110). -/
def execLi (f : AF) (s : State) : Out := slotOp f.g s (fun s => s.land 1 1 (.s f.d.toNat (s.aImm f)))

/-- LIH, chunk 0: bits [47:24] (R110). -/
def execLih (f : AF) (s : State) : Out :=
  slotOp f.g s (fun s => s.land 1 1 (.s f.d.toNat (setFld (s.aD f) 24 24 (fld (s.aImm f) 0 24))))

/-- LIH, chunk 1: bits [63:48] (R110). In a sticky form the low 16 bits of the running offset are written, whatever stands above them
(DESIGN CHOICE, log 58). -/
def execLihChunk1 (f : AF) (s : State) : Out :=
  slotOp f.g s (fun s => s.land 1 1 (.s f.d.toNat (setFld (s.aD f) 48 16 (fld (s.aImm f) 0 16))))

/-- CMP, register form (R111); a write of g0 is discarded where it lands (R13). -/
def execCmp (f : AF) (s : State) : Out :=
  slotOp f.g s (fun s => s.land 1 1 (landGuard f.d.toNat (cmpCond f.q.toNat (s.aA f) (s.aB f))))

/-- CMP, immediate form (R111). -/
def execCmpImmediate (f : AF) (s : State) : Out :=
  slotOp f.g s (fun s => s.land 1 1 (landGuard f.d.toNat (cmpCond f.q.toNat (s.aA f) (s.aImm f))))

/-- SEL (R112). -/
def execSelA (f : AF) (s : State) : Out :=
  slotOp f.g s (fun s => s.land 1 1 (.s f.d.toNat (if s.me.arch.rg (fld f.imm 0 4) then s.aA f else s.aB f)))

/-- MOVM to m (R114). -/
def execMovmToM (f : AF) (s : State) : Out := slotOp f.g s (fun s => s.land 1 1 (.m f.d.toNat (s.aA f)))

/-- MOVM from m (R114). -/
def execMovmFromM (f : AF) (s : State) : Out := slotOp f.g s (fun s => s.land 1 1 (.s f.d.toNat (s.me.arch.rm f.a.toNat)))

/-- MOVS of the guards to s (R113). -/
def execMovsToS (f : AF) (s : State) : Out := slotOp f.g s (fun s => s.land 1 1 (.s f.d.toNat (s.me.arch.gvec.setWidth 64)))

/-- MOVS of an s register to g1–g15 (R113). -/
def execMovsToG (f : AF) (s : State) : Out := slotOp f.g s (fun s => s.land 1 1 (.g 0xFFFE ((s.aA f).setWidth 16)))

end Sys2Proof.Machine
end

