-- ==== Sys2Proof/Machine/Control.lean ====
section
/-! DEFINITION. The S-slot operations on control flow, loops, guards, masks, FCR, FSR and queue masks (R136 to R146), and
SNOP. -/

namespace Sys2Proof.Machine

open Sys2Proof

/-- SNOP has no effect; clearing its latch is the bundle's (R81). -/
def execSnop (f : SF) (s : State) : Out := slotOp f.g s (fun s => s)

/-! ### Transfers -/

/-- A control operation that no active body may hold: there it faults whatever its guard (R139). -/
def outsideLoop (f : SF) (s : State) (eff : State → State) : Out :=
  if s.me.arch.inLoop then .next (s.issueFault cILLEGAL_OPERAND) else slotOp f.g s eff

/-- The next bundle's address: header + 4 × L (R136). -/
def State.afterPc (s : State) : Nat := s.me.arch.pc + 4 * bundleLen s.me.hdr

/-- A taken transfer (R136). -/
def State.goto (s : State) (t : Nat) : State := s.modMe (fun x => { x with nextPc := some t })

/-- The target of a branch form: header address + 4 × offset, modulo 2^64; a target that is no code address faults at its fetch (DESIGN
CHOICE, log 65). -/
def branchTarget (s : State) (f : SF) : Nat :=
  (BitVec.ofNat 64 s.me.arch.pc + 4 * (f.x.signExtend 64)).toNat

/-- A transfer to a register's value, which must be word aligned and below 2^56 (R136). -/
def jumpTo (v : W64) (s : State) : State :=
  if fld v 0 2 ≠ 0 ∨ fld v 56 8 ≠ 0 then s.issueFault cILLEGAL_OPERAND else s.goto v.toNat

def execBr (f : SF) (s : State) : Out := outsideLoop f s (fun s => s.goto (branchTarget s f))
def execBri (f : SF) (s : State) : Out := outsideLoop f s (fun s => jumpTo (s.me.arch.rs f.n) s)
def execCallS (f : SF) (s : State) : Out :=
  outsideLoop f s (fun s => (s.goto (branchTarget s f)).land 1 0 (.s 63 (BitVec.ofNat 64 s.afterPc)))
def execRet (f : SF) (s : State) : Out := outsideLoop f s (fun s => jumpTo (s.me.arch.rs 63) s)

/-! ### Loops -/

/-- Bundles of the body (R135). -/
def bodyLen (f : SF) : Nat := f.f 23 6 + 1

/-- A LOOP or LOOPSP inside an active body must name an idle register and end its body no later than the enclosing one; the
fault arises whatever its guard (R139). -/
def loopAllowed (f : SF) (s : State) : Bool :=
  match s.me.arch.loop with
  | none => true
  | some (_, l) =>
    !((s.me.arch.lps.getD (f.f 21 2) {}).active) && decide (s.bodyEnd s.cur (bodyLen f) s.afterPc ≤ l.stop)

def loopOp (f : SF) (s : State) (eff : State → State) : Out :=
  if loopAllowed f s then slotOp f.g s eff else .next (s.issueFault cILLEGAL_OPERAND)

/-- A loop that runs no times: each body bundle is checked, and the next bundle is the one after the body (R137). -/
def skipBody (f : SF) (s : State) (eff : State → State) : State :=
  match s.bodyCheck s.cur (bodyLen f) s.afterPc with
  | .ok t => eff (s.goto t)
  | .error (e, va) => (s.hit s.me.lid e (s.fetchWord s.cur va)).fatal s.cur e va 0

/-- Enters a loop. -/
def State.enterLoop (s : State) (f : SF) (l : LoopReg) : State :=
  let l := { l with
    active := true, start := s.afterPc, stop := s.bodyEnd s.cur (bodyLen f) s.afterPc,
    depth := (s.me.arch.lps.filter LoopReg.active).length }
  s.modMe (fun x => x.modArch (fun a => { a with lps := setNth a.lps (f.f 21 2) l }))

/-- The counts of a nest, outermost first (R137). -/
def loopCounts (f : SF) (s : State) : List Nat :=
  (List.range (f.f 18 3 + 1)).map (fun j => fld (s.me.arch.rs (f.n + j)) 0 32)

/-- LOOP (R137). -/
def execLoopS (f : SF) (s : State) : Out :=
  loopOp f s (fun s =>
    let ns := loopCounts f s
    if ns.any (· == 0) then skipBody f s (fun s => s)
    else s.enterLoop f { levels := ns.map (fun n => (0, n)), passes := ns.foldl (· * ·) 1 })

/-- LOOPSP (R67, R138): its stage predicates of pass 0 hold from the next tick, over whatever else lands then. With a trip count of
0 they are a result of the S slot. -/
def execLoopsp (f : SF) (s : State) : Out :=
  loopOp f s (fun s =>
    let n := fld (s.me.arch.rs f.n) 0 32
    let stages := f.f 18 3 + 1
    if n = 0 then skipBody f s (fun s => s.land 1 0 (.g (stageMask stages) 0))
    else
      (s.enterLoop f { sp := true, levels := [(0, n + stages - 1)], passes := n + stages - 1, trip := n, stages }).land 1 99
        (.g (stageMask stages) (stageVal stages n 0)))

/-- LBRK (R140): the loop and those nested in it become idle, and the bundle after its body comes next. Their stage predicates are cleared
with the results of the tick, after the results of its slots (R88; DESIGN CHOICE, log 66). -/
def execLbrk (f : SF) (s : State) : Out :=
  slotOp f.g s (fun s =>
    let l := s.me.arch.lps.getD (f.f 12 2) {}
    if l.active then
      let clear := fun (a : Arch) =>
        let off := a.lps.filter (fun k => k.active && decide (l.depth ≤ k.depth) && k.sp)
        let a := { a with lps := a.lps.map (fun k => if k.active && decide (l.depth ≤ k.depth) then {} else k) }
        off.foldl (fun a k => { a with landing := a.landing ++ [{ due := s.me.tick, pos := 99, act := .g (stageMask k.stages) 0 }] }) a
      (s.modMe (fun x => x.modArch clear)).goto l.stop
    else s)

/-! ### Guards and masks -/

/-- GLOG (R141); g0 reads true and discards writes (R13). -/
def execGlog (f : SF) (s : State) : Out :=
  slotOp f.g s (fun s =>
    let v := logOp (f.f 24 3) (BitVec.ofBool (s.me.arch.rg (f.f 16 4))) (BitVec.ofBool (s.me.arch.rg (f.f 20 4)))
    s.land 1 0 (landGuard (f.f 12 4) (v.getLsbD 0)))

/-- KLOG (R141) on all 128 bits. -/
def execKlog (f : SF) (s : State) : Out :=
  slotOp f.g s (fun s =>
    s.land 1 0 (.k (f.f 12 4) (BitVec.allOnes 128) (logOp (f.f 24 3) (s.me.arch.rk (f.f 16 4)) (s.me.arch.rk (f.f 20 4)))))

/-- KMOV from a k register, directions 0 and 1 (R142). -/
def execKmovFromK (f : SF) (s : State) : Out :=
  slotOp f.g s (fun s =>
    s.land 1 0 (.s f.n (BitVec.ofNat 64 (fld (s.me.arch.rk (f.f 18 4)) (64 * (f.f 22 2 % 2)) 64))))

/-- KMOV to a k register, directions 2 and 3 (R142). -/
def execKmovToK (f : SF) (s : State) : Out :=
  slotOp f.g s (fun s =>
    let sh := 64 * (f.f 22 2 % 2)
    let v := (s.me.arch.rs f.n).setWidth 128 <<< sh
    s.land 1 0 (.k (f.f 18 4) ((BitVec.allOnes 64).setWidth 128 <<< sh) v))

/-! ### FCR, FSR, queue masks -/

/-- FCRW (R144). -/
def execFcrw (f : SF) (s : State) : Out :=
  slotOp f.g s (fun s =>
    let v := s.me.arch.rs f.n
    if fld v 6 58 ≠ 0 then s.issueFault cILLEGAL_OPERAND else s.land 1 0 (.fcr v))

/-- FSRR (R145). -/
def execFsrr (f : SF) (s : State) : Out := slotOp f.g s (fun s => s.land 1 0 (.s f.n s.me.arch.fsr))

/-- FSRR with a clear (R145). -/
def execFsrrClear (f : SF) (s : State) : Out :=
  slotOp f.g s (fun s =>
    (s.land 1 0 (.s f.n s.me.arch.fsr)).land 1 0 (.fsrClear ((s.me.arch.rs f.n2).setWidth 6)))

/-- QMASK (R146). -/
def execQmask (f : SF) (s : State) : Out :=
  slotOp f.g s (fun s =>
    let q := f.f 18 3
    let m : BitVec 16 := if q = 0 then 0xFFFF else match s.me.qHead q with
      | some e => e.mask
      | none => 0
    s.needQ q (s.land 1 0 (.s f.n (m.setWidth 64))))

end Sys2Proof.Machine
end

