-- ==== Sys2Proof/Machine/Sync.lean ====
section
/-! DEFINITION. The S-slot operations on barriers, semaphores, time, nodes, ends, markers, breakpoints and system registers
(R248 to R260). What ends a wait they begin is in Landing.lean and Waits.lean. -/

namespace Sys2Proof.Machine

open Sys2Proof

/-! ### Hasp barriers (R249, R306 to R308): hasp n at key n, hasp0 of a launch at 64 + its identifier -/

def haspKey (lid : BitVec 32) (n : Nat) : Nat := if n = 0 then 64 + lid.toNat else n

def State.hasp (s : State) (k : Nat) : Hasp := aget {} s.hasps k
def State.setHasp (s : State) (k : Nat) (h : Hasp) : State := { s with hasps := aput s.hasps k h }

/-- How many contexts have arrived. -/
def popCount {w : Nat} (x : BitVec w) : Nat := ((List.range w).filter (fun i => x.getLsbD i)).length

/-- The phase releases, at the GTB count given (R249). -/
def Hasp.release (h : Hasp) (g : W64) : Hasp := { h with arrived := 0, phase := h.phase + 1, rel := g }

/-- Every member on this core has arrived. -/
def Hasp.full (h : Hasp) : Bool := decide (h.members ≤ popCount h.arrived)

/-- The phase releases once the arrivals reach the member count (R249); where members lie on other cores, their arrivals come
with HASP_RELEASE_DELIVERY. -/
def Hasp.settle (h : Hasp) (gtb : W64) : Hasp :=
  let h := { h with last := gtb }
  if h.full && !h.far then h.release gtb else h

/-- Context c arrives. -/
def State.arrive (s : State) (c : Fin 4) (k : Nat) : State :=
  let h := s.hasp k
  s.setHasp k ({ h with arrived := h.arrived ||| BitVec.ofNat 4 (2 ^ c.val) }.settle s.gtb)

def Hasp.has (h : Hasp) (c : Fin 4) : Bool := h.arrived.getLsbD c.val

/-- A context that has ended is no member any more; an arrival in the current phase goes with it (R308). -/
def State.leaveHasps (s : State) (c : Fin 4) : State :=
  let x := s.ctx c
  { s with hasps := s.hasps.map (fun p =>
      if p.1 = haspKey x.lid 0 ∨ (1 ≤ p.1 ∧ p.1 ≤ 47 ∧ inRange x.share.hasp p.1) then
        (p.1, { p.2 with members := p.2.members - 1, arrived := p.2.arrived &&& ~~~(BitVec.ofNat 4 (2 ^ c.val)) }.settle s.gtb)
      else p) }

/-- A wait of R249 that has ended: the context checkpoints before its next bundle (R316). -/
def Context.synced (x : Context) : Context := { x with wait := .run, ckptDue := true }

def haspOp (f : SF) (s : State) (eff : State → State) : Out :=
  slotOp f.g s (fun s =>
    if f.n = 0 then s.issueFault cILLEGAL_OPERAND
    else if !s.me.share.hasHasp f.n then s.issueFault cACCESS_PROT
    else eff s)

/-- BARA (R249). -/
def execBara (f : SF) (s : State) : Out :=
  haspOp f s (fun s =>
    let h := s.hasp f.n
    if h.has s.cur then s.modMe (fun x => { x with wait := .bara f.n h.phase })
    else (s.arrive s.cur f.n).modMe Context.synced)

/-- BARW (R249). -/
def execBarw (f : SF) (s : State) : Out :=
  haspOp f s (fun s =>
    let h := s.hasp f.n
    if h.has s.cur then s.modMe (fun x => { x with wait := .barw f.n h.phase }) else s.modMe Context.synced)

/-- The SSTEP of context c goes on once no timed command issued before it is outstanding: it arrives at hasp0 (R250). The implicit checkpoint has
committed those; a command of its own bundle issues after it, in a later slot (R93, R310; DEDUCED, log 76). -/
def State.sstepGo (s : State) (c : Fin 4) : State :=
  if (s.ctx c).cmds.any (fun k => k.timed && k.committed) then s.mod c (fun x => { x with wait := .sstepCmds })
  else (s.arrive c (haspKey (s.ctx c).lid 0)).mod c (fun x => { x with wait := .sstepHasp })

/-- SSTEP (R250): its implicit checkpoint, the wait for timed commands, the arrival at hasp0, the wait for the release. -/
def execSstep (f : SF) (s : State) : Out := outsideLoop f s (fun s => s.ensureCkpt.sstepGo s.cur)

/-! ### Semaphores -/

/-- Whether a context of a lower index waits for semaphore `n` and can be satisfied now: it comes first (R226). -/
def State.swaitBefore (s : State) (c : Fin 4) (n : BitVec 8) : Bool :=
  ctxIds.any (fun d => decide (d < c) && (match (s.ctx d).wait with
    | .swait m t _ _ => m == n && s.semReady n t
    | _ => false))

/-- What follows a satisfied SWAIT: the subtraction and, with `.acq`, the acquire over all classes at PKG scope (R252). -/
def State.swaitDone (s : State) (c : Fin 4) (n : BitVec 8) (t : Nat) (acq : Bool) : State :=
  let s := s.semTake n t
  (if acq then s.acquire 4 else s).mod c Context.synced

/-- SWAIT (R225, R252). -/
def execSwait (f : SF) (s : State) : Out :=
  slotOp f.g s (fun s =>
    let n := BitVec.ofNat 8 (f.f 12 8)
    let t := f.f 20 10
    let soft := decide (f.f 30 1 = 1)
    let acq := decide (f.f 31 1 = 1)
    let s := if s.me.hold.any (fun e => e.kind == .ssig || e.kind == .ssigClr) then s.ensureCkpt else s
    if !s.me.share.hasSem n then s.issueFault cACCESS_PROT
    else if s.semLatched n ∧ !soft then s.issueFault (s.semCode.get n.toNat)
    else if s.semReady n t ∧ !s.swaitBefore s.cur n then s.swaitDone s.cur n t acq
    else s.modMe (fun x => { x with wait := .swait n t acq soft }))

/-- A signal or a clear enters the holding buffer (R252, R288). -/
def ssigOp (f : SF) (s : State) (k : AccKind) : Out :=
  slotOp f.g s (fun s =>
    let n := BitVec.ofNat 8 (f.f 12 8)
    if !s.me.share.hasSem n then s.issueFault cACCESS_PROT
    else s.enter true { id := 0, kind := k, sem := n, inc := f.f 20 10 })

def execSsig (f : SF) (s : State) : Out := ssigOp f s .ssig
def execSsigClr (f : SF) (s : State) : Out := ssigOp f s .ssigClr

/-- SEMRD (R252). -/
def execSemrd (f : SF) (s : State) : Out :=
  slotOp f.g s (fun s =>
    let n := BitVec.ofNat 8 (f.f 18 8)
    if !s.me.share.hasSem n then s.issueFault cACCESS_PROT
    else s.land 1 0 (.s f.n (BitVec.ofNat 64
      ((s.semVal.get n.toNat).toNat + (if s.semLatched n then 2 ^ 16 else 0) + (s.semCode.get n.toNat).toNat * 2 ^ 24))))

/-! ### Time -/

/-- GTBR (R251, R446). -/
def execGtbr (f : SF) (s : State) : Out :=
  slotOp f.g s (fun s =>
    let r := s.input s.cur kGTBR s.gtb
    r.1.land 1 0 (.s f.n r.2))

/-- WAITT (R251): a target already passed costs nothing. -/
def execWaitt (f : SF) (s : State) : Out :=
  slotOp f.g s (fun s =>
    let t := s.me.arch.rs f.n + (if f.f 18 1 = 1 then s.me.arch.trel else 0)
    if t ≤ s.gtb then s else s.modMe (fun x => { x with wait := .waitt t }))

/-! ### Nodes and ends -/

/-- NODE (R253): the landing buffer must be empty; the checkpoint, then the wait for commands and calls; the sticky latches
clear; the node index and the next bundle's address are recorded. -/
def execNodeS (f : SF) (s : State) : Out :=
  outsideLoop f s (fun s =>
    if !s.me.arch.landing.isEmpty then s.issueFault cILLEGAL_NODE
    else
      let s := s.ensureCkpt
      s.modMe (fun x => { x with
        wait := .node (BitVec.ofNat 12 (f.f 16 12)) (BitVec.ofNat 4 (f.f 12 4))
        savedNode := BitVec.ofNat 12 (f.f 16 12)
        savedLive := BitVec.ofNat 4 (f.f 12 4)
        arch := { x.arch with latches := List.replicate 15 {} } }))

/-- END (R254): the checkpoint, then the wait for every command and call. -/
def execEndCtx (f : SF) (s : State) : Out :=
  outsideLoop f s (fun s =>
    s.ensureCkpt.modMe (fun x => { x with wait := .ending, arch := { x.arch with latches := List.replicate 15 {} } }))

/-! ### Markers and breakpoints -/

/-- MARK (R255, R438, R440, R447). -/
def execMarkS (f : SF) (s : State) : Out :=
  slotOp f.g s (fun s =>
    let x := s.me
    let drift : Int := (x.cycles : Int) - (f.x.toNat * 16 : Nat)
    let s := s.driftAppend s.cur 1 drift x.arch.pc
    let arm := bit x.arch.tracecfg 62 && decide (64 * fld x.arch.driftcfg 0 12 < drift.natAbs)
    let s := if arm then (s.driftAppend s.cur 3 drift x.arch.pc).modMe (fun x => { x with traceArm := some (2 ^ (fld x.arch.tracecfg 55 4 + 8)) })
      else s
    s.markSig s.cur)

/-- BRK (R255): with BKE set it is taken through the restore that every recoverable trap takes, and the context stops. -/
def execBrk (f : SF) (s : State) : Out :=
  outsideLoop f s (fun s =>
    let pc := s.me.arch.pc
    if !bit s.me.arch.tracecfg 63 then s
    else if s.me.brkPassed ∧ s.me.brkAt = pc then s.modMe (fun x => { x with brkPassed := false })
    else (s.trapRestore s.cur).modMe (fun x => { x with mode := .stopped, brkCode := f.x, brkAt := pc, brkPassed := true }))

/-! ### System registers (R256 to R260) -/

/-- The content of a system register as SYSR reads it (R256). -/
def sysGet (x : Context) (sel : Nat) : W64 :=
  match sel with
  | 0x01 => x.arch.fcr
  | 0x02 => x.arch.fsr
  | 0x03 => x.arch.lscale
  | 0x04 => x.arch.lscfg
  | 0x05 => x.arch.rkey
  | 0x06 => x.arch.rctr
  | 0x07 => x.arch.trel
  | 0x08 => x.arch.hbase
  | 0x09 => x.arch.hlimit
  | 0x0A => x.arch.hoffs
  | 0x0B => x.coord
  | 0x0C => x.ctxid
  | 0x0D => x.arch.driftcfg
  | 0x0E => x.arch.tracecfg
  | _ => 0

def execSysr (f : SF) (s : State) : Out := slotOp f.g s (fun s => s.land 1 0 (.s f.n (sysGet s.me f.n2)))

/-- A normal positive power of two in FP32 (R257). -/
def pow2Scale (v : Nat) : Bool := decide (v % 2 ^ 23 = 0) && decide (1 ≤ v / 2 ^ 23) && decide (v / 2 ^ 23 ≤ 254)

/-- The bounds a SYSW of LSCFG needs (R258). -/
def lscfgOk (v : W64) : Bool :=
  decide (-126 ≤ toSigned 8 (fld v 0 8)) && decide (toSigned 8 (fld v 0 8) ≤ toSigned 8 (fld v 8 8))

/-- LSCFG after a SYSW: SKIP keeps its value, the two sticky bits clear where the value has a 1 (R258). -/
def lscfgWrite (old v : W64) : W64 :=
  BitVec.ofNat 64 (fld v 0 32 + (fld old 32 3 * 2 ^ 32)) &&& ~~~(v &&& (0x3_0000_0000 : W64))

/-- DRIFTCFG and TRACECFG keep their read-only bits at 0; RMODE keeps its value once the launch has started (R437, R439). -/
def tracecfgWrite (old v : W64) : W64 := setFld (setFld v 44 3 0) 59 2 (fld old 59 2)

/-- What a SYSW of a selector lands, or the status it faults with (R256); a read-only register keeps its value (R4). -/
def syswLand (x : Context) (sel : Nat) (v : W64) : Except Byte Land :=
  match sel with
  | 0x01 => if fld v 6 58 ≠ 0 then .error cILLEGAL_OPERAND else .ok (.fcr v)
  | 0x02 => .ok (.fsrClear (v.setWidth 6))
  | 0x03 => if pow2Scale (fld v 0 32) then .ok (.sys 3 v) else .error cILLEGAL_OPERAND
  | 0x04 => if lscfgOk v then .ok (.sys 4 (lscfgWrite x.arch.lscfg v)) else .error cILLEGAL_OPERAND
  | 0x05 => .ok (.sys 5 v)
  | 0x06 => .ok (.sys 6 v)
  | 0x0D => .ok (.sys 0x0D (setFld v 56 4 0))
  | 0x0E => .ok (.sys 0x0E (tracecfgWrite x.arch.tracecfg v))
  | _ => .ok .nothing

/-- SYSW (R256, R446). -/
def execSysw (f : SF) (s : State) : Out :=
  slotOp f.g s (fun s =>
    let v := s.me.arch.rs f.n
    let r := if f.n2 = 6 then s.input s.cur kRCTR v else (s, v)
    match syswLand s.me f.n2 r.2 with
    | .ok l => r.1.land 1 0 l
    | .error c => s.issueFault c)

/-- RSEEK (R260, R446); it begins a record (R402). -/
def execRseek (f : SF) (s : State) : Out :=
  slotOp f.g s (fun s =>
    let r := s.input s.cur kRCTR (s.me.arch.rs f.n <<< f.n2)
    (r.1.land 1 0 (.sys 6 r.2)).modMe (fun x => x.modArch (fun a => { a with
      recs := a.recs ++ [(x.nextId, x.nextOrder)], recOpen := true })))

/-- LSUPD (R259). -/
def execLsupd (f : SF) (s : State) : Out :=
  slotOp f.g s (fun s =>
    let r := lossUpdate (decide (s.me.arch.rs f.n ≠ 0)) s.me.arch.lscale s.me.arch.lscfg
    ((s.land 1 0 (.sys 3 r.1)).land 1 0 (.sys 4 r.2.1)).land 1 0 (landGuard (f.f 18 4) r.2.2))

end Sys2Proof.Machine
end

