-- ==== Sys2Proof/Machine/Vector.lean ====
section
/-! DEFINITION. The V slot (R164 to R178, R396, R397): loads and stores of scratchpad and memory, transposing and extracting
loads, UNPK, gathers and scatters, vector atomics, sketch updates and queries, and PUSHQ, at slot position 6. -/

namespace Sys2Proof.Machine

open Sys2Proof

/-! ### Groups, addresses, lanes -/

/-- VNOP has no effect; clearing its latch is the bundle's (R81). -/
def execVnop (f : VF) (s : State) : Out := slotOp f.g s (fun s => s)

/-- The lane groups of a group select (R167). -/
def vGroups (f : VF) : List Nat := if f.gs = 8 then List.range 8 else [f.gs.toNat]

/-- A (R166). -/
def State.vA (s : State) (f : VF) : W64 := s.me.arch.rs f.base.toNat + s.me.arch.immOf 6 f.st f.imm

/-- The address of group `g`: A, or A + stride × g when every group takes part (R167). -/
def groupAddr (f : VF) (a : W64) (stride g : Nat) : Nat := (a + BitVec.ofNat 64 (if f.gs = 8 then stride * g else 0)).toNat

/-- An address that is a multiple of the access's element size (R166). -/
def aligned (a : W64) (n : Nat) (s : State) (go : State) : State := if a.toNat % n ≠ 0 then s.issueFault cILLEGAL_OPERAND else go

/-- Applies a step to every group in increasing order; a fault of one ends the launch, after what `part` does of that group: of an access
to memory at the addresses `vas`. -/
def eachGroup (step : State → Nat → Except Byte State) (gs : List Nat) (s : State)
    (part : State → Nat → State := fun s _ => s) (vas : State → Nat → List Nat := fun _ _ => []) : State :=
  match gs with
  | [] => s
  | g :: gs =>
    match step s g with
    | .ok t => eachGroup step gs t part vas
    | .error c => ((part s g).walkHit s.cur c (vas s g)).issueFault c

/-- The physical addresses of elements at virtual addresses, or the status the first bad one faults with (R116, R386). -/
def State.memElts (s : State) (n : Need) : List Nat → Except Byte (List Tr)
  | [] => .ok []
  | va :: vas =>
    if 2 ^ 56 ≤ va then .error cILLEGAL_OPERAND
    else match s.access s.me.arch s.me.asid n va, s.memElts n vas with
      | .error c, _ => .error c
      | _, .error c => .error c
      | .ok t, .ok ts => .ok (t :: ts)

/-- The bank keys of elements of `n` bytes, or the status the first bad one faults with (R166). -/
def State.spElts (s : State) (peer : Bool) (n : Nat) : List Nat → Except Byte (List Nat)
  | [] => .ok []
  | a :: as =>
    match s.spAddr peer a n, s.spElts peer n as with
    | .error c, _ => .error c
    | _, .error c => .error c
    | .ok k, .ok ks => .ok (k :: ks)

/-- How many of the elements come before the first bad one (R174). -/
def goodPrefix {α : Type} (f : Nat → Except Byte α) (as : List Nat) : Nat :=
  (as.takeWhile (fun a => match f a with
    | .ok _ => true
    | .error _ => false)).length

/-- The TLB filled for every address. -/
def State.tlbFills (s : State) (vas : List Nat) : State := s.tlbFillAll s.me.asid vas

/-- The bytes of elements of `n` bytes at the listed places. -/
def eltBytes (n : Nat) (ks : List Nat) : List Nat := ks.flatMap (fun k => byteAddrs k n)

/-- The cells that write the low bytes of each lane. -/
def eltCells (n : Nat) (ks : List Nat) (xs : List W32) : List (Nat × Byte) := (ks.zip xs).flatMap (fun p => cellsOf p.1 n p.2.toNat)

/-- The elements of a group at consecutive addresses. -/
def rowAddrs (a n : Nat) : List Nat := (List.range 16).map (fun l => a + n * l)

/-- A remote access takes its implicit checkpoint and stands in a bundle with rep = 0 (R117, R170). -/
def State.remoteOk (s : State) (ts : List Tr) : Except Byte State :=
  if ts.any (fun t => s.remote t.pa) then (if s.me.repeats then .error cILLEGAL_OPERAND else .ok s.ensureCkpt) else .ok s

/-! ### LDV and STV -/

/-- The bytes that LDV and STV access, over all groups. -/
def ldvBytes (f : VF) (a : W64) (s : State) : Except Byte (List Nat) :=
  let n := tySize f.ty.toNat
  match s.spElts f.peer (16 * n) ((vGroups f).map (groupAddr f a (16 * n))) with
  | .error c => .error c
  | .ok ks => .ok (eltBytes (16 * n) ks)

/-- A `.tr` load: the covering tile of every byte, of the context's share, is READY; otherwise it stalls (R170, R472). Its bytes may lie
in several tiles of the share (DESIGN CHOICE, log 69). -/
def trReady (f : VF) (s : State) (bs : List Nat) (go : State) : State :=
  if f.q ≠ 1 then go
  else match s.coverAll (s.ownTile s.cur) bs with
    | none => s.issueFault cACCESS_PROT
    | some ks => if ks.all (fun k => (s.tile k).state == 2) then go else s.tileStall

/-- LDV (R165 to R170). -/
def execLdv (f : VF) (s : State) : Out :=
  slotOp f.g s (fun s =>
    let a := s.vA f
    let n := tySize f.ty.toNat
    aligned a n s (match ldvBytes f a s with
      | .error c => s.issueFault c
      | .ok bs => trReady f s bs ((vGroups f).zipIdx.foldl
          (fun t p => t.enterLoad (if f.peer then 12 else 4) 6
            { id := 0, kind := .load, cls := f.cls, sp := true, addrs := (bs.drop (16 * n * p.2)).take (16 * n), width := n,
              dst := .v p.1 f.v.toNat f.ty.toNat 0xFFFF }) s)))

/-- Whether a counted write must stall: a covering tile is READY or DRAINING (R170, R273). -/
def State.fillBusy (s : State) (bs : List Nat) : Bool :=
  bs.any (fun b => match s.covering b with
    | some k => (s.tile k).bars
    | none => false)

/-- STV (R165 to R170). -/
def execStv (f : VF) (s : State) : Out :=
  slotOp f.g s (fun s =>
    let a := s.vA f
    let n := tySize f.ty.toNat
    aligned a n s (match ldvBytes f a s with
      | .error c => s.issueFault c
      | .ok bs =>
        if f.q = 1 ∧ s.fillBusy bs then s.tileStall
        else (vGroups f).zipIdx.foldl
          (fun t p => t.enter true
            { id := 0, kind := .store, cls := f.cls, sp := true, counted := f.q == 1, width := n, sig := some [groupAddr f a (16 * n) p.1],
              cells := ((bs.drop (16 * n * p.2)).take (16 * n)).zip ((s.me.arch.rvs p.1 f.v.toNat).flatMap (fun x => leBytes n x.toNat)) }) s))

/-! ### LDG and STG -/

/-- LDG (R115, R165 to R170). -/
def execLdg (f : VF) (s : State) : Out :=
  slotOp f.g s (fun s =>
    let a := s.vA f
    let n := tySize f.ty.toNat
    aligned a n s (eachGroup (fun s g =>
      let vas := rowAddrs (groupAddr f a (16 * n) g) n
      match s.memElts .read vas with
      | .error c => .error c
      | .ok ts => match s.remoteOk ts with
        | .error c => .error c
        | .ok s => .ok ((s.tlbFills vas).enterLoad 8 6
            { id := 0, kind := .load, cls := f.cls, addrs := eltBytes n (ts.map Tr.pa), vas := eltBytes n vas, route := f.q.toNat, width := n,
              remote := ts.all (fun t => s.remote t.pa), dst := .v g f.v.toNat f.ty.toNat 0xFFFF })) (vGroups f) s
      (vas := fun _ g => rowAddrs (groupAddr f a (16 * n) g) n)))

/-- A store of elements of `n` bytes of memory enters the holding buffer, one entry for the whole group; `sig` lists the lanes of a SCAT. -/
def State.enterStore (s : State) (cls : BitVec 4) (n route : Nat) (vas : List Nat) (ts : List Tr) (xs : List W32)
    (sig : Option (List Nat) := none) : State :=
  (s.tlbFills vas).enter true
    { id := 0, kind := .store, cls, sig, cells := eltCells n (ts.map Tr.pa) xs, va := BitVec.ofNat 56 (vas.headD 0), width := n,
      wp := ts.any Tr.wp, vas := eltBytes n vas, route, remote := ts.all (fun t => s.remote t.pa) }

/-- STG (R115, R165 to R170). -/
def execStg (f : VF) (s : State) : Out :=
  slotOp f.g s (fun s =>
    let a := s.vA f
    let n := tySize f.ty.toNat
    aligned a n s (eachGroup (fun s g =>
      let vas := rowAddrs (groupAddr f a (16 * n) g) n
      match s.memElts .write vas with
      | .error c => .error c
      | .ok ts => match s.remoteOk ts with
        | .error c => .error c
        | .ok s => .ok (s.enterStore f.cls n f.q.toNat vas ts (s.me.arch.rvs g f.v.toNat))) (vGroups f) s
      (vas := fun _ g => rowAddrs (groupAddr f a (16 * n) g) n)))

/-! ### LDT, LDX and UNPK -/

/-- LDT (R171). -/
def execLdt (f : VF) (s : State) : Out :=
  slotOp f.g s (fun s =>
    let a := s.vA f
    aligned a 16 s (eachGroup (fun s g =>
      let rows := (List.range 4).map (fun r => groupAddr f (a + BitVec.ofNat 64 (16 * (f.ty.toNat + 1) * r)) 16 g)
      match s.spElts f.peer 16 rows with
      | .error c => .error c
      | .ok ks => .ok (s.enterLoad (if f.peer then 12 else 5) 6
          { id := 0, kind := .load, cls := f.cls, sp := true, addrs := eltBytes 16 ks, width := 1, dst := .ldt g f.v.toNat })) (vGroups f) s))

/-- LDX (R129, R172): the pattern in force at issue. -/
def execLdx (f : VF) (s : State) : Out :=
  slotOp f.g s (fun s =>
    let a := s.vA f
    let p := s.me.arch.bx.get (fld f.ty 0 2)
    eachGroup (fun s g =>
      let first := if f.gs = 8 then 64 * g else 0
      let b := bxBytes p first
      match s.spAddr f.peer (a + BitVec.ofNat 64 b.1).toNat b.2 with
      | .error c => .error c
      | .ok k => .ok (s.enterLoad (if f.peer then 12 else 5) 6
          { id := 0, kind := .load, cls := f.cls, sp := true, addrs := byteAddrs k b.2, width := 1,
            dst := .ldx g f.v.toNat p (f.ty.getLsbD 2) first })) (vGroups f) s)

/-- The chosen field of each byte of a lane (R173). -/
def unpkLane (ty p : Nat) (x : W32) : W32 :=
  let w := if ty < 2 then 4 else 2
  BitVec.ofNat 32 (ofLe ((List.range 4).map (fun r => BitVec.ofNat 8 (extByte (ty % 2 == 1) w (fld x (8 * r + w * p) w)))))

/-- UNPK (R173). -/
def execUnpk (f : VF) (s : State) : Out :=
  slotOp f.g s (fun s =>
    s.land 3 6 (.v f.gs.toNat (fld f.imm 4 5) 0xFFFF
      ((s.me.arch.rvs f.gs.toNat f.v.toNat).map (unpkLane f.ty.toNat (fld f.imm 0 2)))))

/-! ### Gathers and scatters -/

/-- The lanes of a group that take part: those of v[N+1] that are not all ones (R174). -/
def partMask (s : State) (f : VF) (g : Nat) : BitVec 16 :=
  (List.range 16).foldl (fun m l => if s.me.arch.rv g (f.v.toNat + 1) l = 0xFFFF_FFFF then m else m ||| BitVec.ofNat 16 (2 ^ l)) 0

/-- The lanes of a mask, in order. -/
def lanesOf (m : BitVec 16) : List Nat := (List.range 16).filter (fun l => m.getLsbD l)

/-- A + idx × size of the lanes that take part (R174). -/
def laneAddrs (s : State) (f : VF) (a : W64) (n g : Nat) : List Nat :=
  (lanesOf (partMask s f g)).map (fun l => (a + BitVec.ofNat 64 ((s.me.arch.rv g (f.v.toNat + 1) l).toNat * n)).toNat)

/-- v[N] of the lanes that take part. -/
def laneVals (s : State) (f : VF) (g : Nat) : List W32 := (lanesOf (partMask s f g)).map (fun l => s.me.arch.rv g f.v.toNat l)

/-- The first `n` lanes of a mask. -/
def firstLanes (m : BitVec 16) (n : Nat) : BitVec 16 := ((lanesOf m).take n).foldl (fun m l => m ||| BitVec.ofNat 16 (2 ^ l)) 0

/-- The addresses of a group's lanes where GATH and SCAT go to memory. -/
def memLanes (f : VF) (s : State) (g : Nat) : List Nat := if f.q = 1 then laneAddrs s f (s.vA f) (tySize f.ty.toNat) g else []

/-- The lanes of a GATH's group before the one that faults; all of them where none does. -/
def gathUpTo (f : VF) (s : State) (g : Nat) : Nat :=
  let n := tySize f.ty.toNat
  let as := laneAddrs s f (s.vA f) n g
  if f.q = 1 then goodPrefix (fun a => (s.memElts .read [a]).bind s.remoteOk) as else goodPrefix (fun a => s.spAddr f.peer a n) as

/-- The first `k` of the lanes of a GATH's group that take part are loaded; the status where that faults (R174). -/
def gathGroup (f : VF) (k : Nat) (s : State) (g : Nat) : Except Byte State :=
  let n := tySize f.ty.toNat
  let as := (laneAddrs s f (s.vA f) n g).take k
  let dst := LoadDst.v g f.v.toNat f.ty.toNat (firstLanes (partMask s f g) k)
  if f.q = 1 then
    match s.memElts .read as with
    | .error c => .error c
    | .ok ts => match s.remoteOk ts with
      | .error c => .error c
      | .ok s => .ok ((s.tlbFills as).enterLoad 8 6
          { id := 0, kind := .load, cls := f.cls, addrs := eltBytes n (ts.map Tr.pa), vas := eltBytes n as, width := n,
            remote := ts.all (fun t => s.remote t.pa), dst := dst })
  else
    match s.spElts f.peer n as with
    | .error c => .error c
    | .ok ks => .ok (s.enterLoad (if f.peer then 12 else 6) 6
        { id := 0, kind := .load, cls := f.cls, sp := true, addrs := eltBytes n ks, width := n, dst := dst })

/-- GATH (R174): the lanes before a faulting one take effect. -/
def execGath (f : VF) (s : State) : Out :=
  slotOp f.g s (fun s => aligned (s.vA f) (tySize f.ty.toNat) s
    (eachGroup (gathGroup f 16) (vGroups f) s (fun s g => ((gathGroup f (gathUpTo f s g) s g).toOption).getD s)
      (memLanes f)))

/-- The lanes of a SCAT's group before the one that faults; all of them where none does. -/
def scatUpTo (f : VF) (s : State) (g : Nat) : Nat :=
  let n := tySize f.ty.toNat
  let as := laneAddrs s f (s.vA f) n g
  if f.q = 1 then goodPrefix (fun a => s.memElts .write [a]) as else goodPrefix (fun a => s.spAddr f.peer a n) as

/-- The first `k` of the lanes of a SCAT's group that take part are stored, in increasing lane, so that the last of one address remains;
the status where that faults (R174). -/
def scatGroup (f : VF) (k : Nat) (s : State) (g : Nat) : Except Byte State :=
  let n := tySize f.ty.toNat
  let as := (laneAddrs s f (s.vA f) n g).take k
  let xs := (laneVals s f g).take k
  if f.q = 1 then
    match s.memElts .write as with
    | .error c => .error c
    | .ok ts => .ok (s.enterStore f.cls n 0 as ts xs (some as))
  else
    match s.spElts f.peer n as with
    | .error c => .error c
    | .ok ks => .ok (s.enter true { id := 0, kind := .store, cls := f.cls, sp := true, width := n, sig := some as, cells := eltCells n ks xs })

/-- SCAT (R174): the lanes before a faulting one take effect. -/
def execScat (f : VF) (s : State) : Out :=
  slotOp f.g s (fun s => aligned (s.vA f) (tySize f.ty.toNat) s
    (eachGroup (scatGroup f 16) (vGroups f) s (fun s g => ((scatGroup f (scatUpTo f s g) s g).toOption).getD s)
      (memLanes f)))

/-! ### VAMO -/

/-- Bytes of VAMO's operation (R175). -/
def vamoSize (ty : Nat) : Nat := if ty = 4 ∨ ty = 5 then 2 else 4

/-- Address, operand and random word of each lane that takes part. -/
def vamoLanes (s : State) (f : VF) (g : Nat) (ks : List Nat) : List (Nat × W32 × W32) :=
  (ks.zip (lanesOf (partMask s f g))).map (fun p => (p.1, s.me.arch.rv g f.v.toNat p.2, s.rnd (16 * g + p.2)))

/-- VAMO (R121, R175): at the bank a held entry per group; at the home slices an atomic per group, after the implicit
checkpoint. -/
def execVamo (f : VF) (s : State) : Out :=
  slotOp f.g s (fun s =>
    let a := s.vA f
    let ty := f.ty.toNat
    let n := vamoSize ty
    s.needRnd (f.q != 1 && (ty == 3 || ty == 5)) (aligned a n s (
      if f.q = 1 then
        eachGroup (fun s g =>
          let as := laneAddrs s f a n g
          match s.memElts .both as with
          | .error c => .error c
          | .ok ts =>
            .ok ((s.ensureCkpt.tlbFills as).enterAtomic
              { id := 0, kind := .vamo, cls := f.cls, op := ty, width := n, lanes := vamoLanes s f g (ts.map Tr.pa),
                va := BitVec.ofNat 56 (as.headD 0), wp := ts.any Tr.wp, vas := as, remote := ts.all (fun t => s.remote t.pa) }).1)
          (vGroups f) s (vas := fun s g => laneAddrs s f a n g)
      else
          match (vGroups f).flatMap (fun g => laneAddrs s f a n g) |> s.spElts f.peer n with
          | .error c => s.issueFault c
          | .ok ks =>
            if f.q = 2 ∧ s.fillBusy (eltBytes n ks) then s.tileStall
            else eachGroup (fun s g =>
              match s.spElts f.peer n (laneAddrs s f a n g) with
              | .error c => .error c
              | .ok ks => .ok (s.enter true
                  { id := 0, kind := .spAmo, cls := f.cls, sp := true, op := ty, width := n, counted := f.q == 2,
                    lanes := vamoLanes s f g ks })) (vGroups f) s)))

/-! ### SKUPD and SKQRY -/

/-- The header address of a sketch operation: a multiple of 64 below 2^56, on a page with the permissions it needs (R116,
R176, R386, R392). -/
def sketchAt (f : VF) (s : State) (n : Need) : Except Byte Tr :=
  let a := (s.vA f).toNat
  if a % 64 ≠ 0 ∨ 2 ^ 56 ≤ a then .error cILLEGAL_OPERAND else s.access s.me.arch s.me.asid n a

/-- SKUPD (R176, R396): one atomic for all lane groups; the header is read when it performs, and where its operations are homed is known
from then on. -/
def execSkupd (f : VF) (s : State) : Out :=
  slotOp f.g s (fun s =>
    s.needRnd (f.q == 1) (match sketchAt f s .both with
    | .error c => s.accFault c [(s.vA f).toNat]
    | .ok t =>
        let lanes := (vGroups f).flatMap (fun g => (lanesOf (partMask s f g)).map (fun l =>
          ((s.me.arch.rv g (f.v.toNat + 1) l).toNat, s.me.arch.rv g f.v.toNat l, s.rnd (16 * g + l))))
        ((s.ensureCkpt.tlbFill s.me.asid (s.vA f).toNat).enterAtomic
          { id := 0, kind := .skupd, cls := f.cls, addrs := [t.pa], va := BitVec.ofNat 56 (s.vA f).toNat, wp := t.wp, sr := f.q == 1,
            lanes }).1))

/-- SKQRY (R177, R397): one entry per group takes its place in q1, invisible until it is answered. -/
def execSkqry (f : VF) (s : State) : Out :=
  slotOp f.g s (fun s =>
    match sketchAt f s .read with
    | .error c => s.accFault c [(s.vA f).toNat]
    | .ok t =>
      let gs := vGroups f
      if 16 < s.me.qLen 1 + gs.length then s.block
      else
        let id := s.me.nextId
        let idx := fun (g l : Nat) => s.me.arch.rv g f.v.toNat l
        let ok := fun (g : Nat) => (List.range 16).filter (fun l => decide (idx g l ≠ 0xFFFF_FFFF))
        let lanes := gs.zipIdx.flatMap (fun p => (ok p.1).map (fun l => ((idx p.1 l).toNat, BitVec.ofNat 32 (16 * p.2 + l), (0 : W32))))
        let s := (s.tlbFill s.me.asid (s.vA f).toNat).enter false
          { id := 0, kind := .skqry, cls := f.cls, addrs := [t.pa], va := BitVec.ofNat 56 (s.vA f).toNat, lanes, remote := s.remote t.pa }
        gs.zipIdx.foldl (fun s p => s.modMe (fun x => x.push 1
          { e := { mask := (ok p.1).foldl (fun m l => m ||| BitVec.ofNat 16 (2 ^ l)) 0, lanes := List.replicate 16 0 }, vis := false,
            due := 0, tok := id, born := x.tick, idx := p.2 })) s)

/-! ### PUSHQ -/

/-- PUSHQ (R148, R178): the loaded lanes of each group go into q(4 + v). Its load enters the queue of its class (R288), its entries take
their places in the stream now, and a load that has not performed by the end of tick n + 3 stalls there, as that of an LDV does (R169). -/
def execPushq (f : VF) (s : State) : Out :=
  slotOp f.g s (fun s =>
    let a := s.vA f
    let ty := f.ty.toNat
    let n := tySize ty
    aligned a n s (match ldvBytes f a s with
      | .error c => s.issueFault c
      | .ok bs =>
        let q := 4 + fld f.v 0 2
        let at_ := (s.me.qs.getD q {}).pushes
        let t := (vGroups f).foldl (fun t _ => t.pushQ q 4 ⟨0xFFFF, []⟩ s.me.nextId) s
        if t.me.wait = .blocked ∨ t.me.mode ≠ s.me.mode then t
        else t.enterLoad 4 6 { id := 0, kind := .load, cls := f.cls, sp := true, addrs := bs, dst := .push q at_ (vGroups f).length ty }))

end Sys2Proof.Machine
end

