-- ==== Sys2Proof/Machine/Issue.lean ====
section
/-! DEFINITION. The operations of a bundle's slots as one function: what BUNDLE_ISSUE runs for each slot (R86). The words of
a microprogram and of an epilogue program in the same way. -/

namespace Sys2Proof.Machine

open Sys2Proof

/-- The meaning of a slot operation or triad unit; nothing else stands in a slot. -/
def runSlot (i : Instr) (s : State) : Out :=
  match i with
  | .snop f => execSnop f s
  | .br f => execBr f s
  | .bri f => execBri f s
  | .callS f => execCallS f s
  | .ret f => execRet f s
  | .loopS f => execLoopS f s
  | .loopsp f => execLoopsp f s
  | .lbrk f => execLbrk f s
  | .glog f => execGlog f s
  | .klog f => execKlog f s
  | .kmovFromK f => execKmovFromK f s
  | .kmovToK f => execKmovToK f s
  | .markS f => execMarkS f s
  | .nodeS f => execNodeS f s
  | .endCtx f => execEndCtx f s
  | .sstep f => execSstep f s
  | .bara f => execBara f s
  | .barw f => execBarw f s
  | .swait f => execSwait f s
  | .ssig f => execSsig f s
  | .ssigClr f => execSsigClr f s
  | .fcrw f => execFcrw f s
  | .fsrr f => execFsrr f s
  | .fsrrClear f => execFsrrClear f s
  | .sysr f => execSysr f s
  | .sysw f => execSysw f s
  | .lsupd f => execLsupd f s
  | .rseek f => execRseek f s
  | .brk f => execBrk f s
  | .semrd f => execSemrd f s
  | .gtbr f => execGtbr f s
  | .waitt f => execWaitt f s
  | .qmask f => execQmask f s
  | .anop f => execAnop f s
  | .add f => execAdd f s
  | .sub f => execSub f s
  | .mul f => execMul f s
  | .mulh f => execMulh f s
  | .div f => execDiv f s
  | .divu f => execDivu f s
  | .andA f => execAndA f s
  | .orA f => execOrA f s
  | .xorA f => execXorA f s
  | .shl f => execShl f s
  | .shr f => execShr f s
  | .sra f => execSra f s
  | .minA f => execMinA f s
  | .maxA f => execMaxA f s
  | .addi f => execAddi f s
  | .li f => execLi f s
  | .lih f => execLih f s
  | .lihChunk1 f => execLihChunk1 f s
  | .cmp f => execCmp f s
  | .cmpImmediate f => execCmpImmediate f s
  | .selA f => execSelA f s
  | .movmToM f => execMovmToM f s
  | .movmFromM f => execMovmFromM f s
  | .movsToS f => execMovsToS f s
  | .movsToG f => execMovsToG f s
  | .lds f => execLds f s
  | .sts f => execSts f s
  | .amo f => execAmo f s
  | .fence f => execFence f s
  | .probe f => execProbe f s
  | .tdef f => execTdef f s
  | .tfree f => execTfree f s
  | .tstat f => execTstat f s
  | .tdesc f => execTdesc f s
  | .bfxcfg f => execBfxcfg f s
  | .ssrcfg f => execSsrcfg f s
  | .ssrclr f => execSsrclr f s
  | .ssrclrSatd f => execSsrclrSatd f s
  | .ssrrd f => execSsrrd f s
  | .ssrwr f => execSsrwr f s
  | .cvts f => execCvts f s
  | .fadds f => execFadds f s
  | .faddsNegated f => execFaddsNegated f s
  | .fmuls f => execFmuls f s
  | .fmas f => execFmas f s
  | .fcmps f => execFcmps f s
  | .mnop f => execMnop f s
  | .mcall f => execMcall f s
  | .mquiet f => execMquiet f s
  | .enop f => execEnop f s
  | .copy f => execCopy f s
  | .tload f => execTload f s
  | .coll f => execColl f s
  | .mcst f => execMcst f s
  | .skadd f => execSkadd f s
  | .skscl f => execSkscl f s
  | .skzero f => execSkzero f s
  | .muload f => execMuload f s
  | .epload f => execEpload f s
  | .equiet f => execEquiet f s
  | .onop f => execOnop f s
  | .ord f => execOrd f s
  | .owr f => execOwr f s
  | .oadd f => execOadd f s
  | .ozero f => execOzero f s
  | .oscl f => execOscl f s
  | .xnop f => execXnop f s
  | .xcp f => execXcp f s
  | .xbc f => execXbc f s
  | .xsum f => execXsum f s
  | .xmax f => execXmax f s
  | .xshf f => execXshf f s
  | .xs2v f => execXs2v f s
  | .xv2s f => execXv2s f s
  | .vnop f => execVnop f s
  | .ldv f => execLdv f s
  | .stv f => execStv f s
  | .ldg f => execLdg f s
  | .stg f => execStg f s
  | .ldt f => execLdt f s
  | .ldx f => execLdx f s
  | .unpk f => execUnpk f s
  | .gath f => execGath f s
  | .scat f => execScat f s
  | .vamo f => execVamo f s
  | .skupd f => execSkupd f s
  | .skqry f => execSkqry f s
  | .pushq f => execPushq f s
  | .unitNone f => execUnitNone f s
  | .iadd f => execIadd f s
  | .isub f => execIsub f s
  | .imul f => execImul f s
  | .imulh f => execImulh f s
  | .triadAnd f => execTriadAnd f s
  | .triadOr f => execTriadOr f s
  | .triadXor f => execTriadXor f s
  | .triadShl f => execTriadShl f s
  | .triadShr f => execTriadShr f s
  | .triadSra f => execTriadSra f s
  | .imin f => execImin f s
  | .imax f => execImax f s
  | .fadd f => execFadd f s
  | .fsub f => execFsub f s
  | .fmul f => execFmul f s
  | .fmin f => execFmin f s
  | .fmax f => execFmax f s
  | .cmplt f => execCmplt f s
  | .cmpeq f => execCmpeq f s
  | .triadSel f => execTriadSel f s
  | .triadCvt f => execTriadCvt f s
  | .triadNrw f => execTriadNrw f s
  | .srnd f => execSrnd f s
  | .triadExp2 f => execTriadExp2 f s
  | .triadLog2 f => execTriadLog2 f s
  | .triadRcp f => execTriadRcp f s
  | .triadRsq f => execTriadRsq f s
  | .perm f => execPerm f s
  | .triadAbs f => execTriadAbs f s
  | .pack f => execPack f s
  | _ => .next s

/-- The state after a slot operation, which never faults or refuses. -/
def State.slot (s : State) (i : Instr) : State :=
  match runSlot i s with
  | .next t => t
  | .fault _ => s
  | .refused _ => s

/-- The meaning of a microprogram word or epilogue instruction; nothing else is a word. -/
def runWordOf (i : Instr) (s : State) : Out :=
  match i with
  | .munop f => execMunop f s
  | .zacc f => execZacc f s
  | .wld f => execWld f s
  | .wstr f => execWstr f s
  | .astr f => execAstr f s
  | .achn f => execAchn f s
  | .runW f => execRunW f s
  | .oprk f => execOprk f s
  | .spsel f => execSpsel f s
  | .drn f => execDrn f s
  | .cksv f => execCksv f s
  | .mlp f => execMlp f s
  | .mbrn f => execMbrn f s
  | .mend f => execMend f s
  | .mwait f => execMwait f s
  | .msig f => execMsig f s
  | .padd f => execPadd f s
  | .pset f => execPset f s
  | .epiDone f => execEpiDone f s
  | .ldb f => execLdb f s
  | .epiAdd f => execEpiAdd f s
  | .epiMul f => execEpiMul f s
  | .epiFma f => execEpiFma f s
  | .epiMax f => execEpiMax f s
  | .epiMin f => execEpiMin f s
  | .relu f => execRelu f s
  | .epiTbl f => execEpiTbl f s
  | .epiExp2 f => execEpiExp2 f s
  | .epiCvt f => execEpiCvt f s
  | .epiNrw f => execEpiNrw f s
  | .rmax f => execRmax f s
  | .rsum f => execRsum f s
  | .wrt f => execWrt f s
  | .epiPush f => execEpiPush f s
  | .scal f => execScal f s
  | .clmp f => execClmp f s
  | .epiSel f => execEpiSel f s
  | _ => .next s

/-- The state after a word, which never faults or refuses. -/
def State.wordStep (s : State) (i : Instr) : State :=
  match runWordOf i s with
  | .next t => t
  | .fault _ => s
  | .refused _ => s

end Sys2Proof.Machine
end

