-- ==== Sys2Proof/Machine/Bundle.lean ====
section
/-! DEFINITION. The issue of a bundle: the sticky latches (R81 to R85), the slots and re-issues of one repetition (R82, R86,
R89), the checkpoint before it (R315, R316), the pops after it (R87), and the nullifier (R91). BUNDLE_ISSUE and
BUNDLE_SKIP. What lands at the end of the tick is in Landing.lean. -/

namespace Sys2Proof.Machine

open Sys2Proof

/-! ### Sticky latches -/

/-- imm24 of the second syllable of an A or V slot. -/
def immField (w1 : W32) : BitVec 24 := w1.extractLsb' 1 24

/-- The latch that an encoded slot leaves (R81, R83): cleared by a NOP. -/
def latchOf (b : Slot) : Latch :=
  if isNop b.ops then {}
  else
    { valid := true, sticky := b.w0.getLsbD 1, w0 := b.w0, w1 := b.w1,
      off := if b.pos = 1 ∨ b.pos = 6 then stickyOff (immField b.w1) else 0,
      row := if b.pos = 4 then b.w0.extractLsb' 15 7 else 0 }

/-- The advance of a latch before a re-issue (R83). -/
def Latch.advance (l : Latch) (pos : Nat) : Latch :=
  if pos = 1 ∨ pos = 6 then { l with off := l.off + stickyStep (immField l.w1) }
  else if pos = 3 then { l with off := l.off + 128 }
  else if pos = 4 then { l with row := l.row + 1 }
  else l

/-- The encoded slot of a bundle at a position. -/
def slotAt (b : Bundle) (pos : Nat) : Option Slot := b.slots.find? (fun s => s.pos == pos)

/-- Whether a bundle's S slot is NODE or END, which let nothing re-issue (R80). -/
def bundleEnds (b : Bundle) : Bool :=
  match b.slots with
  | [⟨_, _, _, [.nodeS _]⟩] => true
  | [⟨_, _, _, [.endCtx _]⟩] => true
  | _ => false

/-- Whether an unencoded position re-issues from its latch (R82). -/
def reissues (b : Bundle) (l : Latch) (pos : Nat) : Bool := (slotAt b pos).isNone && l.valid && l.sticky && !bundleEnds b

/-- The latch of a position as repetition `rep` of the bundle uses it (R63, R81 to R83). -/
def stepLatch (b : Bundle) (rep : Nat) (l : Latch) (pos : Nat) : Latch :=
  match slotAt b pos with
  | some s => if rep = 0 then latchOf s else if l.sticky then l.advance pos else l
  | none => if reissues b l pos then l.advance pos else l

/-- Every latch as the repetition uses it; a bundle of NODE or END clears them all (R80). -/
def stepLatches (b : Bundle) (rep : Nat) (ls : List Latch) : List Latch :=
  if bundleEnds b then ls.map (fun _ => {}) else ls.zipIdx.map (fun p => stepLatch b rep p.1 p.2)

/-- The operations that one repetition runs, in slot order: encoded slots, and latches that re-issue (R82, R86). -/
def tickOps (b : Bundle) (ls : List Latch) : List Instr :=
  (List.range 15).flatMap (fun p => match slotAt b p with
    | some s => s.ops
    | none => let l := ls.getD p {}; if reissues b l p then decodeSlot p l.w0 l.w1 else [])

/-! ### The nullifier (R91) -/

/-- The guard in a syllable reads true. -/
def Arch.guardOn (a : Arch) (w0 : W32) : Bool := a.rg (guardOf w0).toNat

/-- Whether the nullifier skips the bundle. -/
def Arch.nullifies (a : Arch) (b : Bundle) : Bool :=
  !b.slots.isEmpty && b.slots.all (fun s => !a.guardOn s.w0) &&
    (a.latches.zipIdx).all (fun p => !((slotAt b p.2).isNone && p.1.valid && p.1.sticky && a.guardOn p.1.w0))

/-! ### The checkpoint before a repetition (R315, R316) -/

/-- The atomics take an implicit checkpoint before every repetition that performs them (R121, R175, R176). -/
def isAtomic (i : Instr) : Bool :=
  match i with
  | .amo _ => true
  | .vamo f => f.q == 1
  | .skupd _ => true
  | _ => false

/-- The operation asks for a checkpoint before it, judged on the state `s` in which none has been taken. -/
def asksCkpt (s : State) (i : Instr) : Bool := (s.slot i).me.ckptDone

/-- The operations that may wait for calls, which must be committed for the wait to end (R186). -/
def waitsOnCalls (i : Instr) : Bool :=
  match i with
  | .mquiet _ => true
  | .ord _ => true
  | .owr _ => true
  | .oadd _ => true
  | .ozero _ => true
  | .oscl _ => true
  | .ssrrd _ => true
  | _ => false

/-- A checkpoint has been taken before this bundle or within it: the repetitions of a bundle are consecutive ticks. -/
def Context.ckptHere (x : Context) : Bool := decide (x.tick ≤ x.ckptTick + x.arch.rep)

/-- The pops of a queue since the last checkpoint, with those of the whole bundle, would pass 16 (R316, R317). -/
def popsOver (x : Context) (b : Bundle) : Bool :=
  [1, 2, 3, 4, 5, 6, 7].any (fun j => b.pop.getLsbD j && decide (16 < (x.qs.getD j {}).retained.length + b.rep + 1))

/-- The pushes that the operations would make to a queue with a push log. -/
def pushesOf (s : State) (ops : List Instr) (q : Nat) : Nat :=
  ops.foldl (fun n i => n + ((((s.slot i).me.qs.getD q {}).pushes) - (s.me.qs.getD q {}).pushes)) 0

/-- The pushes of a repetition, or at the first one those of the whole bundle, would pass 16 (R316; for later repetitions
DEDUCED, log 32). -/
def pushesOver (s : State) (b : Bundle) (ops : List Instr) : Bool :=
  [4, 5, 6, 7].any (fun q =>
    let n := pushesOf s ops q
    decide (0 < n) && decide (16 < (s.me.qs.getD q {}).pushes + n * (if s.me.arch.rep = 0 then b.rep + 1 else 1)))

/-- Whether a checkpoint is taken before the repetition whose operations, on the latches already advanced, are `ops`. At a later
repetition it is for atomics, pushes and waits on provisional calls, and for what asks for one where the bundle has taken none. -/
def takesCkpt (s : State) (b : Bundle) (ops : List Instr) : Bool :=
  if s.me.ckptDone then false
  else if s.me.arch.rep = 0 then
    b.ckpt || s.me.ckptDue || decide (352 < s.me.hold.length) || popsOver s.me b || pushesOver s b ops || ops.any (asksCkpt s)
  else pushesOver s b ops || ops.any (fun i => (isAtomic i || waitsOnCalls i || !s.me.ckptHere) && asksCkpt s i)

/-- The implicit checkpoint of R316's first row appends to the drift log. -/
def State.ckptBefore (s : State) (b : Bundle) : State :=
  let log := decide (s.me.arch.rep = 0) && !b.ckpt && decide (352 < s.me.hold.length)
  let s := if log then s.driftAppend s.cur 2 0 s.me.arch.pc else s
  s.checkpoint s.cur

/-! ### One repetition -/

/-- Some operation, tried alone, finds its latch empty, or its queue or stream full: the repetition blocks, whatever the others come
to, a read of a latch outside the share by another slot included (R65, R318; DESIGN CHOICE, log 19). -/
def anyBlocks (s : State) (ops : List Instr) : Bool :=
  ops.any (fun i => let t := s.slot i; decide (t.me.mode = .live) && decide (t.me.wait = .blocked))

/-- Runs the operations in slot order until one ends the repetition: of several that fault, stall, park or stop, the first in slot
order counts (R76; DESIGN CHOICE, log 19). -/
def runOps : List Instr → State → State
  | [], s => s
  | i :: is, s =>
    let t := s.slot i
    if t.me.mode = .live ∧ !(match t.me.wait with
        | .blocked => true
        | .stall _ => true
        | .probe _ _ _ _ => true
        | _ => false) then runOps is t
    else t

/-- Pops one entry of a latch (R87, R260, R317). -/
def Context.pop (x : Context) (q : Nat) : Context :=
  if q = 0 then { x with q0gen := false, arch := { x.arch with rctr := x.arch.rctr + 32 } }
  else x.modQ q (fun t => match t.ents with
    | e :: es => { t with ents := es, retained := t.retained ++ [e] }
    | [] => t)

/-- The latches that a bundle pops. -/
def bundlePops (b : Bundle) : List Nat := (List.range 8).filter (fun j => b.pop.getLsbD j)

/-- Whether a latch has a head entry. -/
def Context.hasHead (x : Context) (q : Nat) : Bool := if q = 0 then x.q0gen else (x.qHead q).isSome

/-- A bundle that pops q3 records the notice's sequence number, or has the recorded one in its place (R446, R448, log 13). -/
def State.noticeIn (s : State) (b : Bundle) : State :=
  if !b.pop.getLsbD 3 then s
  else match (s.me.qs.getD 3 {}).ents with
    | e :: es =>
      let r := s.input s.cur kNOTICE ((nth e.e.lanes 1) ++ (nth e.e.lanes 0))
      let ls := setNth (setNth e.e.lanes 0 (r.2.setWidth 32)) 1 ((r.2 >>> 32).setWidth 32)
      r.1.modMe (fun x => x.modQ 3 (fun t => { t with ents := { e with e := { e.e with lanes := ls } } :: es }))
    | [] => s

/-- The repetition has issued: pops, the bundle or repetition that follows, the wait it has begun, the interlock record; its
results land next (R87, R88, R319, R440). `lf` names the loop that it stands in (R442); a wait that it has begun switches the core (R318,
R441). -/
def State.issued (s : State) (b : Bundle) (pc rep : Nat) (lf : Nat × Nat) : State :=
  let s := s.modMe (fun x =>
    let x := (bundlePops b).foldl Context.pop x
    { x with
      pend := x.wait
      wait := .landing
      succ := if rep < b.rep then pc else x.nextPc.getD (pc + 4 * b.len)
      succRep := if rep < b.rep then rep + 1 else 0
      nextPc := none
      stallSince := none
      lastLoop := lf })
  let s := s.traceTick s.cur pc
  if s.me.pend = .run then s else s.modMe (fun x => { x with traceCause := 8 })

/-- A fatal fault of one of the repetition's slots, taken on the state in which none of them has taken effect, but for the tests that failing
words have started (R429) and the report of a replay that diverged (R448). -/
def refault (s t : State) : State :=
  let s : State := { s with tests := t.tests, diverged := t.diverged }
  match (t.launchOf s.me.lid).bind Launch.fault with
  | some r => s.endLaunch s.me.lid r
  | none => s.mod s.cur (fun x => { x with mode := .ended, wait := .run, hold := [] })

/-- What the slots of a repetition come to: `s` is the state before them, after the checkpoint (R65, R76, R249, R318). -/
def settleOps (s t : State) (b : Bundle) (pc rep guard : Nat) : State :=
  match t.me.mode with
  | .live =>
    match t.me.wait with
    | .blocked => s.modMe (fun x => { x with wait := .blocked, traceCause := 8 })
    | .stall k => s.modMe (fun x => { x with wait := .stall k, stallSince := t.me.stallSince, traceCause := k })
    | .probe va kind _ _ => (s.modMe (fun x => { x with traceCause := 8 })).park va kind
    | _ => t.issued b pc rep (loopFields s.me.arch guard)
  | .stopped => t
  | _ => refault s t

/-- One repetition of the bundle `b` at `pc`, from its checkpoint on. A pop bit for a latch outside the share faults before an empty latch
blocks the repetition (R87; DESIGN CHOICE, log 19). -/
def State.tick (s : State) (ws : List W32) (b : Bundle) : State :=
  let pc := s.me.arch.pc
  let rep := s.me.arch.rep
  let latched := fun (s : State) => s.modMe (fun x => x.modArch (fun a => { a with latches := stepLatches b rep a.latches }))
  let ops := tickOps b (latched s).me.arch.latches
  let ck := takesCkpt (latched s) b ops
  let s := if ck then s.ckptBefore b else s
  if s.me.mode ≠ .live then s
  else if ck ∧ s.me.stopReq then s.stopAt s.cur
  else if rep = 0 ∧ (bundlePops b).any (fun q => !s.me.share.mayRead q) then s.issueFault cACCESS_PROT
  else if (bundlePops b).any (fun q => !s.me.hasHead q) then s.modMe (fun x => { x with wait := .blocked, traceCause := 8 })
  else
    let s0 := s.modMe (fun x => { x with wait := .run })
    let s1 := { (latched (s0.modMe (fun x => { x with ckptDone := true }))).noticeIn b with casc := [] }
    if anyBlocks s1 ops then s0.modMe (fun x => { x with wait := .blocked, traceCause := 8 })
    else settleOps s0 (runOps ops s1) b pc rep (guardOfBundle ws)

/-- The loop buffer takes the body bundles of a pass (R137). -/
def Arch.buffer (a : Arch) (pc : Nat) (ws : List W32) : Arch :=
  if a.inLoop ∧ !a.lbuf.any (fun p => p.1 == pc) then { a with lbuf := a.lbuf ++ [(pc, ws)] } else a

/-- Whether the context may issue: live and not held by anything but a retried wait. -/
def Context.mayIssue (x : Context) : Bool :=
  decide (x.mode = .live) && (match x.wait with
    | .run => true
    | .blocked => true
    | .stall _ => true
    | _ => false)

/-- The fetch of the current bundle has come to a status: a failing word that it has met starts a test (R428, R429). -/
def State.fetchFault (s : State) (e : Byte) : State := (s.hit s.me.lid e (s.fetchWord s.cur s.me.arch.pc)).issueFault e

/-- One repetition of the current context's bundle, with the decode checks of R75; a bundle that the nullifier skips does not
issue. Each repetition and each retry reads and decodes its syllables again (DESIGN CHOICE, log 56). -/
def State.issueBundle (s : State) : State :=
  match s.fetchBundle s.cur s.me.arch.pc with
  | .error e => s.fetchFault e
  | .ok (ws, b) =>
    if s.me.arch.rep = 0 ∧ s.me.arch.nullifies b then s
    else (s.modMe (fun x => { x with hdr := nth ws 0, arch := x.arch.buffer x.arch.pc ws })).tick ws b

/-- Whether a blocked repetition of context c would go through now. -/
def State.unblocked (s : State) (c : Fin 4) : Bool :=
  match ({ s with cur := c }.issueBundle).me.wait with
  | .blocked => false
  | _ => true

/-- Whether context c can issue (R318). -/
def State.readyCtx (s : State) (c : Fin 4) : Bool :=
  let x := s.ctx c
  decide (x.mode = .live) && (match x.wait with
    | .run => true
    | .stall _ => true
    | .blocked => s.unblocked c
    | _ => false)

/-- A class-7 context issues only while no context of another class is ready (R318). -/
def State.yields (s : State) : Bool :=
  s.me.cls == 7 && ctxIds.any (fun c => (s.ctx c).cls != 7 && s.readyCtx c)

/-- No context of the core issues: it is held for the debugger, or a self-test fences a lane or a register bank (R429, R444). -/
def State.issueBarred (s : State) : Bool := s.coreHeld || s.coreFenced

/-- BUNDLE_ISSUE (R86). -/
def execBundleIssue (s : State) : Out := if !s.me.mayIssue ∨ s.issueBarred ∨ s.yields then .next s else .next s.issueBundle

/-- The guards that the nullifier reads for a bundle: of its slots, and of the latches that would re-issue (R91). -/
def Arch.nullGuards (a : Arch) (b : Bundle) : List Nat :=
  b.slots.map (fun s => (guardOf s.w0).toNat) ++
    (a.latches.zipIdx.filter (fun p => (slotAt b p.2).isNone && p.1.valid && p.1.sticky)).map (fun p => (guardOf p.1.w0).toNat)

/-- A skipped bundle costs a cycle: a guard that the nullifier reads became readable less than 2 ticks before (R92). -/
def Context.skipCosts (x : Context) (b : Bundle) : Bool :=
  (x.arch.nullGuards b).any (fun g => let t := x.guardAt.getD g 0; decide (t ≠ 0) && decide (x.tick < t + 2))

/-- BUNDLE_SKIP (R91): the current context's bundle is skipped with no effect; the decode checks still hold for it. -/
def execBundleSkip (s : State) : Out :=
  if !s.me.mayIssue ∨ s.issueBarred ∨ s.yields then .next s
  else match s.fetchBundle s.cur s.me.arch.pc with
    | .error e => .next (s.fetchFault e)
    | .ok (ws, b) =>
      if s.me.arch.rep = 0 ∧ s.me.arch.nullifies b then
        .next (s.modMe (fun x => { x with
          wait := .run, ckptDone := false, traceCause := if x.skipCosts b then 5 else x.traceCause
          arch := (x.arch.buffer x.arch.pc ws).goTo (x.arch.pc + 4 * b.len) }))
      else .next s

end Sys2Proof.Machine
end

