-- ==== Sys2Proof/Machine/Collect.lean ====
section
/-! DEFINITION. What a collective does, derived from its two layouts (R329 to R333, R473): its steps, the elements that each
member holds before each step by their index in the whole tensor, and the chunks that a step sends and receives. -/

namespace Sys2Proof.Machine

open Sys2Proof

/-! ### Steps (R332) -/

/-- The kinds of step; a dimension where the step cuts or joins along one. -/
inductive CollKind where
  /-- The two halves of an all-reduce. -/
  | flatScatter
  | flatGather
  | scatter (t : Nat)
  | select (t : Nat)
  | gather (t : Nat)
  | exchange (t : Nat)
  /-- The placement step of R473, which also writes a shard that no step has moved. -/
  | place
  deriving DecidableEq, Repr

/-- The steps of one axis, from its use in the source and in the destination. -/
def axisSteps (a : Nat) : AxisUse → AxisUse → List (Nat × CollKind)
  | .partialSum, .replicated => [(a, .flatScatter), (a, .flatGather)]
  | .partialSum, .shard t => [(a, .scatter t)]
  | .replicated, .shard t => [(a, .select t)]
  | .shard t, .replicated => [(a, .gather t)]
  | .shard t, .shard t' => if t = t' then [] else [(a, .exchange t')]
  | _, _ => []

/-- The steps of a descriptor, in increasing axis index. -/
def collSteps (d : List Byte) : List (Nat × CollKind) :=
  (List.range (clNax d)).flatMap (fun a => axisSteps a (clUse d false a) (clUse d true a))

/-! ### Mesh coordinates (R329) -/

def meshCoord (d : List Byte) (r : Nat) : List Nat :=
  ((List.range (clNax d)).foldl (fun (o : List Nat × Nat) a => (o.1 ++ [o.2 % clAx d a], o.2 / clAx d a)) ([], r)).1

def meshRank (d : List Byte) (c : List Nat) : Nat :=
  ((List.range (clNax d)).foldl (fun (o : Nat × Nat) a => (o.1 + c.getD a 0 * o.2, o.2 * clAx d a)) (0, 1)).1

/-! ### Shards (R330, R331): elements by their row-major index in the whole tensor, DIM0 innermost -/

/-- The first element and the length of a member's shard of dimension t. -/
def shardRange (d : List Byte) (lay : List AxisUse) (c : List Nat) (t : Nat) : Nat × Nat :=
  let n := clDim d t / shardProd d lay t
  let i := lay.zipIdx.foldl (fun i u => if u.1 = .shard t then i * clAx d u.2 + c.getD u.2 0 else i) 0
  (i * n, n)

/-- The elements of a member's shard, in row-major order. -/
def shardKeys (d : List Byte) (lay : List AxisUse) (c : List Nat) : List Nat :=
  ((List.range (clNdim d)).foldl
    (fun (o : List Nat × Nat) t =>
      let r := shardRange d lay c t
      ((List.range r.2).flatMap (fun i => o.1.map (fun k => k + (r.1 + i) * o.2)), o.2 * clDim d t))
    ([0], 1)).1

/-- The coordinate of an element along dimension t. -/
def keyAlong (d : List Byte) (t k : Nat) : Nat := k / ((List.range t).foldl (fun n u => n * clDim d u) 1) % clDim d t

/-- The values in rising order, each once. -/
def sortedSet (l : List Nat) : List Nat := l.foldl (fun o k => if o.contains k then o else insertBy (fun x => x) k o) []

/-- Piece `q` of the `n` pieces of what a member holds along dimension t (R332). -/
def pieceOf (d : List Byte) (t n q : Nat) (ks : List Nat) : List Nat :=
  let places := sortedSet (ks.map (keyAlong d t))
  let sz := (places.length + n - 1) / n
  let mine := (places.drop (q * sz)).take sz
  ks.filter (fun k => mine.contains (keyAlong d t k))

/-- Segment `j` of the `n` segments of ⌈E/n⌉ elements (R332). -/
def segmentOf (n j : Nat) (ks : List Nat) : List Nat :=
  let sz := (ks.length + n - 1) / n
  (ks.drop (j * sz)).take sz

/-- The destination shard. -/
def destKeys (d : List Byte) (c : List Nat) : List Nat := shardKeys d (clLayout d true) c

/-- What a member at mesh coordinate `c` holds after the steps, newest first, have acted on the source layout. -/
def holdsAfter (d : List Byte) : List (Nat × CollKind) → List Nat → List Nat
  | [], c => shardKeys d (clLayout d false) c
  | (a, k) :: ks, c =>
    let n := clAx d a
    let p := c.getD a 0
    match k with
    | .flatScatter => segmentOf n p (holdsAfter d ks c)
    | .scatter t => pieceOf d t n p (holdsAfter d ks c)
    | .select t => pieceOf d t n p (holdsAfter d ks c)
    | .flatGather => sortedSet ((List.range n).flatMap (fun q => holdsAfter d ks (setNth c a q)))
    | .gather _ => sortedSet ((List.range n).flatMap (fun q => holdsAfter d ks (setNth c a q)))
    | .exchange t => sortedSet ((List.range n).flatMap (fun q => pieceOf d t n p (holdsAfter d ks (setNth c a q))))
    | .place => destKeys d c

/-- What a member holds before step `i`. -/
def holdsAt (d : List Byte) (steps : List (Nat × CollKind)) (i : Nat) (c : List Nat) : List Nat :=
  holdsAfter d (steps.take i).reverse c

/-- Every member's coordinate, in rank order. -/
def meshAll (d : List Byte) : List (List Nat) :=
  (List.range ((List.range (clNax d)).foldl (fun n a => n * clAx d a) 1)).map (meshCoord d)

/-- The members that share every coordinate on the axes that take no part: partial or replicated in both layouts (R473). -/
def placeGroup (d : List Byte) (c : List Nat) : List (List Nat) :=
  let still := (List.range (clNax d)).filter (fun a =>
    match clUse d false a, clUse d true a with
    | .partialSum, .partialSum => true
    | .replicated, .replicated => true
    | _, _ => false)
  (meshAll d).filter (fun m => still.all (fun a => m.getD a 0 == c.getD a 0))

/-- The steps with the placement step, where some member's pieces differ from its shard, or where no step moves anything: the
destination buffer always ends with the shard of R330 (R473). -/
def collPlan (d : List Byte) : List (Nat × CollKind) :=
  let ss := collSteps d
  if ss.isEmpty || (meshAll d).any (fun c => holdsAfter d ss.reverse c != destKeys d c) then ss ++ [(0, .place)] else ss

/-! ### Chunks (R333, R335) -/

/-- A chunk of a step: the ring step (or the peer's rank) it belongs to, and its elements. -/
structure Chunk where
  s : Nat
  keys : List Nat
  deriving DecidableEq, Repr

/-- Cuts elements into chunks of 4,096 bytes; the fuel is their number. -/
def cutChunks (n s : Nat) : Nat → List Nat → List Chunk
  | 0, _ => []
  | f + 1, ks => if ks.isEmpty then [] else ⟨s, ks.take n⟩ :: cutChunks n s f (ks.drop n)

def chunksOf (d : List Byte) (s : Nat) (ks : List Nat) : List Chunk := cutChunks (4096 / clSize d) s ks.length ks

/-- The member of lowest rank in a placement group that holds an element. -/
def placeSource (d : List Byte) (steps : List (Nat × CollKind)) (i : Nat) (grp : List (List Nat)) (k : Nat) : Option (List Nat) :=
  grp.find? (fun m => (holdsAt d steps i m).contains k)

/-- The chunks that a member receives in step `i`, in order. -/
def recvChunks (d : List Byte) (c : List Nat) (i : Nat) : List Chunk :=
  let plan := collPlan d
  match plan[i]? with
  | none => []
  | some (a, k) =>
    let n := clAx d a
    let p := c.getD a 0
    let rings := (List.range (n - 1)).map (· + 1)
    let here := holdsAt d plan i c
    match k with
    | .flatScatter => rings.flatMap (fun s => chunksOf d s (segmentOf n ((p + 2 * n - 1 - s) % n) here))
    | .scatter t => rings.flatMap (fun s => chunksOf d s (pieceOf d t n ((p + 2 * n - 1 - s) % n) here))
    | .flatGather => rings.flatMap (fun s => chunksOf d s (holdsAt d plan i (setNth c a ((p + n - s) % n))))
    | .gather _ => rings.flatMap (fun s => chunksOf d s (holdsAt d plan i (setNth c a ((p + n - s) % n))))
    | .exchange t => rings.flatMap (fun s => chunksOf d s (pieceOf d t n p (holdsAt d plan i (setNth c a ((p + n - s) % n)))))
    | .select _ => []
    | .place =>
      let grp := placeGroup d c
      let want := (destKeys d c).filter (fun k => !here.contains k)
      grp.flatMap (fun m => if m = c then [] else
        chunksOf d (meshRank d m) (want.filter (fun k => placeSource d plan i grp k == some m)))

/-- The chunks that a member sends in step `i`, in order. -/
def sendChunks (d : List Byte) (c : List Nat) (i : Nat) : List Chunk :=
  let plan := collPlan d
  match plan[i]? with
  | none => []
  | some (a, k) =>
    let n := clAx d a
    let p := c.getD a 0
    let rings := (List.range (n - 1)).map (· + 1)
    let here := holdsAt d plan i c
    match k with
    | .flatScatter => rings.flatMap (fun s => chunksOf d s (segmentOf n ((p + n - s) % n) here))
    | .scatter t => rings.flatMap (fun s => chunksOf d s (pieceOf d t n ((p + n - s) % n) here))
    | .flatGather => rings.flatMap (fun s => chunksOf d s (holdsAt d plan i (setNth c a ((p + n + 1 - s) % n))))
    | .gather _ => rings.flatMap (fun s => chunksOf d s (holdsAt d plan i (setNth c a ((p + n + 1 - s) % n))))
    | .exchange t => rings.flatMap (fun s => chunksOf d s (pieceOf d t n ((p + s) % n) here))
    | .select _ => []
    | .place =>
      let grp := placeGroup d c
      grp.flatMap (fun m => if m = c then [] else
        let want := (destKeys d m).filter (fun k => !(holdsAt d plan i m).contains k)
        chunksOf d (meshRank d m) (want.filter (fun k => placeSource d plan i grp k == some c)))

/-- Every chunk that the collective receives (R405). -/
def recvTotal (d : List Byte) (c : List Nat) : Nat :=
  (List.range (collPlan d).length).foldl (fun n i => n + (recvChunks d c i).length) 0

/-- Bytes of the largest shard that the destination buffer holds (R336). -/
def collSpan (d : List Byte) (c : List Nat) : Nat :=
  clSize d * (List.range (collPlan d).length).foldl (fun n i => max n (holdsAt d (collPlan d) (i + 1) c).length) 0

/-- The chunk tiles that hold a partial sum: chunks received in a reducing step and not yet sent on (R343). -/
def partials (d : List Byte) (c : List Nat) (k : CollRun) : List Nat :=
  match (collPlan d)[k.step]? with
  | some (_, .flatScatter) | some (_, .scatter _) =>
    let own := ((sendChunks d c k.step).filter (fun h => h.s == 1)).length
    (List.range k.recvd).filter (fun i => decide (k.sent < own + i + 1) && decide (i < (sendChunks d c k.step).length - own))
      |>.map (fun i => clChtile d + i % clNch d)
  | _ => []

end Sys2Proof.Machine
end

