-- ==== Sys2Proof/Machine/Save.lean ====
section
/-! DEFINITION. Pre-emption at a NODE: the device's own reads and writes of a launch's memory, the node table (R364), the
conditions of a pre-emption point (R366 to R368), the save area (R369 to R372), and the restore of a context (R374, R375). -/

namespace Sys2Proof.Machine

open Sys2Proof

/-! ### The device's accesses to a launch's memory -/

/-- The physical addresses of `n` bytes of a context's address space, or the status of the first access that fails. -/
def State.vaPas (s : State) (a : Arch) (asid : BitVec 16) (need : Need) (va : Nat) : Nat → Except Byte (List Nat)
  | 0 => .ok []
  | n + 1 =>
    match s.access a asid need va with
    | .error e => .error e
    | .ok t => match s.vaPas a asid need (va + 1) n with
      | .error e => .error e
      | .ok ps => .ok (t.pa :: ps)

/-- Bytes read at home through the translations of a context. -/
def State.vaRead (s : State) (a : Arch) (asid : BitVec 16) (va n : Nat) : Except Byte (List Byte) :=
  match s.vaPas a asid .read va n with
  | .ok ps => if (s.badAt .l2 ps).isSome then .error cUNCORRECTABLE_MEM else .ok (ps.map s.mem.get)
  | .error e => .error e

/-- The failing word that a read of `n` bytes meets, in its walks or in the bytes (R428). -/
def State.readWord (s : State) (a : Arch) (asid : BitVec 16) (need : Need) (va n : Nat) : Option BadWord :=
  ((byteAddrs va n).findSome? (s.walkBad a asid)).or (match s.vaPas a asid need va n with
    | .ok ps => s.badAt .l2 ps
    | .error _ => none)

/-- A read or write of `n` bytes that the device makes for a launch has come to a status: a failing word that it has met starts a test (R428,
R429). -/
def State.devHit (s : State) (lid : BitVec 32) (code : Byte) (a : Arch) (asid : BitVec 16) (need : Need) (va n : Nat) : State :=
  s.hit lid code (s.readWord a asid need va n)

/-- A write of `n` bytes meets a page in a migration window and waits (R389). -/
def State.vaParks (s : State) (a : Arch) (asid : BitVec 16) (va n : Nat) : Bool :=
  (byteAddrs va n).any (fun b => match s.access a asid .write b with
    | .ok t => t.wp
    | .error _ => false)

/-- Bytes written at home through the translations of a context. -/
def State.vaWrite (s : State) (a : Arch) (asid : BitVec 16) (va : Nat) (bs : List Byte) : Except Byte State :=
  match s.vaPas a asid .write va bs.length with
  | .ok ps => .ok (s.memWrite (ps.zip bs))
  | .error e => .error e

/-! ### The descriptor of a context's launch (R347) -/

/-- The descriptor bytes of a context's launch. -/
def State.descOf (s : State) (c : Fin 4) : List Byte :=
  match s.launchOf (s.ctx c).lid with
  | some l => l.desc
  | none => []

def ldNodeTab (d : List Byte) : Nat := dn d 0x08 8
def ldSaveA (d : List Byte) : Nat := dn d 0x38 8

/-! ### Carry regions (R364) -/

/-- The limits of a carry region. -/
def carryOk (cbase csize : Nat) : Bool :=
  cbase % 64 == 0 && csize % 64 == 0 && decide (csize ≤ 65536) && decide (cbase + csize ≤ 0x180000)

/-- The fault of the NODE of a context whose entry of the node table cannot be read, or has a carry region outside its limits (R364). -/
def State.nodeFault (s : State) (c : Fin 4) (idx : Nat) (e : Byte) : State :=
  let x := s.ctx c
  (s.devHit x.lid e x.arch x.asid .read (ldNodeTab (s.descOf c) + 16 * idx) 16).fatal c e x.lastPc 0

/-- The carry region of the node that a context enters, or the status of the fault of its NODE (R364). -/
def State.nodeCarry (s : State) (c : Fin 4) (idx : Nat) : Except Byte (Nat × Nat) :=
  let x := s.ctx c
  match s.vaRead x.arch x.asid (ldNodeTab (s.descOf c) + 16 * idx) 16 with
  | .error e => .error e
  | .ok e =>
    let b := dn e 8 4
    let n := dn e 0xC 4
    if carryOk b n then .ok (b, n) else .error cILLEGAL_NODE

/-! ### When a NODE is a pre-emption point (R366) -/

/-- The outstanding COLLs of a context, in issue order. -/
def Context.colls (x : Context) : List Cmd := x.cmds.filter (fun k => k.eng == .coll)

/-- The mesh coordinate of the context in a COLL. -/
def Cmd.mesh (k : Cmd) : List Nat := meshCoord k.desc k.coll.rank

/-- The present step and its place in the plan; its chunks. -/
def Cmd.stepKind (k : Cmd) : Option (Nat × CollKind) := (collPlan k.desc)[k.coll.step]?
def Cmd.lastStep (k : Cmd) : Bool := k.coll.step + 1 == (collPlan k.desc).length
def Cmd.recvs (k : Cmd) : List Chunk := recvChunks k.desc k.mesh k.coll.step
def Cmd.sends (k : Cmd) : List Chunk := sendChunks k.desc k.mesh k.coll.step

/-- The chunks of the present step are combined in chunk tiles. -/
def Cmd.reduces (k : Cmd) : Bool :=
  match k.stepKind with
  | some (_, .flatScatter) => true
  | some (_, .scatter _) => true
  | _ => false

/-- The elements that a member keeps through the present step without communication. -/
def Cmd.kept (k : Cmd) : List Nat :=
  let here := holdsAt k.desc (collPlan k.desc) k.coll.step k.mesh
  match k.stepKind with
  | some (_, .flatGather) => here
  | some (_, .gather _) => here
  | some (a, .exchange t) => pieceOf k.desc t (clAx k.desc a) (k.mesh.getD a 0) here
  | some (a, .select t) => pieceOf k.desc t (clAx k.desc a) (k.mesh.getD a 0) here
  | some (_, .place) => here.filter (destKeys k.desc k.mesh).contains
  | _ =>
    -- A ring of one position reduces nothing: its only segment is already complete.
    if k.recvs.isEmpty ∧ k.sends.isEmpty then here else []

/-- The place of an element in a list of elements. -/
def keyIdx (ks : List Nat) (e : Nat) : Nat := (ks.takeWhile (fun x => x != e)).length

/-- Elements from bytes. -/
def bytesElts (n : Nat) (bs : List Byte) : Nat → List Nat
  | 0 => []
  | m + 1 => ofLe (bs.take n) :: bytesElts n (bs.drop n) m

/-- The chunk tiles of a COLL that hold a partial sum. -/
def Cmd.partials (k : Cmd) : List Nat := if k.started then Machine.partials k.desc k.mesh k.coll else []

/-- A scratchpad range lies in the carry region. -/
def inCarry (cr : Nat × Nat) (a n : Nat) : Bool := decide (n = 0) || (decide (cr.1 ≤ a) && decide (a + n ≤ cr.1 + cr.2))

/-- The buffers of a COLL lie in the carry region. -/
def Cmd.carried (k : Cmd) (cr : Nat × Nat) : Bool :=
  inCarry cr (clSbuf k.desc) (shardElts k.desc (clLayout k.desc false) * clSize k.desc) &&
    inCarry cr (clDbuf k.desc) (shardElts k.desc (clLayout k.desc true) * clSize k.desc) &&
    inCarry cr (clDbuf k.desc) (collSpan k.desc k.mesh)

/-- The conditions of R366; that the scheduler wants the pre-emption is `preReq`. -/
def Context.mayPreempt (x : Context) (cr : Nat × Nat) : Bool :=
  x.preReq && [1, 2, 4, 5, 6, 7].all (fun q => x.qLen q == 0) && x.out.isEmpty && decide (x.colls.length ≤ 8) &&
    x.colls.all (fun k => k.carried cr) &&
    decide (cr.2 + 4096 * (x.colls.flatMap Cmd.partials).length ≤ 49152)

/-! ### The save area (R370 to R372) -/

/-- Bytes padded with zeros to a length. -/
def padTo (n : Nat) (bs : List Byte) : List Byte := bs ++ List.replicate (n - bs.length) 0

/-- A tile-table entry in the layout of R271. -/
def Tile.bits (t : Tile) : Nat :=
  t.base + t.size * 2 ^ 24 + t.tid.toNat * 2 ^ 48 + t.expected * 2 ^ 64 + t.arrived * 2 ^ 88 + t.state.toNat * 2 ^ 112 +
    t.owner.toNat * 2 ^ 114

/-- A tile-table entry from that layout. -/
def tileOfBits (n : Nat) : Tile :=
  { base := nfld n 0 24, size := nfld n 24 24, tid := BitVec.ofNat 16 (nfld n 48 16), expected := nfld n 64 24,
    arrived := nfld n 88 24, state := BitVec.ofNat 2 (nfld n 112 2), owner := BitVec.ofNat 2 (nfld n 114 2) }

/-- The header. -/
def saveHeader (x : Context) (cr : Nat × Nat) (gtb : W64) (wait : Bool) : List Byte :=
  let notes := min 16 (x.qLen 3)
  padTo 64 (leBytes 2 x.savedNode.toNat ++ leBytes 1 x.savedLive.toNat ++ leBytes 1 (if wait then 3 else 1) ++
    leBytes 2 x.colls.length ++ leBytes 2 notes ++ leBytes 8 x.arch.pc ++ leBytes 4 cr.1 ++ leBytes 4 cr.2 ++ leBytes 8 gtb.toNat ++
    leBytes 2 x.arch.cmdno.toNat ++ leBytes 2 x.arch.collSeq.length)

/-- The registers at 0x0040 to 0x01BF. -/
def saveRegs (x : Context) : List Byte :=
  let a := x.arch
  padTo 128 ((List.range 16).flatMap (fun r => leBytes 8 (a.rs r).toNat)) ++ padTo 16 (leBytes 8 a.gvec.toNat) ++
    padTo 0x70 ([a.fcr, a.fsr, a.lscale, a.lscfg, a.rkey, a.rctr, a.trel, a.driftcfg, a.tracecfg].flatMap (fun v => leBytes 8 v.toNat)) ++
    padTo 0xC0 ((a.collSeq.take 16).flatMap (fun p => leBytes 4 p.1.toNat ++ leBytes 4 p.2.toNat))

/-- The semaphores of the context's own range. -/
def saveSems (s : State) (x : Context) : List Byte :=
  (List.range 256).flatMap (fun n =>
    if inRange x.share.sem n then
      leBytes 4 ((s.semVal.get n).toNat + (s.semLatch.get n).toNat * 2 ^ 16 + (s.semCode.get n).toNat * 2 ^ 24)
    else leBytes 4 0)

/-- The tile entries of the share. -/
def saveTiles (s : State) (x : Context) : List Byte :=
  (List.range 256).flatMap (fun n => leBytes 16 (if x.share.hasTile n then (s.tile (s.tileKey n)).bits else 0))

/-- The notice ring: the entries of q3, oldest first. -/
def saveNotes (x : Context) : List Byte :=
  padTo 1024 (((x.qs.getD 3 {}).ents.take 16).flatMap (fun q => padTo 64 (q.e.lanes.flatMap (fun w => leBytes 4 w.toNat))))

/-- The axis of a step in a record: NAX for a placement step, which belongs to none (log 60). -/
def planAxis (d : List Byte) (p : Nat × CollKind) : Nat := if p.2 = .place then clNax d else p.1

/-- The next ring step of the axis of a COLL: the all-gather half of an all-reduce goes on from its reduce-scatter (R333, R372, log 60). -/
def Cmd.ringStep (k : Cmd) : Nat :=
  match k.stepKind with
  | none => 0
  | some (_, .place) => 1
  | some (a, kind) =>
    let n := clAx k.desc a
    (if kind = .flatGather then n - 1 else 0) + (match k.recvs[k.coll.recvd]?, k.sends[k.coll.sent]? with
      | some h, some g => min h.s g.s
      | some h, none => h.s
      | none, some g => g.s
      | none, none => if k.coll.entered then n else 1)

/-- The collective records (R372), with the offset of each one's first saved tile in the data part. -/
def saveColls (csize : Nat) (x : Context) : List Byte :=
  padTo 1024 ((x.colls.take 8).foldl
    (fun (o : List Byte × Nat) k =>
      let n := k.partials.length
      (o.1 ++ padTo 128 (k.desc.take 0x48 ++ leBytes 4 k.coll.seq.toNat ++
        leBytes 1 ((k.stepKind.map (planAxis k.desc)).getD 0) ++ leBytes 1 k.ringStep ++ leBytes 2 n ++ leBytes 4 o.2 ++
        leBytes 2 k.id.toNat ++ leBytes 1 k.ef.sig.toNat ++ leBytes 1 k.ef.inc.toNat), o.2 + 4096 * n))
    ([], csize)).1

/-- The es registers of the live mask. -/
def saveEs (x : Context) : List Byte :=
  [0, 1, 2, 3].flatMap (fun i =>
    if x.savedLive.getLsbD i then
      leBytes 16 (x.arch.es i).toNat ++ (List.range 384).flatMap (fun w => leBytes 4 (x.arch.esw.get (384 * i + w)).toNat)
    else List.replicate 0x610 0)

/-- The data part: the carry region, then the saved chunk tiles. -/
def saveData (s : State) (x : Context) (cr : Nat × Nat) : List Byte :=
  padTo 49152 (s.spBytes (spKey s.myX cr.1) cr.2 ++
    (x.colls.flatMap Cmd.partials).flatMap (fun t => s.spBytes (spKey s.myX (s.tile (s.tileKey t)).base) 4096))

/-- The 64 KiB of a save area (R370). -/
def saveImage (s : State) (x : Context) (cr : Nat × Nat) : List Byte :=
  padTo 0x4000 (padTo 0x1E00 (padTo 0x200 (saveHeader x cr s.gtb (decide (16 ≤ x.qLen 3)) ++ saveRegs x) ++ saveSems s x ++ saveTiles s x ++ saveNotes x ++
    saveColls cr.2 x) ++ saveEs x) ++ saveData s x cr

/-- The save area of a context (R370). -/
def State.saveAddr (s : State) (c : Fin 4) : Nat := ldSaveA (s.descOf c) + 65536 * fld (s.ctx c).ctxid 0 16

/-- The handles of a share. -/
def Share.tiles (h : Share) : List Nat := (List.range 256).filter h.hasTile

/-- A context that has been saved or has ended gives up its shares with their scale-cache entries (R33, R369); the tile entries
keep their fields until the next launch that has them starts (R271). -/
def State.freeShare (s : State) (c : Fin 4) : State :=
  let x := s.ctx c
  x.share.tiles.foldl (fun s n => s.dropScales (s.tile (s.tileKey n)).tid) s

/-- The chunk tiles of chunks that have a permit and have not come hold no partial sum: they are EMPTY in the save, and the engine fills them
anew when it goes on (R335, R343, log 73). -/
def State.unprepare (s : State) (c : Fin 4) : State :=
  (s.ctx c).colls.foldl (fun s k =>
    if k.reduces then (List.range k.coll.granted).foldl (fun s i =>
      let t := s.tileKey (clChtile k.desc + (k.coll.recvd + i) % clNch k.desc)
      s.setTile t { s.tile t with state := 0, arrived := 0 }) s
    else s) s

/-- Saves context c at its node (R369): writes the save area, and the context leaves its slot free. A save area whose page is not
writable ends the launch. -/
def State.saveCtx (s : State) (c : Fin 4) : State :=
  let s := s.unprepare c
  let x := s.ctx c
  match s.nodeCarry c x.savedNode.toNat with
  | .error e => s.nodeFault c x.savedNode.toNat e
  | .ok cr =>
    match s.vaWrite x.arch x.asid (s.saveAddr c) (saveImage s x cr) with
    | .error e => (s.devHit x.lid e x.arch x.asid .write (s.saveAddr c) 65536).fatal c e x.lastPc 0
    | .ok s => { (s.freeShare c).setCtx c { nextId := x.nextId } with
        away := s.away ++ [(c, { x with mode := .preempted, wait := .run, preReq := false })] }

/-- The bytes of the destination buffer that elements go to in the last step, with their values. -/
def State.destCells (s : State) (k : Cmd) (es : List (Nat × Nat)) : List (Nat × Byte) :=
  let n := clSize k.desc
  let dest := destKeys k.desc k.mesh
  es.flatMap (fun p => cellsOf (spKey s.myX (clDbuf k.desc) + n * keyIdx dest p.1) n p.2)

/-- The target bytes of elements are free: no tile that covers one of them is READY, DRAINING or reserved as a collective's chunk tile (R336,
R338). -/
def State.destFree (s : State) (k : Cmd) (es : List Nat) : Bool :=
  !k.lastStep || (s.destCells k (es.map (fun e => (e, 0)))).all (fun p => match s.covering p.1 with
    | some t => !(s.tile t).bars
    | none => true)

/-- A message for a COLL. -/
def Wire.for_ (m : Wire) (x : Context) (k : Cmd) : Bool :=
  m.dst == x.rankCoord && m.comm == clComm k.desc && m.seq == k.coll.seq

def WireWhat.isChunk : WireWhat → Bool
  | .chunk _ _ => true
  | _ => false

/-- The next chunk goes on into the destination buffer at the last ring step, and has to wait for its place there (R335, R336). -/
def State.chunkBarred (s : State) (k : Cmd) : Bool :=
  match k.recvs[k.coll.recvd]?, k.stepKind with
  | some h, some (a, _) => k.reduces && h.s + 1 == clAx k.desc a && !s.destFree k h.keys
  | _, _ => false

/-- A chunk for a collective of context c has been sent and has not arrived: it is a chunk begun (R343). -/
def State.chunkUnderWay (s : State) (c : Fin 4) : Bool :=
  (s.ctx c).colls.any (fun k => !s.chunkBarred k && s.wire.any (fun m => m.what.isChunk && m.for_ (s.ctx c) k))

/-- Context c is ready to be saved: its collectives have finished the chunks begun, and every store its checkpoint released has
performed, and every SSIG has signalled (R252); no page of the save area is in a migration window (R369, R389). A permit for a chunk that has not been sent stays as it is: what
its sender has still to receive may itself be withheld (R343, log 73). -/
def State.saveReady (s : State) (c : Fin 4) : Bool :=
  let x := s.ctx c
  !s.chunkUnderWay c && !x.queue.any (fun a => a.kind == .ssig || a.kind == .ssigClr) && !s.relPending c x.nextId 0xFFFF 5 && !s.vaParks x.arch x.asid (s.saveAddr c) 65536

/-- A context that has a slot and has not ended. -/
def CtxMode.runs : CtxMode → Bool
  | .starting _ => true
  | .live => true
  | .stopped => true
  | _ => false

/-- The contexts of the launch of context c on the core that have not ended. -/
def State.peersOf (s : State) (c : Fin 4) : List (Fin 4) :=
  ctxIds.filter (fun d => (s.ctx d).lid == (s.ctx c).lid && (s.ctx d).mode.runs)

/-- Context c waits at a NODE to be saved. -/
def Context.atNode (x : Context) : Bool :=
  match x.wait with
  | .nodePeers _ _ => true
  | _ => false

/-- Context c meets the conditions of R366 where it stands. -/
def State.qualifies (s : State) (c : Fin 4) : Bool :=
  match s.nodeCarry c (s.ctx c).savedNode.toNat with
  | .ok cr => (s.ctx c).mayPreempt cr
  | .error _ => true

/-- A context that waits at a NODE and no longer meets the conditions of R366 (an entry has come in) goes on. -/
def State.leavesNode (s : State) (c : Fin 4) : State :=
  if (s.ctx c).atNode && !s.qualifies c then s.mod c (fun x => { x with wait := .run }) else s

/-- The contexts of a launch on the core are pre-empted together, once each has reached its own NODE (R368). A save that fails ends the
launch, and the others with it. -/
def State.savePeers (s : State) (c : Fin 4) : State :=
  let ps := s.peersOf c
  let s := ps.foldl State.leavesNode s
  if ps.all (fun d => (s.ctx d).atNode && s.saveReady d) then ps.foldl (fun s d => if (s.ctx d).mode.runs then s.saveCtx d else s) s else s

/-! ### The end of a NODE (R253, R364, R366) -/

/-- Context c has reached the end of step 4 of its NODE: it waits to be saved, or goes on. -/
def State.nodeDone (s : State) (c : Fin 4) (idx : BitVec 12) (live : BitVec 4) : State :=
  let x := s.ctx c
  match s.nodeCarry c idx.toNat with
  | .error e => s.nodeFault c idx.toNat e
  | .ok cr =>
    if x.mayPreempt cr then s.mod c (fun x => { x with wait := .nodePeers idx live })
    else s.mod c (fun x => { x with wait := .run })

/-! ### Resume (R374, R375) -/

/-- The checks on a save area. -/
def saveOk (b : List Byte) : Bool :=
  let ncoll := dn b 4 2
  let tiles := (List.range ncoll).foldl (fun n i => n + dn b (0x1A00 + 128 * i + 0x4E) 2) 0
  dn b 3 1 % 2 == 1 && decide (dn b 3 1 < 4) && decide (dn b 2 1 < 16) && dz b 7 8 && dz b 0x24 0x40 && decide (ncoll ≤ 8) && decide (dn b 6 1 ≤ 16) && decide (dn b 0x22 2 ≤ 16) && carryOk (dn b 0x10 4) (dn b 0x14 4) &&
    [0, 1, 2, 3].all (fun i =>
      let d := BitVec.ofNat 128 (dn b (0x1E00 + 0x610 * i) 16)
      fld d 60 68 == 0 && esOwn d != 3 && decide (esFmt d ≤ 8)) &&
    decide (dn b 0x14 4 + 4096 * tiles ≤ 49152)

/-- The restored architectural state: the saved registers, every other one zero (R253, R375); reserved bits read as zero (R5). -/
def restoredArch (old : Arch) (b : List Byte) : Arch :=
  let sys := fun i => BitVec.ofNat 64 (dn b (0xD0 + 8 * i) 8)
  let live := dn b 2 1
  let a : Arch := {
    s := (List.range 16).foldl (fun m r => m.put r (BitVec.ofNat 64 (dn b (0x40 + 8 * r) 8))) []
    g := BitVec.ofNat 16 (dn b 0xC0 8)
    fcr := sys 0 &&& 0x3F, fsr := sys 1 &&& 0x3F, lscale := sys 2, lscfg := sys 3 &&& 0x7FFFFFFFF, rkey := sys 4, rctr := sys 5, trel := sys 6
    driftcfg := sys 7 &&& 0xF0FFFFFFFFFFFFFF, tracecfg := sys 8 &&& 0xFFFF8FFFFFFFFFFF
    hbase := old.hbase, hlimit := old.hlimit, hoffs := old.hoffs
    pc := dn b 8 8, cmdno := BitVec.ofNat 16 (dn b 0x20 2)
    collSeq := (List.range (dn b 0x22 2)).map (fun i => (BitVec.ofNat 12 (dn b (0x140 + 8 * i) 4), BitVec.ofNat 32 (dn b (0x144 + 8 * i) 4)))
    recs := old.recs, recOpen := old.recOpen }
  [0, 1, 2, 3].foldl
    (fun a i => if nfld live i 1 = 1 then
      let a := a.setEs i (BitVec.ofNat 128 (dn b (0x1E00 + 0x610 * i) 16))
      { a with
        esw := (List.range 384).foldl (fun m w => m.put (384 * i + w) (BitVec.ofNat 32 (dn b (0x1E10 + 0x610 * i + 4 * w) 4))) a.esw }
      else a) a

/-- A notice of the ring as an entry of q3, visible at once. -/
def savedNote (b : List Byte) (i : Nat) : QSlot :=
  { e := { mask := 0xFFFF, lanes := (List.range 16).map (fun l => BitVec.ofNat 32 (dn b (0x1600 + 64 * i + 4 * l) 4)) }, vis := true, due := 0,
    tok := 0, born := 0 }

/-- The tiles and semaphores of the share, and the carry region. A tile that is DRAINING drains by a TFREE, all of whose reads the NODE has
waited for (R127, R253). -/
def restoreShare (s : State) (c : Fin 4) (b : List Byte) : State :=
  let x := s.ctx c
  let s := x.share.tiles.foldl (fun s n =>
    let t := tileOfBits (dn b (0x600 + 16 * n) 16)
    let t := if t.state = 3 then { t with freeing := true, freeCtx := c } else t
    (s.dropScales t.tid).setTile (s.tileKey n) t) s
  let s := ((List.range 256).filter (fun n => inRange x.share.sem n)).foldl (fun s n =>
    let v := dn b (0x200 + 4 * n) 4
    { s with
      semVal := s.semVal.put n (BitVec.ofNat 16 v)
      semLatch := s.semLatch.put n (BitVec.ofNat 1 (v / 2 ^ 16))
      semCode := s.semCode.put n (BitVec.ofNat 8 (v / 2 ^ 24)) }) s
  s.spPut (spKey s.myX (dn b 0x10 4)) ((b.drop 0x4000).take (dn b 0x14 4))

/-- The COLL goes on at ring step `t` of axis `a`, as a record says: what it holds is what the destination buffer holds (R336, R374, log
60). -/
def Cmd.moved (s : State) (k : Cmd) (a t : Nat) : Cmd :=
  let plan := collPlan k.desc
  let i := plan.findIdx (fun p => planAxis k.desc p == a)
  let n := clAx k.desc a
  let p := if (plan[i]?.map Prod.snd) = some CollKind.flatScatter ∧ n ≤ t then (i + 1, t + 1 - n) else (i, t)
  let k := { k with finished := decide (plan.length ≤ p.1), coll := { k.coll with step := p.1 } }
  let before := fun (l : List Chunk) => if (k.stepKind.map Prod.snd) = some CollKind.place then 0 else (l.filter (fun h => decide (h.s < p.2))).length
  let vals := fun (i : Nat) (es : List Nat) =>
    let here := holdsAt k.desc plan i k.mesh
    es.map (fun e => (e, ofLe ((byteAddrs (spKey s.myX (clDbuf k.desc) + clSize k.desc * keyIdx here e) (clSize k.desc)).map s.sp.get)))
  { k with coll := { k.coll with
      entered := decide (1 < p.2), sent := before k.sends, recvd := before k.recvs, granted := 0, permits := [], unacked := []
      work := if p.1 = 0 then [] else vals p.1 (holdsAt k.desc plan p.1 k.mesh)
      next := if p.2 ≤ 1 ∨ k.reduces then [] else vals (p.1 + 1) (k.kept ++ (k.recvs.take (before k.recvs)).flatMap Chunk.keys) } }

/-- A COLL that the core does not hold any more takes its members from its communicator, where that has them. -/
def Cmd.joined (s : State) (x : Context) (k : Cmd) : Cmd :=
  match s.comm (clComm k.desc) with
  | none => k
  | some m =>
    let ms := s.commMembers m
    match ms.findIdx? (fun c => c == x.rankCoord) with
    | none => k
    | some rank => { k with coll := { k.coll with rank, members := ms, maxf := m.maxf, weight := m.weight, prio := m.prio, vc := m.vc } }

/-- The command of collective record `i`: the one that the core has kept under its number, with what the record holds; a record that it
knows nothing of makes a started COLL (R372, R374, R375). -/
def restoredColl (s : State) (x : Context) (b : List Byte) (i : Nat) : Cmd :=
  let r := 0x1A00 + 128 * i
  let id := BitVec.ofNat 16 (dn b (r + 0x54) 2)
  let d := padTo 128 ((b.drop r).take 0x48)
  let fields := fun (k : Cmd) => { k with
    desc := d, ef := { k.ef with sig := BitVec.ofNat 8 (dn b (r + 0x56) 1), inc := BitVec.ofNat 4 (dn b (r + 0x57) 1) }
    coll := { k.coll with seq := BitVec.ofNat 32 (dn b (r + 0x48) 4) } }
  match x.colls.find? (fun k => k.id == id) with
  | some k =>
    if dn b (r + 0x4C) 1 = (k.stepKind.map (planAxis k.desc)).getD 0 ∧ dn b (r + 0x4D) 1 = k.ringStep then fields k
    else (fields k).moved s (dn b (r + 0x4C) 1) (dn b (r + 0x4D) 1)
  | none =>
    let ef : EF := { g := 0, st := false, q := 0, vc := 0, dreg := 0, wsem := 0, thr := 0, sig := 0, inc := 0, toff := 0xFFFF }
    ((fields { id, eng := .coll, op := 3, timed := false, ef, desc := d, trel := x.arch.trel, fcr := x.arch.fcr, rkey := x.arch.rkey,
               bundle := x.arch.pc, order := x.nextOrder + i, committed := true, commitId := x.nextId, started := true }).joined s x).moved s
      (dn b (r + 0x4C) 1) (dn b (r + 0x4D) 1)

/-- The commands of the records, with the chunk tiles of those that have begun (R338, R375). -/
def restoreColls (s : State) (c : Fin 4) (b : List Byte) : State :=
  let x := s.ctx c
  let ks := (List.range (dn b 4 2)).map (restoredColl s x b)
  let s := s.setCtx c { x with cmds := x.cmds.filter (fun k => k.eng != .coll) ++ ks, nextOrder := x.nextOrder + ks.length }
  ks.zipIdx.foldl (fun s p =>
    let r := 0x1A00 + 128 * p.2
    let s := if p.1.coll.members.isEmpty then s
      else (List.range (clNch p.1.desc)).foldl (fun s i =>
        let k := s.tileKey (clChtile p.1.desc + i)
        s.setTile k { s.tile k with reserved := true }) s
    (p.1.partials.zipIdx.take (dn b (r + 0x4E) 2)).foldl (fun s t =>
      s.spPut (spKey s.myX (s.tile (s.tileKey t.1)).base) ((b.drop (0x4000 + dn b (r + 0x50) 4 + 4096 * t.2)).take 4096)) s) s

/-- Restores context c from its save area and lets it issue at RESUME from the GTB count `g` on (R374, R375). -/
def State.restoreCtx (s : State) (c : Fin 4) (g : W64) : State :=
  let x := s.ctx c
  match s.vaRead x.arch x.asid (s.saveAddr c) 65536 with
  | .error e => (s.devHit x.lid e x.arch x.asid .read (s.saveAddr c) 65536).fatal c e x.arch.pc 0
  | .ok b =>
    if !saveOk b then s.fatal c cILLEGAL_NODE (dn b 8 8) 0
    else
      (((restoreColls (restoreShare s c b) c b).mod c (fun x => { x with
        arch := restoredArch x.arch b
        mode := .starting g
        wait := .run
        pend := .run
        qs := (List.replicate 8 ({} : Que)).zipIdx.map (fun p =>
          if p.2 = 3 then { p.1 with ents := (List.range (dn b 6 1)).map (savedNote b) } else p.1)
        q0gen := false
        nextPc := none
        stallSince := none })).checkpoint c).mod c (fun x => if x.stopReq then { x with mode := .stopped, stopReq := false } else x)

end Sys2Proof.Machine
end

