-- ==== Sys2Proof/Machine/Landing.lean ====
section
/-! DEFINITION. The end of a tick: results land and the next bundle follows (R88, R107, R319), what the waits of SSTEP, NODE and
END go on to (R250, R253, R254, R308), and the switch between contexts (R318). RESULT_LAND, LOAD_RETURN, CONTEXT_SWITCH. -/

namespace Sys2Proof.Machine

open Sys2Proof

/-! ### Waits that end with a command, a call or a tick -/

/-- Context c ends at its END: it leaves its barriers, its record ends, its landing buffer and queue entries are discarded
(R254, R308, R402). -/
def State.endNow (s : State) (c : Fin 4) : State :=
  (s.leaveHasps c).mod c (fun x => { x with
    mode := .ended
    wait := .run
    queue := x.queue.filter (fun a => decide (a.kind ≠ .load))
    qs := List.replicate 8 {}
    wbuf := []
    arch := { x.arch with landing := [], recOpen := false } })

/-- Goes on with a wait of SSTEP, NODE or END of context c, where what it waits for has come about (R250, R253, R254, R368). -/
def State.settle (s : State) (c : Fin 4) : State :=
  let x := s.ctx c
  if x.mode ≠ .live then s
  else match x.wait with
    | .sstepCmds => s.sstepGo c
    | .node idx live =>
      if x.cmds.all (fun k => k.eng == .coll) ∧ (s.callsOf c).isEmpty then (s.nodeDone c idx live).savePeers c else s
    | .nodePeers _ _ => s.savePeers c
    | .ending => if x.cmds.isEmpty ∧ (s.callsOf c).isEmpty then s.endNow c else s
    | _ => s

/-! ### The end of a tick -/

/-- A landing entry that moves q0's head (R260). -/
def Land.movesQ0 : Land → Bool
  | .sys sel _ => sel == 5 || sel == 6
  | _ => false

/-- The guards that an entry writes become readable; stage predicates, which the loop unit computes ahead, count as readable before (R67, R92,
log 66). -/
def noteGuards (t : Nat) (l : List Nat) (e : LandEntry) : List Nat :=
  match e.act with
  | .g mask _ => if e.pos = 99 then l else l.zipIdx.map (fun p => if mask.getLsbD p.2 then t else p.1)
  | _ => l

/-- The entries due at the end of the context's tick land; the tick ends, and the bundle or repetition that follows is next
(R86, R88, R260, R319). -/
def Context.endTick (x : Context) : Context :=
  let due := dueAt x.tick x.arch.landing
  let moved := due.any (fun e => e.act.movesQ0)
  let a := x.arch.landDue x.tick
  { x with
    arch := if x.succRep = 0 then a.goTo x.succ else { a with pc := x.succ, rep := x.succRep }
    tick := x.tick + 1
    wait := x.pend
    pend := .run
    q0gen := if moved then false else x.q0gen
    guardAt := due.foldl (noteGuards (x.tick + 1)) x.guardAt
    ckptDone := false }

def State.endTick (s : State) (c : Fin 4) : State := (s.mod c Context.endTick).settle c

/-- RESULT_LAND (R319): the results of context c's tick land; one that waits for its load stalls the tick (R107). -/
def execResultLand (c : Fin 4) (s : State) : Out :=
  let x := s.ctx c
  if x.mode ≠ .live ∨ x.wait ≠ .landing then .next s
  else if x.arch.pendingDue x.tick then
    .next (s.mod c (fun x => { x with wait := .returning, traceCause := 2, arch := x.arch.landFlags x.tick }))
  else .next (s.endTick c)

/-- LOAD_RETURN (R107, R169): the data that context c's tick waited for has returned. -/
def execLoadReturn (c : Fin 4) (s : State) : Out :=
  let x := s.ctx c
  if x.mode ≠ .live ∨ x.wait ≠ .returning ∨ x.arch.pendingDue x.tick then .next s
  else .next (s.endTick c)

/-! ### Switching contexts (R318) -/

/-- A wait at which the core switches. -/
def Wait.switches : Wait → Bool
  | .blocked => true
  | .swait _ _ _ _ => true
  | .sstepCmds => true
  | .sstepHasp => true
  | .barw _ _ => true
  | .bara _ _ => true
  | .waitt _ => true
  | .node _ _ => true
  | .nodePeers _ _ => true
  | .ending => true
  | .probe _ _ long _ => long
  | .fenced => true
  | _ => false

/-- The context that follows: the best class, round robin from the context after the present one. -/
def State.nextCtx (s : State) : Option (Fin 4) :=
  let order := [s.cur + 1, s.cur + 2, s.cur + 3].filter s.readyCtx
  order.foldl (fun best c => match best with
    | none => some c
    | some b => if (s.ctx c).cls < (s.ctx b).cls then some c else some b) none

/-- Whether the core switches away from the present context. -/
def State.switches (s : State) : Bool :=
  decide (s.me.mode ≠ .live) || s.yields || (s.me.wait.switches && !s.readyCtx s.cur)

/-- CONTEXT_SWITCH (R318). Contexts that have all reached a qualifying NODE are saved here (R368). -/
def execContextSwitch (s : State) : Out :=
  let s := ctxIds.foldl (fun s c => match (s.ctx c).wait with
    | .nodePeers _ _ => s.settle c
    | _ => s) s
  if s.switches then .next { s with cur := s.nextCtx.getD s.cur } else .next s

end Sys2Proof.Machine
end

