-- ==== Sys2Proof/Machine/Banks.lean ====
section
/-! DEFINITION. The scratchpad banks' service of released stores and VAMOs (R265 to R270), the end of a TFREE (R127), the limit
on waits for a tile state (R274), and the entries of queue latches on their way (R148). BANK_ACCESS, TILE_DRAIN_COMPLETE,
QUEUE_ENTRY_VISIBLE. -/

namespace Sys2Proof.Machine

open Sys2Proof

/-! ### Banks -/

/-- Cuts a list into runs of equal key, in order. -/
def runsBy {α : Type} (key : α → Nat) : List α → List (List α)
  | [] => []
  | a :: as => match runsBy key as with
    | [] => [[a]]
    | r :: rs => match r with
      | [] => [a] :: rs
      | b :: _ => if key a = key b then (a :: r) :: rs else [a] :: r :: rs

/-- The rank of a request of context c: the core's own contexts in index order, then peers by x (R266); at another core's bank this
core is a peer. The sequencer and the engines reach a bank in steps of their own, which no other request shares. -/
def State.bankRank (s : State) (c : Fin 4) (key : Nat) : Nat := if key / 2 ^ 21 = s.myX then c.val else 8 + s.myX

/-- Requests reach their banks, in the cycle of the newest of those that wait or in a later one: which is left open (R266, log 4). -/
def State.reachBanks (s : State) (rs : List BankReq) : State :=
  let n := if Config.racePick s.choices then s.bankCycle else s.bankCycle + 1
  { s with bankQ := s.bankQ ++ rs.map (fun r => { r with cycle := n }), bankCycle := n, choices := s.choices + 1 }

/-- A store or VAMO of context c on scratchpad, as one request per granule and bank. -/
def State.toBanks (s : State) (c : Fin 4) (a : Acc) : State :=
  let reqs := if a.kind = .spAmo then
      (runsBy (fun (l : Nat × W32 × W32) => l.1 / 64) a.lanes).map (fun ls => ((ls.headD (0, 0, 0)).1, { a with lanes := ls }))
    else (runsBy (fun (p : Nat × Byte) => p.1 / 64) a.cells).map (fun ps => ((ps.headD (0, 0)).1, { a with cells := ps }))
  s.reachBanks (reqs.map (fun p => { bank := bankOf p.1, rank := s.bankRank c p.1, ctx := c, acc := p.2 }))

/-- The accumulate port's operation of a scratchpad VAMO (R175, R268). -/
def vamoAcc (ty : Nat) : Nat :=
  match ty with
  | 1 => 4
  | 2 => 1
  | 3 => 5
  | 4 => 2
  | _ => 3

/-- One accumulate on a naturally aligned element of `n` bytes (R267). -/
def State.bankAcc (s : State) (op : Nat) (w : W32) (key n v : Nat) : State × Bool :=
  let r := accOp op w (ofLe (s.sp.getList key n)) (v % 2 ^ (8 * n))
  (s.spPut key (leBytes n r.1), r.2)

/-- The bytes that a request writes. -/
def BankReq.keys (r : BankReq) : List Nat :=
  if r.acc.kind = .spAmo then r.acc.lanes.flatMap (fun l => byteAddrs l.1 r.acc.width) else r.acc.cells.map Prod.fst

/-- The operation of the accumulate port that a request asks for. -/
def BankReq.accumulate (r : BankReq) : Nat :=
  match r.peer with
  | some p => p.acc.val
  | none => vamoAcc r.acc.op

/-- A counted write that is not performed ends its launch, with the writer's identity (R269, R270). -/
def State.bankFault (s : State) (r : BankReq) (code : Byte) : State :=
  match r.peer with
  | some p => s.endLaunch p.lid { code, coord := p.coord, bundle := p.bundle, cmd := p.cmd, gtb := s.gtb }
  | none => s.fatal r.ctx code r.acc.bundle 0

/-- The failing word that a request meets at the bank: an accumulate reads it, a store writes a part of it (R428). -/
def State.bankBad (s : State) (r : BankReq) : Option BadWord := if r.acc.kind = .spAmo then s.badAt .sp r.keys else s.tornAt .sp r.keys

/-- The request is not performed, and its launch ends; a store's end names no bundle (R428). -/
def State.bankMeets (s : State) (r : BankReq) (b : BadWord) : State :=
  let r : BankReq := if r.acc.kind = .spAmo then r else { r with acc := { r.acc with bundle := 0 }, peer := r.peer.map (fun p => { p with bundle := 0 }) }
  (s.meets b (match r.peer with
    | some p => p.lid
    | none => (s.ctx r.ctx).lid)).bankFault r cUNCORRECTABLE_MEM

/-- Serves one request; a counted write that no tile takes is not performed and faults (R269, R270). -/
def State.serveBank (s : State) (r : BankReq) : State :=
  let go := fun (s : State) =>
    if r.acc.kind = .spAmo then r.acc.lanes.foldl (fun s l => (s.bankAcc r.accumulate l.2.2 l.1 r.acc.width l.2.1.toNat).1) s
    else s.spWrite r.acc.cells
  if let some b := s.bankBad r then s.bankMeets r b
  else if !r.acc.counted then go s
  else match s.countedOf (match r.peer with
      | some p => p.lid
      | none => (s.ctx r.ctx).lid) r.keys with
    | .ok s => go s
    | .error e => s.bankFault r e

/-- The core whose bank a request has reached. -/
def BankReq.core (r : BankReq) : Nat := r.keys.headD 0 / 2 ^ 21

/-- A claim of a reserved tile stalls until the release (R338); a peer's access waits while its launch is pre-empted here (R373). -/
def State.bankWaits (s : State) (r : BankReq) : Bool :=
  (match r.peer with
    | some p => s.away.any (fun q => q.2.lid == p.lid)
    | none => false) ||
  r.acc.counted && r.keys.any (fun b => match s.covering b with
    | some k => (s.tile k).reserved
    | none => false)

/-- The requests that a bank of one core serves next: those of its earliest cycle. -/
def State.bankNext (s : State) (b : Nat) : List BankReq :=
  let mine := s.bankQ.filter (fun r => r.bank == b && !s.bankWaits r)
  mine.filter (fun r => mine.all (fun q => q.core != r.core || decide (r.cycle ≤ q.cycle)))

/-- A request of a peer as this core's bank takes it. -/
def State.peerReq (s : State) (b : Nat) (p : PeerReq) : BankReq :=
  { bank := b, rank := 8 + p.x.val, ctx := 0, peer := some p
    acc := { id := 2 ^ 64, kind := if p.acc = 0 then .store else .spAmo, sp := true, counted := p.counted
             width := if p.acc = 2 ∨ p.acc = 3 then 2 else 4
             cells := p.cells.map (fun c => (spKey s.myX c.1.toNat, c.2))
             lanes := p.elts.map (fun e => (spKey s.myX e.1.toNat, e.2)) } }

/-- A request of a peer that a bank can take: of another core, its bytes in that bank of this core's scratchpad, its elements aligned
(R265, R267). -/
def State.peerOk (s : State) (b : Nat) (p : PeerReq) : Bool :=
  let r := s.peerReq b p
  p.x.val != s.myX && !r.keys.isEmpty && r.keys.all (fun k => decide (k % 2 ^ 21 < 0x180000) && bankOf k == b) &&
    r.acc.lanes.all (fun l => l.1 % r.acc.width == 0)

/-- BANK_ACCESS (R266): the requests that have reached the bank in its earliest cycle are served, in the fixed source order; they stall
while the bank is under test (R429). Or a peer's request reaches the bank, or a peer's tile-table entry changes. -/
def execBankAccess (e : BankEvent) (s : State) : Out :=
  let b := e.bank
  match e.peer with
  | none =>
    let now := s.bankNext b.val
    if s.unitFenced .spBank b.val then .next s
    else .next ((sortBy BankReq.rank now).foldl State.serveBank { s with bankQ := s.bankQ.filter (fun r => !now.contains r) })
  | some (.request p) => if s.peerOk b.val p then .next (s.reachBanks [s.peerReq b.val p]) else .next s
  | some (.tile x n base size expected arrived state lid) =>
    if x.val = s.myX then .next s
    else .next (s.setTile (256 * x.val + n.toNat)
      { base := base.toNat, size := size.toNat, expected := expected.toNat, arrived := arrived.toNat, state, lid })

/-! ### Tiles -/

/-- The reads that hold a tile freed by a TFREE: the context's loads of its bytes and its calls, issued before (R127). -/
def State.freeHeld (s : State) (t : Tile) (k : Nat) : Bool :=
  let x := s.ctx t.freeCtx
  let lo := spKey (k / 256) t.base
  x.queue.any (fun a => a.kind == .load && a.sp && decide (a.id < t.freeLoads) && a.addrs.any (fun b => decide (lo ≤ b) && decide (b < lo + t.size))) ||
    (s.callsOf t.freeCtx).any (fun k => decide (k.order < t.freeCalls))

/-- TILE_DRAIN_COMPLETE (R127, R272): the tile becomes EMPTY and its scale-cache entries go. -/
def execTileDrainComplete (n : BitVec 8) (s : State) : Out :=
  let k := s.tileKey n.toNat
  let t := s.tile k
  if t.state ≠ 3 ∨ !t.freeing ∨ s.freeHeld t k then .next s
  else .next ((s.dropScales t.tid).setTile k { t with state := 0, freeing := false })

/-- TLIM × 1,024 of a launch; 0 disables the limit (R274, R347). -/
def State.tileLimit (s : State) (c : Fin 4) : Nat := 1024 * dn (s.descOf c) 0x78 2

/-- GTB as far as waits on tile states count it: the time of a self-test under way is left out (R429). -/
def State.stallClock (s : State) : Nat := s.tests.foldl (fun g t => min g t.gtb.toNat) s.gtb.toNat

/-- A wait that began at `since` has lasted for the limit of the launch of context c. -/
def State.tileLate (s : State) (c : Fin 4) (since : Option W64) : Bool :=
  match since with
  | some g => decide (s.tileLimit c ≠ 0) && decide (s.tileLimit c ≤ s.stallClock - g.toNat)
  | none => false

/-- A fault of a command: the signal semaphore of one that has not started, too, takes `sem_fail` (R234). -/
def State.cmdFault (s : State) (c : Fin 4) (k : Cmd) (code : Byte) : State :=
  (if k.started ∨ k.ef.inc = 0 then s else s.semFail k.ef.sig k.ef.inc.toNat code).fatal c code 0 (cmdIdent k.op k.id)

/-- A command fails by an access at the addresses (R234, R386). -/
def State.cmdErr (s : State) (c : Fin 4) (k : Cmd) (code : Byte) (vas : List Nat) : State := (s.walkHit c code vas).cmdFault c k code

/-- A command goes on, or fails with a word that it has met (R428). -/
def State.orMeets (s : State) (c : Fin 4) (k : Cmd) (b : Option BadWord) (go : State) : State :=
  match b with
  | some b => (s.meets b (s.ctx c).lid).cmdFault c k cUNCORRECTABLE_MEM
  | none => go

/-- The command of context c with an identifier: the oldest one. -/
def Context.cmd (x : Context) (id : BitVec 16) : Option Cmd := x.cmds.find? (fun k => k.id == id)

/-! ### Queue entries on their way -/

/-- Where an entry from a neighbour's stream waits for its consumer: at the tail of the latch (R148, R349). -/
def Context.arrive (x : Context) (q : Nat) (e : QEntry) : Context :=
  x.push q { e := e, vis := true, due := 0, tok := 0, born := 0 }

/-- The first entry of latch q leaves the entries on their way, once it holds its lanes (R148, R178). -/
def dropFirst (q : Nat) : List Pushed → List Pushed
  | [] => []
  | p :: ps => if p.q = q then (if p.tok = 0 then ps else p :: ps) else p :: dropFirst q ps

/-- QUEUE_ENTRY_VISIBLE (R148): an entry that a neighbour has pushed reaches the consumer on this core, or one that this core
has pushed reaches its neighbour; a loopback entry is seen at its tick without a step of its own. -/
def execQueueEntryVisible (c : Fin 4) (q : Fin 8) (arr : Option QEntry) (s : State) : Out :=
  match arr with
  | some e =>
    let x := s.ctx c
    if 4 ≤ q.val ∧ x.share.mayRead q.val ∧ 2 ≤ x.share.kind q.val ∧ x.qLen q.val < 16 ∧ (x.mode = .live ∨ x.mode = .stopped) then
      .next (s.mod c (fun x => x.arrive q.val e))
    else .next s
  | none => .next (s.mod c (fun x => { x with out := dropFirst q.val x.out }))

end Sys2Proof.Machine
end

