-- ==== Sys2Proof/Machine/Home.lean ====
section
/-! DEFINITION. The stations below home and the home slices (R276, R280 to R285, R300, R301): what a memory-side operation
does when it is served, and sketch updates and queries (R392 to R399). HOME_SERVE for queued operations is completed by
Commands.lean for sketch commands; SKQRY_ANSWER. -/

namespace Sys2Proof.Machine

open Sys2Proof

/-! ### Stations -/

/-- The stations between CTX and home with their levels, lowest first (R285). -/
def State.stations (s : State) : List (Nat × List StByte) := [(1, s.stCore), (2, s.stCluster), (3, s.stDie)]

/-- The byte that a read from the lowest station finds, clean bytes below level `min` left out; home where none holds it
(R295, R298). -/
def State.readFrom (s : State) (min pa : Nat) : Byte :=
  match s.stations.findSome? (fun st => st.2.find? (fun b => b.pa == pa && (b.dirty || decide (min ≤ st.1)))) with
  | some b => b.val
  | none => s.mem.get pa

/-- The station that is the L1: CORE, or CLUSTER where the launch fuses the L1s (R278); its level; what it holds. -/
def State.l1Level (s : State) : Level := if s.fused then .cluster else .core
def State.l1At (s : State) : Nat := if s.fused then 2 else 1
def State.l1 (s : State) : List StByte := if s.fused then s.stCluster else s.stCore

/-- A failing word of the L1 that a write of the bytes changes in part: it leaves some byte that the L1 holds of the word (R428). -/
def State.l1Torn (s : State) (pas : List Nat) : Option BadWord :=
  s.bad.find? (fun b => b.space == .l1 && pas.any b.has && s.l1.any (fun e => b.has e.pa && !pas.contains e.pa))

/-- The failing words that remain when the L1 takes the bytes: those of its own that they lie in hold nothing else, and are good again
(R428). -/
def State.l1Mended (s : State) (pas : List Nat) : List BadWord := s.bad.filter (fun b => !(b.space == .l1 && pas.any b.has))

/-- What a station holds dirty of a byte: the stores that a dirty byte which replaces it takes on. -/
def marksAt (l : List StByte) (pa : Nat) : List (Fin 4 × Nat × BitVec 4) := (l.filter (fun x => x.dirty && x.pa == pa)).flatMap StByte.marks

/-- A station with the byte `b` put in place of what it held there. -/
def putByte (l : List StByte) (b : StByte) : List StByte :=
  (if b.dirty then { b with covers := b.covers ++ marksAt l b.pa } else b) :: l.filter (fun x => x.pa != b.pa)

/-- Drops the clean bytes at the listed addresses, at every station. -/
def State.dropClean (s : State) (pas : List Nat) : State :=
  let f := fun (l : List StByte) => l.filter (fun b => b.dirty || !pas.contains b.pa)
  { s with stCore := f s.stCore, stCluster := f s.stCluster, stDie := f s.stDie }

/-- Whether an earlier store of the same context holds byte `d` back (R293): a dirty byte `e` of it, in its class, in class 15,
or at all where `d` is of class 15; the stores that each of them has replaced go on with it. -/
def holdsBack (d e : StByte) : Bool :=
  e.dirty && d.marks.any (fun m => e.marks.any (fun n =>
    n.1 == m.1 && decide (n.2.1 < m.2.1) && (n.2.2 == m.2.2 || n.2.2 == 15 || m.2.2 == 15)))

/-- Whether some SC atomic of the same tumbler that has not been served has a smaller ticket (R301). -/
def State.ticketWaits (s : State) (a : Acc) : Bool :=
  let less := fun (b : Acc) => b.tumbler == a.tumbler && decide (b.ticket < a.ticket)
  s.homeQ.any (fun h => less h.acc) || ctxIds.any (fun c => (s.ctx c).queue.any less)

/-- An SC atomic that waits for a lower ticket holds back no other operation (R281, R300). -/
def State.scWaits (s : State) (a : Acc) : Bool := a.tumbler != 0 && s.ticketWaits a

/-- An operation that has not been served at home keeps the byte from it: an earlier `.strm` or `.byp` store, or atomic, of a context whose
store the byte carries (R291), or a `.strm` store that the L1 has shown already, which any context may have read (R295). -/
def State.homeHolds (s : State) (d : StByte) : Bool :=
  s.homeQ.any (fun h => h.acc.kind.isStore && h.acc.touches false d.pa && !s.scWaits h.acc &&
    (h.acc.upd || d.marks.any (fun m => m.1 == h.ctx && decide (h.acc.id < m.2.1))))

/-- The 64-byte line of an address. -/
def lineOf (pa : Nat) : Nat := pa / 64

/-- Whether the dirty bytes of the lines can all go home now: nothing outside them holds one back (R276, R293). -/
def State.flushable (s : State) (lines : List Nat) : Bool :=
  let all := s.stations.flatMap Prod.snd
  all.all (fun d => !(d.dirty && lines.contains (lineOf d.pa)) ||
    (all.all (fun e => lines.contains (lineOf e.pa) || !holdsBack d e) && !s.homeHolds d && !s.homeFenced d.pa))

/-- The dirty bytes of a unit of a store that the L1 gives up from a failing word of its own (R428). -/
def State.l1Lost (s : State) (b : StByte) : Bool :=
  s.l1.contains b && s.l1.any (fun e => e.dirty && e.ctx == b.ctx && e.id == b.id && e.unit == b.unit && (s.badAt .l1 [e.pa]).isSome)

/-- The dirty bytes of stores that reach home one store at a time and would change a part of a failing word there, or come from a failing word
of the L1: these stores are not performed (R428). -/
def State.tornBytes (s : State) (bs : List StByte) : List StByte :=
  if s.bad.isEmpty then []
  else bs.filter (fun b => s.l1Lost b ||
    (s.tornAt .l2 ((bs.filter (fun e => e.ctx == b.ctx && e.id == b.id && e.unit == b.unit)).map StByte.pa)).isSome)

/-- The launches of stores that were not performed end, with FBUNDLE 0 (R428). -/
def State.endTorn (s : State) (bs : List StByte) : State :=
  ctxIds.foldl (fun s c =>
    let pas := (bs.filter (fun b => b.ctx == c)).map StByte.pa
    match (s.badAt .l1 pas).or (s.badAt .l2 pas) with
    | some w => s.metBy w c 0
    | none => s) s

/-- The dirty bytes of a station in the lines, as cells, without those left out. -/
def dirtyCells (lines out : List Nat) (l : List StByte) : List (Nat × Byte) :=
  (l.filter (fun b => b.dirty && lines.contains (lineOf b.pa) && !out.contains b.pa)).map (fun b => (b.pa, b.val))

/-- The dirty bytes of the lines at home; the stations stay. -/
def State.bringHome (s : State) (lines : List Nat) : State :=
  let torn := s.tornBytes ((s.stations.flatMap Prod.snd).filter (fun b => b.dirty && lines.contains (lineOf b.pa)))
  let out := torn.map StByte.pa
  (((s.memWrite (dirtyCells lines out s.stDie)).memWrite (dirtyCells lines out s.stCluster)).memWrite (dirtyCells lines out s.stCore)).endTorn torn

/-- The dirty bytes of the lines go home; the copies at the stations go. -/
def State.flush (s : State) (lines : List Nat) : State :=
  let keep := fun (b : StByte) => !lines.contains (lineOf b.pa)
  { s.bringHome lines with stCore := s.stCore.filter keep, stCluster := s.stCluster.filter keep, stDie := s.stDie.filter keep }

/-- The dirty bytes of the lines are written back and stay as clean copies at the L1 (R276, R293, R300). -/
def State.writeBack (s : State) (lines : List Nat) : State :=
  let mine := fun (b : StByte) => lines.contains (lineOf b.pa)
  let clean := fun (l : List StByte) => l.map (fun b => if mine b then { b with dirty := false } else b)
  let drop := fun (l : List StByte) => l.filter (fun b => !mine b)
  { s.bringHome lines with
    stCore := if s.fused then drop s.stCore else clean s.stCore
    stCluster := if s.fused then clean s.stCluster else drop s.stCluster
    stDie := drop s.stDie }

/-- New values for the clean copies of bytes that the L1 holds (R276). -/
def State.refresh (s : State) (cells : List (Nat × Byte)) : State :=
  let f := fun (l : List StByte) => l.map (fun b => match cells.find? (fun p => p.1 == b.pa) with
    | some p => if b.dirty then b else { b with val := p.2, age := 0 }
    | none => b)
  { s with stCore := f s.stCore, stCluster := f s.stCluster, stDie := f s.stDie }

/-! ### Home slices -/

/-- The address that an operation acts on. -/
def HomeOp.pa (h : HomeOp) : Nat :=
  match h.acc.kind with
  | .vamo => (h.acc.lanes.headD (0, 0, 0)).1
  | .store => (h.acc.cells.headD (0, 0)).1
  | _ => h.acc.addrs.headD 0

/-- Operations arrive at the queues of their slices in order. -/
def State.toHome (s : State) (c : Fin 4) (as : List Acc) : State :=
  as.foldl (fun s a => { s with homeQ := s.homeQ ++ [{ id := s.nextHome, ctx := c, acc := a }], nextHome := s.nextHome + 1 }) s

/-- The SR operations that other cores of the launch of context c have made at a slice since this core's last one: none where the
launch has no other core, else a free value (R282, log 4). -/
def State.farWords (s : State) (c : Fin 4) : State × Nat :=
  if ldPlaced (s.descOf c) ≤ 1 then (s, 0) else ({ s with choices := s.choices + 1 }, Config.pick s.choices)

/-- The next word of the random stream of a slice, of whatever package, for the launch of context c and an operation of a bundle (R282),
recorded for replay (R446). -/
def State.sliceWord (s : State) (c : Fin 4) (pa bundle : Nat) : State × W32 :=
  let lid := (s.ctx c).lid
  let n := homeSlice pa
  let f := s.farWords c
  let j := ((s.srPos.find? (fun p => p.1 == lid && p.2.1 == n)).map (fun p => p.2.2)).getD 0 + f.2
  let r := f.1.input c kSR (BitVec.ofNat 64 (sliceNo pa * 2 ^ 48 + j % 2 ^ 48)) (some bundle)
  let j := fld r.2 0 48
  let key := BitVec.ofNat 64 (dn (s.descOf c) 0x40 8) ^^^ BitVec.ofNat 64 (sliceNo pa)
  ({ r.1 with srPos := (lid, n, j + 1) :: r.1.srPos.filter (fun p => !(p.1 == lid && p.2.1 == n)) }, nth (philox key j 0 0 0x5E) 0)

/-- The bytes that an operation reads or changes at home. -/
def HomeOp.bytes (h : HomeOp) : List Nat :=
  match h.acc.kind with
  | .store => h.acc.cells.map Prod.fst
  | .vamo => h.acc.lanes.flatMap (fun l => byteAddrs l.1 h.acc.width)
  | .amo => h.acc.addrs
  | .skupd => if h.acc.op = 1 then byteAddrs h.pa 4 else byteAddrs (h.pa + 0xB) 13
  | _ => byteAddrs h.pa 4

/-- The new value of an AMO of width `8n` (R118). -/
def amoNew (op n : Nat) (w : W32) (old b expect : Nat) : Nat :=
  let m := 2 ^ (8 * n)
  let so := toSigned (8 * n) old
  let sb := toSigned (8 * n) (b % m)
  let b := b % m
  match op with
  | 0 => b
  | 1 => (old + b) % m
  | 2 => old &&& b
  | 3 => old ||| b
  | 4 => old ^^^ b
  | 5 => if sb < so then b else old
  | 6 => if so < sb then b else old
  | 7 => min old b
  | 8 => max old b
  | 9 => if old = expect % m then b else old
  | 10 => addBits f32 .rne old b
  | _ => addBits f32 (.sr w) old b

/-- The new value of a lane of a memory VAMO (R175). -/
def vamoNew (ty : Nat) (w : W32) (old v : Nat) : Nat :=
  match ty with
  | 0 => (old + v) % 2 ^ 32
  | 1 => (accOp 4 w old v).1
  | 2 => (accOp 1 w old v).1
  | 3 => (accOp 5 w old v).1
  | 4 => (accOp 2 w old (v % 2 ^ 16)).1
  | 5 => (accOp 3 w old (v % 2 ^ 16)).1
  | 6 => if toSigned 32 v < toSigned 32 old then v else old
  | _ => if toSigned 32 old < toSigned 32 v then v else old

/-- The value of access `tok` reaches the landing buffer, and the shadow's (R88, R315). -/
def Context.gotValue (x : Context) (tok : Nat) (act : Land) : Context :=
  let f := fun (e : LandEntry) => if e.tok = tok ∧ !e.ready then { e with ready := true, act := act } else e
  { x with
    arch := { x.arch with landing := x.arch.landing.map f }
    shadow := { x.shadow with landing := x.shadow.landing.map f } }

/-- Bytes change at home, and clean copies below go. -/
def State.homePut (s : State) (pa : Nat) (bs : List Byte) : State := (s.memPut pa bs).dropClean (byteAddrs pa bs.length)

/-- An AMO is served (R118, R119, R300); its acquire follows (R298). -/
def State.serveAmo (s : State) (c : Fin 4) (a : Acc) : State :=
  let pa := a.addrs.headD 0
  let n := a.width
  let old := s.memNat pa n
  let r := if a.sr then s.sliceWord c pa a.bundle else (s, 0)
  let s := r.1.homePut pa (leBytes n (amoNew a.op n r.2 old a.operand.toNat a.expect.toNat))
  let act := a.dst.lands (leBytes n old)
  let v := match act with
    | .s _ v => v
    | _ => 0
  let s := s.mod c (fun x => (x.gotValue a.id act).noteAtomic a.id v)
  if a.acq then s.acquire a.scope.toNat else s

/-- One lane of a memory VAMO is served. The clamp of `adds` sets no flag, as at a bank (R268; for memory DESIGN CHOICE, log 64). -/
def State.serveVamo (s : State) (c : Fin 4) (a : Acc) : State :=
  let l := a.lanes.headD (0, 0, 0)
  let r := if a.op = 3 ∨ a.op = 5 then s.sliceWord c l.1 a.bundle else (s, 0)
  r.1.homePut l.1 (leBytes a.width (vamoNew a.op r.2 (r.1.memNat l.1 a.width) l.2.1.toNat))

/-! ### Sketches (R392 to R399) -/

/-- The header of 64 bytes, where it is well formed (R392, R393). -/
def skHead (b : List Byte) : Option SkHead :=
  let f := toSigned 8 (dn b 0xA 1)
  if (dn b 8 1 = 3 ∨ dn b 8 1 = 5 ∨ dn b 8 1 = 7) ∧ 10 ≤ dn b 9 1 ∧ dn b 9 1 ≤ 30 ∧ -32 ≤ f ∧ f ≤ 48 ∧ dn b 0xB 1 < 4 ∧ dz b 0xC 0x10 ∧
      dz b 0x20 0x40 ∧ dn b 0x18 8 % 64 = 0 ∧ dn b 0x18 8 < 2 ^ 56 then
    some { key := BitVec.ofNat 64 (dn b 0 8), d := dn b 8 1, k := dn b 9 1, f, rowbase := dn b 0x18 8 }
  else none

/-- The seeds of row r: multiplier and offset of the hash (c = 0) or of the sign (c = 1) (R395). -/
def skSeed (key : W64) (r c : Nat) : Nat × Nat :=
  let w := philox key r c 0 0
  (((nth w 1).toNat * 2 ^ 32 + (nth w 0).toNat) ||| 1, (nth w 3).toNat * 2 ^ 32 + (nth w 2).toNat)

def skHash (h : SkHead) (r i : Nat) : Nat :=
  let p := skSeed h.key r 0
  (p.1 * i + p.2) % 2 ^ 64 / 2 ^ (64 - h.k)

/-- +1 or −1. -/
def skSign (h : SkHead) (r i : Nat) : Int :=
  let p := skSeed h.key r 1
  if (p.1 * i + p.2) % 2 ^ 64 < 2 ^ 63 then 1 else -1

/-- The virtual address of counter j of row r. -/
def SkHead.addr (h : SkHead) (r j : Nat) : Nat := h.rowbase + 4 * (r * 2 ^ h.k + j)

/-- q of an update, and the FLAGS bits it sets: [0] SAT, [1] NAN (R396). -/
def skQuant (h : SkHead) (sr : Bool) (w v : W32) : Int × Nat :=
  match (dec32 v).scale h.f with
  | .nan => (0, 2)
  | .inf neg => (if neg then -(2 ^ 31) else 2 ^ 31 - 1, 1)
  | .fin neg mag exp =>
    let r := satS 32 (roundInt (if sr then .sr w else .rne) neg mag exp).1
    (r.1, if r.2 then 1 else 0)

/-- The virtual addresses of the counters of the lanes of a sketch access. -/
def SkHead.lanesVas (h : SkHead) (lanes : List Nat) : List Nat :=
  lanes.flatMap (fun i => (List.range h.d).map (fun r => h.addr r (skHash h r i)))

/-- Counter addresses of the lanes of a sketch access, translated; the status of the first that fails. -/
def State.skAddrs (s : State) (c : Fin 4) (need : Need) (h : SkHead) (lanes : List Nat) : Except Byte (List (List Tr)) :=
  let x := s.ctx c
  lanes.mapM (fun i => (List.range h.d).mapM (fun r => s.access x.arch x.asid need (h.addr r (skHash h r i))))

/-- The operations of a SKUPD once its header is read: D counter operations and a header operation for each lane, at homes that may
be on another package (R396). -/
def skupdOps (far : Nat → Bool) (h : SkHead) (a : Acc) (pas : List (List Tr)) : List Acc :=
  (a.lanes.zip pas).flatMap (fun p =>
    let q := skQuant h a.sr p.1.2.2 p.1.2.1
    (p.2.zipIdx.map (fun t => { a with
      op := 1, lanes := [], addrs := [t.1.pa], remote := far t.1.pa, operand := BitVec.ofInt 64 (skSign h t.2 p.1.1 * q.1), expect := BitVec.ofNat 64 (a.addrs.headD 0) })) ++
    [{ a with op := 2, lanes := [], remote := far (a.addrs.headD 0), operand := BitVec.ofNat 64 q.2 }])

/-- The operations of a SKQRY: one counter read for each row of each lane, at homes that may be on another package (R397). -/
def skqryOps (far : Nat → Bool) (h : SkHead) (a : Acc) (pas : List (List Tr)) : List Acc :=
  (a.lanes.zip pas).flatMap (fun p =>
    p.2.zipIdx.map (fun t => { a with lanes := [(t.2, p.1.2.1, 0)], addrs := [t.1.pa], remote := far t.1.pa, operand := BitVec.ofInt 64 (skSign h t.2 p.1.1) }))

/-- A header operation: FLAGS OR `fl`, COUNT + n (R396, R399). -/
def State.skHeadOp (s : State) (pa fl n : Nat) : State :=
  let s := s.homePut (pa + 0xB) [s.mem.get (pa + 0xB) ||| BitVec.ofNat 8 fl]
  s.homePut (pa + 0x10) (leBytes 8 ((s.memNat (pa + 0x10) 8 + n) % 2 ^ 64))

/-- The identifier that the SAT operation of a sketch command carries, by the command's place in the order of commands: no access has it. -/
def satId (order : Nat) : Nat := 2 ^ 200 + order

/-- One operation of an update is served; a counter that clamps sends SAT to the header (R396, R399). -/
def State.serveSkupd (s : State) (c : Fin 4) (a : Acc) : State :=
  let pa := a.addrs.headD 0
  if a.op = 1 then
    let r := satS 32 (toSigned 32 (s.memNat pa 4) + a.operand.toInt)
    let s := s.homePut pa (leBytes 4 (ofSigned 32 r.1))
    if r.2 then s.toHome c [{ a with op := 3, addrs := [a.expect.toNat], remote := s.remote a.expect.toNat, operand := 1 }] else s
  else s.skHeadOp pa a.operand.toNat (if a.op = 2 then 1 else 0)

/-- One counter of a query is read (R397). -/
def State.serveSkqry (s : State) (c : Fin 4) (a : Acc) : State :=
  let v := a.operand.toInt * toSigned 32 (s.memNat (a.addrs.headD 0) 4)
  let n := (a.lanes.headD (0, 0, 0)).2.1.toNat
  s.mod c (fun x => x.modQ 1 (fun q => { q with ents := q.ents.map (fun e =>
    if e.tok = a.id ∧ e.idx = n / 16 then { e with ans := e.ans ++ [(n % 16, v)] } else e) }))

/-- The median of a lane's counters as the entry's FP32 value (R397). -/
def skMedian (f : Int) (cs : List Int) : W32 :=
  let sorted := cs.foldl (fun o x => o.takeWhile (fun y => decide (y ≤ x)) ++ [x] ++ o.dropWhile (fun y => decide (y ≤ x))) []
  rne32 ((dec32 (rne32 (FV.ofInt (sorted.getD ((cs.length - 1) / 2) 0)))).scale (-f))

/-- The entry of a SKQRY whose counters have all been read. -/
def QSlot.answered (e : QSlot) : QSlot :=
  { e with
    vis := true
    e := { e.e with lanes := (List.range 16).map (fun l =>
      if e.e.mask.getLsbD l then skMedian e.fexp ((e.ans.filter (fun p => p.1 == l)).map Prod.snd) else 0) } }

/-- Makes the first entry that is not yet seen visible, where all its counters have been read. -/
def answerFirst : List QSlot → List QSlot
  | [] => []
  | e :: es =>
    if e.vis then e :: answerFirst es
    else match e.need with
      | some n => if n ≤ e.ans.length then e.answered :: es else e :: es
      | none => e :: es

/-- SKQRY_ANSWER (R177): entries enter q1 in the order of their SKQRYs. -/
def execSkqryAnswer (c : Fin 4) (s : State) : Out := .next (s.mod c (fun x => x.modQ 1 (fun q => { q with ents := answerFirst q.ents })))

/-! ### Service -/

/-- A counter operation of a sketch update or query. -/
def Acc.isCounter (a : Acc) : Bool := a.kind == .skqry || (a.kind == .skupd && a.op == 1)

/-- Counter operations arrive row by row, in an order that nothing fixes against the operations of other contexts, nor against those of
other classes of their own (R281, R304, R397, R399). -/
def unordered (g h : HomeOp) : Bool :=
  (g.ctx != h.ctx && (g.acc.isCounter || h.acc.isCounter)) ||
    (g.acc.isCounter && h.acc.isCounter && g.acc.cls != h.acc.cls && g.acc.cls != 15 && h.acc.cls != 15)

/-- Whether operation `h` is the next its slice may serve: an SC atomic by its ticket, the others in arrival order (R281, R300);
two operations of one context on one byte never pass each other (R291), but for an SC atomic that waits for its ticket, nor does one pass a
`.strm` store to its bytes that the L1 has shown already (R295). -/
def State.mayServe (s : State) (h : HomeOp) : Bool :=
  let before := s.homeQ.takeWhile (fun g => g.id != h.id)
  let mine := h.bytes
  before.all (fun g => (g.ctx != h.ctx && !g.acc.upd) || !g.bytes.any mine.contains || unordered g h || s.scWaits g.acc) &&
    (if h.acc.tumbler ≠ 0 then !s.ticketWaits h.acc
     else before.all (fun g => homeSlice g.pa != homeSlice h.pa || g.acc.tumbler != 0 || unordered g h))

/-- The effect of an operation at its home. -/
def State.serve (s : State) (h : HomeOp) : State :=
  match h.acc.kind with
  | .amo => s.serveAmo h.ctx h.acc
  | .vamo => s.serveVamo h.ctx h.acc
  | .skupd => s.serveSkupd h.ctx h.acc
  | .skqry => s.serveSkqry h.ctx h.acc
  | .store =>
    if h.acc.route = 1 then (s.memWrite h.acc.cells).refresh h.acc.cells
    else (s.memWrite h.acc.cells).dropClean (h.acc.cells.map Prod.fst)
  | _ => s

/-- The failing word that an operation meets at home, with the bundle that its fault names: 0 for a store that writes a part of the word
(R428). -/
def State.homeBad (s : State) (h : HomeOp) : Option (BadWord × Nat) :=
  match h.acc.kind with
  | .store => (s.tornAt .l2 h.bytes).map (fun b => (b, 0))
  | _ => (s.badAt .l2 h.bytes).map (fun b => (b, h.acc.bundle))

/-- An operation has met a failing word at home: its launch ends, by the fault of its command where it is the SAT of one (R234, R428). -/
def State.homeMet (s : State) (h : HomeOp) (b : BadWord) (bundle : Nat) : State :=
  match (s.ctx h.ctx).cmds.find? (fun k => satId k.order == h.acc.id) with
  | some k => (s.meets b (s.ctx h.ctx).lid).cmdFault h.ctx k cUNCORRECTABLE_MEM
  | none => s.metBy b h.ctx bundle

/-- Serves the operation of a home-slice queue with an identifier; a failing word that it meets ends its launch instead. -/
def State.homeServe (s : State) (id : Nat) : State :=
  match s.homeQ.find? (fun h => h.id == id) with
  | some h =>
    if !s.mayServe h ∨ s.homeHeld h.bytes then s
    else
      let gone := fun (t : State) => { t with homeQ := t.homeQ.filter (fun g => g.id != id) }
      match s.homeBad h with
      | some (b, bundle) => gone (s.homeMet h b bundle)
      | none => (gone s).serve h
  | none => s

end Sys2Proof.Machine
end

