-- ==== Sys2Proof/Machine/Ordering.lean ====
section
/-! DEFINITION. The steps of the ordering machine (R285 to R299): the perform step of stores and memory-side operations, the
propagate, fill and drop steps, the load step, and the end of a release; the signals of released SSIGs (R252). STORE_PERFORM,
PROPAGATE_STEP, FILL_STEP, DROP_STEP, LOAD_STEP, RELEASE_COMPLETE, SSIG_SIGNAL. -/

namespace Sys2Proof.Machine

open Sys2Proof

/-! ### Class order (R291, R298) -/

def AccKind.isSsig : AccKind → Bool
  | .ssig => true
  | .ssigClr => true
  | _ => false

/-- Whether entry `b` of the same queue must perform before `a`. An SSIG has no class: only class 15 orders it against others (DEDUCED, log
75). -/
def classBefore (b a : Acc) : Bool :=
  decide (b.id < a.id) && ((b.cls == a.cls && !b.kind.isSsig && !a.kind.isSsig) || (b.cls == 15 && !b.kind.isSsig) || (a.cls == 15 && !a.kind.isSsig))

/-- Whether an acquire of the context that has not been served holds entry `a` back (R298). -/
def State.acqHolds (s : State) (c : Fin 4) (a : Acc) : Bool :=
  s.homeQ.any (fun h => h.ctx == c && h.acc.acq && decide (h.acc.id < a.id) && inMask (ownMask h.acc.cls) a.cls)

/-- Entry `a` of context c is at the head of its class. -/
def State.headOf (s : State) (c : Fin 4) (a : Acc) : Bool :=
  !(s.ctx c).queue.any (fun b => classBefore b a) && !s.acqHolds c a

/-- The bytes that an entry changes. -/
def Acc.writes (a : Acc) : List Nat :=
  match a.kind with
  | .store => a.cells.map Prod.fst
  | .amo => a.addrs
  | .vamo => a.lanes.flatMap (fun l => byteAddrs l.1 a.width)
  | .spAmo => a.lanes.flatMap (fun l => byteAddrs l.1 a.width)
  | _ => []

/-- An earlier store of the context to one of the bytes, by its place or, where it is parked, by the virtual address, has not performed: the
two reach every station in program order whatever their classes (R291, R389). -/
def State.sameByteBefore (s : State) (c : Fin 4) (a : Acc) : Bool :=
  let w := a.writes
  (s.ctx c).queue.any (fun b => decide (b.id < a.id) && b.kind.isStore && b.sp == a.sp && (b.writes.any w.contains || (b.wp && b.vaList.any a.vaList.contains)))

/-- A release holds its own store or atomic until what it orders has reached the scope (R297, R299). -/
def State.relHolds (s : State) (c : Fin 4) (a : Acc) : Bool := a.rel && s.relPending c a.id (ownMask a.cls) a.scope.toNat

/-! ### The perform step (R292) -/

/-- The bytes of a store as they stand at a station: dirty, one by one, but those of an aligned store of 4 or 8 bytes as one unit
(R293). -/
def Acc.bytesAt (a : Acc) (c : Fin 4) (cells : List (Nat × Byte)) : List StByte :=
  let n := if a.width = 4 ∨ a.width = 8 then a.width else 1
  cells.map (fun p => { pa := p.1, val := p.2, dirty := true, ctx := c, id := a.id, cls := a.cls, unit := p.1 / n, size := n })

def State.putStation (s : State) (lvl : Nat) (bs : List StByte) : State :=
  match lvl with
  | 1 => { s with stCore := bs.foldl putByte s.stCore }
  | 2 => { s with stCluster := bs.foldl putByte s.stCluster }
  | 3 => { s with stDie := bs.foldl putByte s.stDie }
  | _ => s.memWrite (bs.map (fun b => (b.pa, b.val)))

/-- Bytes that reach station `lvl` at once take on the stores whose dirty bytes they replace on their way there (R293). -/
def State.over (s : State) (lvl : Nat) (bs : List StByte) : List StByte :=
  bs.map (fun b => { b with covers := b.covers ++ (s.stations.filter (fun st => decide (st.1 < lvl))).flatMap (fun st => marksAt st.2 b.pa) })

/-- Puts bytes at a station and leaves clean copies at those below it on their path. -/
def State.putUpTo (s : State) (lvl : Nat) (bs : List StByte) : State :=
  ([1, 2, 3].filter (fun l => decide (s.entryLevel ≤ l) && decide (l < lvl))).foldl
    (fun s l => s.putStation l (bs.map (fun b => { b with dirty := false }))) (s.putStation lvl bs)

/-- The bytes would replace a part of a dirty unit at a station up to `lvl`, whose rest would then go on alone: they wait until it has
gone on (R293, R296; DEDUCED, log 36). -/
def State.splits (s : State) (lvl : Nat) (bs : List StByte) : Bool :=
  (s.stations.filter (fun st => decide (st.1 ≤ lvl))).any (fun st =>
    let cut := st.2.filter (fun e => e.dirty && decide (1 < e.size) && bs.any (fun d => d.pa == e.pa))
    cut.any (fun e => st.2.any (fun f => f.dirty && f.ctx == e.ctx && f.id == e.id && f.unit == e.unit && !bs.any (fun d => d.pa == f.pa))))

/-- Whether bytes that go on to station `lvl` must wait: for an earlier dirty byte of their context (R293), for an operation of it at home
(R291), or for the unit that they would split. -/
def State.heldBelow (s : State) (lvl : Nat) (bs : List StByte) : Bool :=
  (s.stations.filter (fun st => decide (st.1 < lvl))).any (fun st => st.2.any (fun e => !bs.contains e && bs.any (fun d => d.pa != e.pa && holdsBack d e))) ||
    (decide (4 ≤ lvl) && bs.any s.homeHolds) || s.splits lvl bs

/-- Whether the byte of a store has a path that leads to home without a station, or goes past the L1 (R276, R287, R292). -/
def State.direct (s : State) (a : Acc) (pa : Nat) : Bool := s.remote pa || a.route != 0

/-- The copy that a load of context c reads of a byte, where it is not the context's own store. -/
def State.copyOf (s : State) (min pa : Nat) : Option StByte :=
  s.stations.findSome? (fun st => st.2.find? (fun b => b.pa == pa && (b.dirty || decide (min ≤ st.1))))

/-- The parts of a store that home serves one by one: the given bytes of it, word by word. -/
def State.parts (s : State) (a : Acc) (cells : List (Nat × Byte)) : List Acc :=
  (runsBy (fun (p : Nat × Byte) => p.1 / 8) cells).map (fun ps => { a with
    cells := ps
    remote := s.remote (ps.headD (0, 0)).1
    upd := a.route == 1 && ps.any (fun p => (s.stCore ++ s.stCluster).any (fun b => b.pa == p.1)) })

/-- The lines that a memory-side operation or direct store touches. -/
def Acc.lines (a : Acc) : List Nat :=
  (a.writes ++ (if a.kind = .skupd ∨ a.kind = .skqry then a.addrs else [])).map lineOf

/-- Entry `a` leaves its class queue. -/
def State.leaveQueue (s : State) (c : Fin 4) (a : Acc) : State :=
  s.mod c (fun x => { x with queue := x.queue.filter (fun b => b.id != a.id) })

/-- A SKUPD or SKQRY performs: the header is read at home, its counters are found, and its operations are sent; a malformed header
or a counter address that fails ends the launch (R393, R396, R397, R400). -/
def State.performSketch (s : State) (c : Fin 4) (a : Acc) : State :=
  let pa := a.addrs.headD 0
  let head := (List.range 64).map (fun i => s.readFrom 4 (pa + i))
  if s.homeHeld ((byteAddrs pa 64).filter (fun b => (s.copyOf 4 b).isNone)) then s
  else match s.badAt .l2 ((byteAddrs pa 64).filter (fun b => (s.copyOf 4 b).isNone)) with
  | some b => (s.metBy b c a.bundle).leaveQueue c a
  | none => match skHead head with
  | none => (s.fatal c cILLEGAL_OPERAND a.bundle 0).leaveQueue c a
  | some h =>
    match s.skAddrs c (if a.kind = .skupd then .both else .read) h (a.lanes.map Prod.fst) with
    | .error e => ((s.walkHit c e (h.lanesVas (a.lanes.map Prod.fst))).fatal c e a.bundle 0).leaveQueue c a
    | .ok ts =>
      let s := s.tlbFillAll (s.ctx c).asid (h.lanesVas (a.lanes.map Prod.fst))
      let lines := lineOf pa :: ts.flatten.map (fun t => lineOf t.pa)
      if !s.flushable lines ∨ (a.kind = .skupd ∧ ts.flatten.any Tr.wp) then s
      else
        let s := (s.writeBack lines).leaveQueue c a
        if a.kind = .skupd then s.toHome c (skupdOps s.remote h a ts)
        else
          let need := fun (i : Nat) => (a.lanes.filter (fun l => l.2.1.toNat / 16 == i)).length * h.d
          (s.mod c (fun x => x.modQ 1 (fun q => { q with ents := q.ents.map (fun e =>
            if e.tok = a.id then { e with need := some (need e.idx), fexp := h.f } else e) }))).toHome c (skqryOps s.remote h a ts)

/-- The failing word that a store changes in part where it reaches home at once, or in the L1 (R428). -/
def State.homeTorn (s : State) (a : Acc) (lvl : Nat) (far : List (Nat × Byte)) (bs : List StByte) : Option BadWord :=
  (s.tornAt .l2 ((if a.rel then far.map Prod.fst else []) ++ (if 4 ≤ lvl then bs.map StByte.pa else []))).or (s.l1Torn (bs.map StByte.pa))

/-- An earlier operation of the context on one of the bytes has not been served at home (R291). -/
def State.farHeld (s : State) (c : Fin 4) (a : Acc) (far : List (Nat × Byte)) : Bool :=
  s.homeQ.any (fun h => h.ctx == c && decide (h.acc.id < a.id) && h.acc.kind.isStore && !s.scWaits h.acc && far.any (fun p => h.acc.touches false p.1))

/-- The L1, or a slice or row that a store reaches at once, is under test (R429). -/
def State.storeFenced (s : State) (a : Acc) (lvl : Nat) (far : List (Nat × Byte)) (bs : List StByte) : Bool :=
  (s.underTest .l1 && !bs.isEmpty) || (a.rel && s.homeHeld (far.map Prod.fst)) || (decide (4 ≤ lvl) && s.homeHeld (bs.map StByte.pa))

/-- A store of memory performs: the bytes that go past the stations enter their home queues, or home itself where it is a release, once
their lines are written back, and the others the station of their level (R276, R287, R292, R297). -/
def State.performStore (s : State) (c : Fin 4) (a : Acc) : State :=
  let far := a.cells.filter (fun p => s.direct a p.1)
  let bs := a.bytesAt c (a.cells.filter (fun p => !s.direct a p.1))
  let lines := far.map (fun p => lineOf p.1)
  let lvl := if a.rel then max s.entryLevel (scopeLevel a.scope.toNat) else s.entryLevel
  let bs := if a.rel then s.over lvl bs else bs
  if !s.flushable lines ∨ (a.rel && s.farHeld c a far) ∨ s.heldBelow lvl bs ∨ s.storeFenced a lvl far bs then s
  else if let some b := s.homeTorn a lvl far bs then (s.leaveQueue c a).metBy b c 0
  else
    let t := (s.writeBack lines).leaveQueue c a
    let t : State := { t with bad := t.l1Mended (bs.map StByte.pa) }
    let t := if a.rel then (t.memWrite far).dropClean (far.map Prod.fst)
      else (if a.route = 1 then t.refresh far else t).toHome c (t.parts a far)
    t.putUpTo lvl bs

/-- A store, atomic or other memory-side operation that may perform does so. -/
def State.perform (s : State) (c : Fin 4) (a : Acc) : State :=
  match a.kind with
  | .skupd => s.performSketch c a
  | .skqry => s.performSketch c a
  | .spAmo => (s.leaveQueue c a).toBanks c a
  | .amo => if s.flushable a.lines then ((s.writeBack a.lines).leaveQueue c a).toHome c [a] else s
  | .vamo =>
    if s.flushable a.lines then
      ((s.writeBack a.lines).leaveQueue c a).toHome c (a.lanes.map (fun l => { a with lanes := [l], remote := s.remote l.1 }))
    else s
  | .store => if a.sp then (s.leaveQueue c a).toBanks c a else s.performStore c a
  | _ => s

/-- STORE_PERFORM (R292): an entry that translated through WP = 1 stays parked (R389). A SKQRY waits until every SKUPD of its
context before it, in its class, has been served (R304). -/
def execStorePerform (c : Fin 4) (id : Nat) (s : State) : Out :=
  match (s.ctx c).queue.find? (fun a => a.id == id) with
  | none => .next s
  | some a =>
    let served := !s.homeQ.any (fun h => h.ctx == c && h.acc.kind == .skupd && decide (h.acc.id < a.id) && (h.acc.cls == a.cls || h.acc.cls == 15 || a.cls == 15))
    if !s.headOf c a ∨ a.wp ∨ s.relHolds c a ∨ s.sameByteBefore c a ∨ (a.kind = .skqry ∧ !served) then .next s
    else .next (s.perform c a)

/-! ### Propagate, fill and drop (R293, R294) -/

def levelNum : Level → Nat
  | .core => 1
  | .cluster => 2
  | .die => 3

def State.station (s : State) : Level → List StByte
  | .core => s.stCore
  | .cluster => s.stCluster
  | .die => s.stDie

/-- The number that names a unit of a store in PROPAGATE_STEP. -/
def StByte.name (b : StByte) : Nat := b.id * 4 + b.ctx.val + 2 ^ 64 * b.unit

/-- The dirty bytes of a station that keep some of `bs` there, with the rest of their units; the fuel is their number. -/
def holders (l : List StByte) : Nat → List StByte → List StByte
  | 0, bs => bs
  | f + 1, bs =>
    let hs := l.filter (fun e => e.dirty && !bs.contains e && bs.any (fun d => holdsBack d e || (e.dirty && e.name == d.name)))
    if hs.isEmpty then bs else holders l f (bs ++ hs)

/-- What goes on with the bytes `bs` of a station: units that have replaced bytes of each other's stores keep each other back, and go on
together (R293; DEDUCED, log 36). -/
def movesWith (l bs : List StByte) : List StByte :=
  let g := holders l l.length bs
  if g.all (fun e => bs.all (holders l l.length [e]).contains) then g else bs

/-- Bytes of stores that are not performed leave the stations (R428). -/
def State.dropBytes (s : State) (bs : List StByte) : State :=
  let f := fun (l : List StByte) => l.filter (fun b => !(b.dirty && bs.contains b))
  { s with stCore := f s.stCore, stCluster := f s.stCluster, stDie := f s.stDie }

/-- PROPAGATE_STEP (R293); a store whose word fails in the L1, or at home where it changes a part of it, is not performed (R428). -/
def execPropagateStep (lvl : Level) (id : Nat) (s : State) : Out :=
  let bs := movesWith (s.station lvl) ((s.station lvl).filter (fun b => b.dirty && b.name == id))
  let torn := if lvl = .die then s.tornBytes bs else bs.filter s.l1Lost
  if bs.isEmpty ∨ s.heldBelow ((levelNum lvl) + 1) bs ∨ (lvl = s.l1Level ∧ s.underTest .l1) ∨ (lvl = .die ∧ s.homeHeld (bs.map StByte.pa)) then .next s
  else if !torn.isEmpty then .next ((s.dropBytes bs).endTorn torn)
  else .next ((s.putStation ((levelNum lvl) + 1) bs).putStation (levelNum lvl) (bs.map (fun b => { b with dirty := false })))

/-- A clean copy of what the next station above a level holds of a byte. -/
def State.above (s : State) (lvl : Level) (pa : Nat) : Option StByte :=
  let copy := fun (b : StByte) => { b with dirty := false }
  match lvl with
  | .core => (s.stCluster.find? (fun b => b.pa == pa)).map copy
  | .cluster => (s.stDie.find? (fun b => b.pa == pa)).map copy
  | .die => some { pa, val := s.mem.get pa, dirty := false, ctx := 0, id := 0, cls := 0 }

/-- FILL_STEP (R294): a word of the L1 that held nothing is good again with the copy that comes into it (R428). A station that does not hold a byte takes a clean copy. Only DRAM of the package has stations (R276, R287); fused
L1s leave the CORE station without any (R278); a byte that a `.strm` store has changed at the L1 comes back after its service
(R295). -/
def execFillStep (lvl : Level) (pa : BitVec 56) (s : State) : Out :=
  let a := pa.toNat
  if s.remote a ∨ paRegion a ≠ 0 ∨ levelNum lvl < s.entryLevel ∨ (lvl = s.l1Level ∧ s.underTest .l1) ∨ (lvl = .die ∧ s.homeFenced a) ∨ s.strmOn a ∨ (s.station lvl).any (fun b => b.pa == a) then .next s
  else .next (State.putStation { s with bad := if lvl = s.l1Level ∧ (s.l1Torn [a]).isNone ∧ (s.above lvl a).isSome then s.l1Mended [a] else s.bad } (levelNum lvl) (s.above lvl a).toList)

/-- DROP_STEP (R294): a clean byte of a station goes. -/
def execDropStep (lvl : Level) (pa : BitVec 56) (s : State) : Out :=
  let f := fun (l : List StByte) => l.filter (fun b => b.dirty || b.pa != pa.toNat)
  match lvl with
  | .core => .next { s with stCore := f s.stCore }
  | .cluster => .next { s with stCluster := f s.stCluster }
  | .die => .next { s with stDie := f s.stDie }

/-! ### The load step (R290, R295, R298) -/

/-- The lowest level whose clean bytes a load may read: its acquire scope; home for `.byp` (R170, R276, R298). -/
def Acc.minLevel (a : Acc) : Nat := if a.route = 2 then 4 else if a.acq then scopeLevel a.scope.toNat else 0

/-- The bytes of a load of context c: its own stores first, then the stations of its path, or home (R287, R290, R295). -/
def State.loadBytes (s : State) (c : Fin 4) (a : Acc) : List Byte :=
  a.addrs.map (fun b => ((s.ctx c).ownOf a b).getD
    (if a.sp then s.sp.get b else if s.remote b then s.mem.get b else s.readFrom a.minLevel b))

/-- The age of what a load reads of a byte: none where it is a store that is still on its way, 0 at home. -/
def State.ageOf (s : State) (c : Fin 4) (a : Acc) (b : Nat) : Option Nat :=
  if ((s.ctx c).ownOf a b).isSome then none
  else match s.copyOf a.minLevel b with
    | some e => if e.dirty then none else some e.age
    | none => some 0

/-- The bytes of each aligned 4-byte word that a load reads come from one store, but for stores of parts of the word: no copy that a
store of the whole word has overtaken stands beside one that it has not (R296). And no byte is read at home behind a `.strm` store that
the L1 has shown (R295). -/
def State.readsWhole (s : State) (c : Fin 4) (a : Acc) : Bool :=
  a.sp || a.addrs.all (fun b =>
    (match s.ageOf c a b with
     | none => true
     | some n => a.addrs.all (fun d => d / 4 != b / 4 || (s.ageOf c a d).getD n == n)) &&
    (!s.strmOn b || (s.copyOf a.minLevel b).isSome || ((s.ctx c).ownOf a b).isSome))

/-- Entries that wait for load `tok` take their lanes, in order. -/
def fillSlots (tok : Nat) : List QEntry → List QSlot → List QSlot
  | [], l => l
  | _, [] => []
  | e :: es, x :: l => if x.tok = tok ∧ !x.vis then { x with e := e, vis := true } :: fillSlots tok es l else x :: fillSlots tok (e :: es) l
def fillPushed (tok : Nat) : List QEntry → List Pushed → List Pushed
  | [], l => l
  | _, [] => []
  | e :: es, x :: l => if x.tok = tok then { x with e := e, tok := 0 } :: fillPushed tok es l else x :: fillPushed tok (e :: es) l

/-- The failing word that a load meets: in scratchpad, in the L1 or at home, where it reads the byte there (R428). -/
def State.loadBad (s : State) (c : Fin 4) (a : Acc) : Option BadWord :=
  if s.bad.isEmpty then none
  else
    let bs := a.addrs.filter (fun b => ((s.ctx c).ownOf a b).isNone)
    if a.sp then s.badAt .sp bs
    else (s.badAt .l1 (bs.filter (fun b => !s.remote b && s.l1.any (fun e => e.pa == b && (e.dirty || decide (a.minLevel ≤ s.l1At)))))).or
      (s.badAt .l2 (bs.filter (fun b => s.remote b || (s.copyOf a.minLevel b).isNone)))

/-- A bank, the L1, or the slice or row of a byte that a load of context c reads at home is under test (R429). -/
def State.loadFenced (s : State) (c : Fin 4) (a : Acc) : Bool :=
  if a.sp then s.spFenced a.addrs
  else (s.underTest .l1 && decide (a.minLevel ≤ s.l1At)) ||
    s.homeHeld (a.addrs.filter (fun b => ((s.ctx c).ownOf a b).isNone && (s.remote b || (s.copyOf a.minLevel b).isNone)))

/-- The bytes of a PUSHQ's load supply the entries that it has pushed, or are compared with those that a replay finds in the push log (R178,
R322). -/
def State.supply (s : State) (c : Fin 4) (a : Acc) (bs : List Byte) : State :=
  match a.dst with
  | .push q at_ n ty =>
    let es := (List.range n).map (fun i => ({ mask := 0xFFFF, lanes := laneElts ty 0xFFFF (bs.drop (16 * tySize ty * i)) } : QEntry))
    let x := s.ctx c
    let log := (x.qs.getD q {}).log
    let same := (List.range n).all (fun i => match log[at_ + i]? with
      | some p => p.tok == a.id || p.e == es.getD i p.e
      | none => true)
    if decide (x.ckptId ≤ a.id) && !same then s.fatal c cREPLAY_DIVERGED a.bundle 0
    else s.mod c (fun x => { x.modQ q (fun t => { t with ents := fillSlots a.id es t.ents, log := fillPushed a.id es t.log }) with
      out := fillPushed a.id es x.out })
  | _ => s

/-- LOAD_STEP (R295): the load's value is fixed; a `.byp` load leaves no older copy below, and an acquire drops the clean bytes
below its scope (R298). -/
def execLoadStep (c : Fin 4) (id : Nat) (s : State) : Out :=
  match (s.ctx c).queue.find? (fun a => a.id == id) with
  | none => .next s
  | some a =>
    if a.kind ≠ .load ∨ !s.headOf c a ∨ a.addrs.any (fun b => s.onItsWay c a.sp a.id b) ∨ !s.readsWhole c a ∨ s.loadFenced c a then .next s
    else if let some b := s.loadBad c a then .next ((s.leaveQueue c a).metBy b c a.bundle)
    else
      let act := a.dst.lands (s.loadBytes c a)
      let bytes := s.loadBytes c a
      let s := ((s.leaveQueue c a).mod c (fun x => x.gotValue a.id act)).supply c a bytes
      let s := if !a.sp && a.route == 2 then s.dropClean a.addrs else s
      .next (if a.acq then s.acquire a.scope.toNat else s)

/-! ### Releases and signals -/

/-- RELEASE_COMPLETE (R297): the FENCE that held context c proceeds once every earlier masked store has reached the station of its
scope. -/
def execReleaseComplete (c : Fin 4) (s : State) : Out :=
  if (s.ctx c).mode = .live ∧ (s.ctx c).wait = .stall 4 ∧ ({ s with cur := c }.issueBundle.ctx c).wait ≠ .stall 4 then
    .next (s.mod c (fun x => { x with wait := .run }))
  else .next s

/-- Clears a semaphore's latch and code (R252). -/
def State.semClear (s : State) (n : BitVec 8) : State :=
  { s with semLatch := s.semLatch.put n.toNat 0, semCode := s.semCode.put n.toNat 0 }

/-- SSIG_SIGNAL (R252): the first released SSIG of context c signals, once every store released before it has performed at its
point of coherence, and every earlier entry of class 15 (R291). A value that would pass 65,535 faults with the bundle of the SSIG (R225). -/
def execSsigSignal (c : Fin 4) (s : State) : Out :=
  match (s.ctx c).queue.find? (fun a => a.kind == .ssig || a.kind == .ssigClr) with
  | none => .next s
  | some a =>
    if s.relPending c a.id 0xFFFF 5 ∨ (s.ctx c).queue.any (fun b => classBefore b a) then .next s
    else
      let s := s.leaveQueue c a
      if a.kind = .ssigClr then .next (s.semClear a.sem)
      else match s.semSignal a.sem a.inc with
        | some t => .next t
        | none => .next (s.fatal c cILLEGAL_OPERAND a.bundle 0)

end Sys2Proof.Machine
end

