-- ==== Sys2Proof/Machine/Waits.lean ====
section
/-! DEFINITION. The ends of the waits of a context: semaphores (R225, R226), barrier releases (R249, R250, R309), the time base
(R251, R310), and the generation of q0 entries (R260). SEM_WAIT_SATISFIED, HASP_RELEASE_DELIVERY, GTB_TARGET_REACHED,
RANDOM_ENTRY_GENERATED. -/

namespace Sys2Proof.Machine

open Sys2Proof

/-- The first context, in index order, whose SWAIT on semaphore n can go on, with its threshold and whether it acquires; a set
latch lets a waiter that is not `.soft` go on to its fault (R225, R226). -/
def State.waiter (s : State) (n : BitVec 8) : Option (Fin 4 × Nat × Bool × Bool) :=
  ctxIds.findSome? (fun c => match (s.ctx c).mode, (s.ctx c).wait with
    | .live, .swait m t acq soft => if m = n ∧ (s.semReady n t ∨ (s.semLatched n ∧ !soft)) then some (c, t, acq, soft) else none
    | _, _ => none)

/-- SEM_WAIT_SATISFIED (R225, R226, R252). -/
def execSemWaitSatisfied (n : BitVec 8) (s : State) : Out :=
  match s.waiter n with
  | none => .next s
  | some (c, t, acq, soft) =>
    if s.semLatched n ∧ !soft then .next (s.fatal c (s.semCode.get n.toNat) (s.ctx c).lastPc 0)
    else .next (s.swaitDone c n t acq)

/-- The GTB count of a release that members elsewhere decide: at most 64 counts before it arrives here, and not before the last arrival
here (R309), a free value (log 5). -/
def State.farRelease (s : State) (h : Hasp) : W64 := s.gtb - BitVec.ofNat 64 (min (fld (Config.freeWord s.times) 0 64 % 65) (s.gtb - h.last).toNat)

/-- The release of a barrier that has members on other cores, once every member here has arrived. -/
def State.farSettle (s : State) (k : Nat) : State :=
  let h := s.hasp k
  if h.far && h.full then { s.setHasp k (h.release (s.farRelease h)) with times := s.times + 1 } else s

/-- HASP_RELEASE_DELIVERY (R249, R250, R309): the release of the barrier that context c waits at reaches it. -/
def execHaspReleaseDelivery (c : Fin 4) (s : State) : Out :=
  let x := s.ctx c
  if x.mode ≠ .live then .next s
  else match x.wait with
    | .barw n ph =>
      let s := s.farSettle (haspKey x.lid n)
      .next (if (s.hasp (haspKey x.lid n)).phase = ph then s else s.mod c Context.synced)
    | .bara n ph =>
      let s := s.farSettle (haspKey x.lid n)
      .next (if (s.hasp (haspKey x.lid n)).phase = ph then s else (s.arrive c (haspKey x.lid n)).mod c Context.synced)
    | .sstepHasp =>
      let s := s.farSettle (haspKey x.lid 0)
      let h := s.hasp (haspKey x.lid 0)
      .next (if h.has c then s else s.mod c (fun x => (x.modArch (fun a => { a with trel := h.rel })).synced))
    | _ => .next s

/-- GTB_TARGET_REACHED (R251, R310): contexts whose WAITT or whose start or resume count has been reached go on; cycles
count from the launch's start (R255). -/
def execGtbTargetReached (s : State) : Out :=
  .next (ctxIds.foldl (fun s c => match (s.ctx c).mode, (s.ctx c).wait with
    | .live, .waitt t => if t ≤ s.gtb then s.mod c (fun x => { x with wait := .run }) else s
    | .starting g, _ =>
      if g ≤ s.gtb then s.mod c (fun x => { x with mode := .live, cycles := if x.tick = 0 then 0 else x.cycles }) else s
    | _, _ => s) s)

/-- RANDOM_ENTRY_GENERATED (R260): the head entry of q0 at the present position is ready. -/
def execRandomEntryGenerated (c : Fin 4) (s : State) : Out := .next (s.mod c (fun x => { x with q0gen := true }))

end Sys2Proof.Machine
end

