-- ==== Sys2Proof/Machine/Exchange.lean ====
section
/-! DEFINITION. A collective as it runs (R333 to R342, R405, R473): the steps, their chunks, chunk tiles and permits. What members on
other cores send comes as the rows' arguments; what one member on this core sends to another goes through `State.wire`. DIGEST,
SEND_PERMIT, CHUNK_SEND, CHUNK_RECEIVE. -/

namespace Sys2Proof.Machine

open Sys2Proof

/-- Changes command `k` of context c. -/
def State.modCmd (s : State) (c : Fin 4) (k : Cmd) (f : Cmd → Cmd) : State :=
  s.mod c (fun x => { x with cmds := mapIf (fun j => j.order == k.order) f x.cmds })

/-- Changes the progress of a collective. -/
def State.modColl (s : State) (c : Fin 4) (k : Cmd) (f : CollRun → CollRun) : State :=
  s.modCmd c k (fun k => { k with coll := f k.coll })

/-- A command of context c by its place in the order of issue. -/
def State.cmdAt (s : State) (c : Fin 4) (order : Nat) : Option Cmd := (s.ctx c).cmds.find? (fun k => k.order == order)

/-- The chunk tiles of a COLL (R338). -/
def State.chunkTiles (s : State) (k : Cmd) : List Nat := (List.range (clNch k.desc)).map (fun i => s.tileKey (clChtile k.desc + i))

/-! ### Peers -/

/-- The rank of the member at `p` places along the ring of axis a. -/
def Cmd.along (k : Cmd) (a p : Nat) : Nat := meshRank k.desc (setNth k.mesh a ((k.mesh.getD a 0 + p) % clAx k.desc a))

/-- The ring neighbours with which a member exchanges digests: both on every axis that has a step and more than one position (R340). -/
def Cmd.neighbours (k : Cmd) : List Nat :=
  ((List.range (clNax k.desc)).filter (fun a => decide (clUse k.desc false a ≠ clUse k.desc true a) && decide (1 < clAx k.desc a))).flatMap
    (fun a => [k.along a 1, k.along a (clAx k.desc a - 1)])

/-- The rank of the member that a chunk of step `i` comes from, and of the one that it goes to (R333, R473). -/
def Cmd.recvPeer (k : Cmd) (i : Nat) (h : Chunk) : Nat :=
  match (collPlan k.desc)[i]? with
  | some (a, .exchange _) => k.along a (clAx k.desc a - h.s)
  | some (_, .place) => h.s
  | some (a, _) => k.along a (clAx k.desc a - 1)
  | none => 0
def Cmd.sendPeer (k : Cmd) (i : Nat) (h : Chunk) : Nat :=
  match (collPlan k.desc)[i]? with
  | some (a, .exchange _) => k.along a h.s
  | some (_, .place) => h.s
  | some (a, _) => k.along a 1
  | none => 0

/-- The member of a rank; past the last one the coordinate of no context. -/
def Cmd.member (k : Cmd) (r : Nat) : BitVec 28 := k.coll.members.getD r (BitVec.allOnes 28)

/-- The member of a rank, by the communicator's table where the COLL has not begun. -/
def State.memberOf (s : State) (k : Cmd) (r : Nat) : BitVec 28 :=
  if k.coll.members.isEmpty then (((s.comm (clComm k.desc)).map s.commMembers).getD []).getD r (BitVec.allOnes 28) else k.member r

/-- The context with a coordinate is one of this core: it has a slot, or is pre-empted here. -/
def State.hosts (s : State) (m : BitVec 28) : Bool :=
  ctxIds.any (fun c => decide ((s.ctx c).mode ≠ .free) && (s.ctx c).rankCoord == m) || s.away.any (fun p => p.2.rankCoord == m)

/-- The context in a slot with a coordinate. -/
def State.slotOf (s : State) (m : BitVec 28) : Option (Fin 4) :=
  ctxIds.find? (fun c => decide ((s.ctx c).mode ≠ .free) && (s.ctx c).rankCoord == m)

/-- A member sends to another one: what stays on the core goes onto the wire. -/
def State.tell (s : State) (k : Cmd) (r : Nat) (w : WireWhat) : State :=
  if s.hosts (k.member r) then
    { s with wire := s.wire ++ [{ comm := clComm k.desc, seq := k.coll.seq, dst := k.member r, src := k.coll.rank, what := w }] }
  else s

/-! ### Digests (R302, R340) -/

/-- The digest of a COLL (R340). -/
def Cmd.digest (k : Cmd) : W64 := crc64 0 (k.desc.take 0x30 ++ leBytes 8 k.coll.seq.toNat)

/-- The COLL has begun, and the digest of every ring neighbour has arrived. -/
def Cmd.exchanged (k : Cmd) : Bool := !k.coll.members.isEmpty && k.neighbours.all (fun r => k.coll.got.any (fun p => p.1 == r))

/-- A digest or report that a COLL has received tells of a mismatch. -/
def Cmd.mismatched (k : Cmd) : Bool := k.coll.got.any (fun p => p.2 != k.digest)

/-- The context of this core that is a member has committed its COLL of a sequence number (R302). -/
def Context.hasCommitted (x : Context) (comm : BitVec 12) (seq : BitVec 32) : Bool :=
  x.cmds.any (fun k => k.eng == .coll && clComm k.desc == comm && k.coll.seq == seq && k.committed) ||
    (decide (seq < (x.arch.seqOf comm).getD 0) && !x.cmds.any (fun k => k.eng == .coll && clComm k.desc == comm && k.coll.seq == seq))

/-- The SSIGs and stores that the context released at or before the commit have all performed (R231, R302). -/
def State.commitDone (s : State) (c : Fin 4) (k : Cmd) : Bool :=
  !s.relPending c k.commitId 0xFFFF 5 &&
    !(s.ctx c).queue.any (fun a => decide (a.id < k.commitId) && (a.kind == .ssig || a.kind == .ssigClr))

/-- The COLL of the context in slot c has committed, and its commit's release over DOMAIN scope is over (R302). -/
def State.slotCommitted (s : State) (c : Fin 4) (comm : BitVec 12) (seq : BitVec 32) : Bool :=
  (s.ctx c).hasCommitted comm seq &&
    (s.ctx c).cmds.all (fun k => !(k.eng == .coll && clComm k.desc == comm && k.coll.seq == seq) || s.commitDone c k)

/-- The COLLs of every member at the sequence number have committed, as far as this member has been told or its core knows; a context that is
away has been saved after its releases (R302, R369). -/
def State.allCommitted (s : State) (k : Cmd) : Bool :=
  k.coll.members.zipIdx.all (fun p => p.2 == k.coll.rank || k.coll.got.any (fun g => g.1 == p.2) ||
    (ctxIds.any (fun c => decide ((s.ctx c).mode ≠ .free) && (s.ctx c).rankCoord == p.1 && s.slotCommitted c (clComm k.desc) k.coll.seq) ||
      s.away.any (fun q => q.2.rankCoord == p.1 && q.2.hasCommitted (clComm k.desc) k.coll.seq)))

/-- No chunk of the COLLs of a sequence number counts, at whatever member here, once their digests differ (R340). -/
def Cmd.noChunks (comm : BitVec 12) (seq : BitVec 32) (k : Cmd) : Cmd :=
  if k.eng = .coll ∧ clComm k.desc = comm ∧ k.coll.seq = seq then { k with coll := { k.coll with left := 0 } } else k

def State.noChunks (s : State) (comm : BitVec 12) (seq : BitVec 32) : State :=
  let f := fun (x : Context) => { x with cmds := x.cmds.map (Cmd.noChunks comm seq) }
  { s with c0 := f s.c0, c1 := f s.c1, c2 := f s.c2, c3 := f s.c3, away := s.away.map (fun p => (p.1, f p.2)) }

/-- A COLL ends its launch by a mismatch: one failed item, with no chunk sent (R340). The members on this core are told. -/
def State.mismatch (s : State) (c : Fin 4) (k : Cmd) : State :=
  let s := (List.range k.coll.members.length).foldl (fun s r => if r = k.coll.rank then s else s.tell k r .report) s
  (s.noChunks (clComm k.desc) k.coll.seq).cmdFault c k cCOLL_MISMATCH

/-! ### What a member holds -/

/-- The offset of an element in the source buffer. -/
def Cmd.srcOff (k : Cmd) (e : Nat) : Nat := clSbuf k.desc + clSize k.desc * keyIdx (holdsAt k.desc (collPlan k.desc) 0 k.mesh) e

/-- What a byte of a word of the source buffer was when the COLL was committed and is now; the old one stands where the choice falls on
it. -/
def State.srcByte (s : State) (k : Cmd) (o : Nat) : Byte :=
  let now := s.sp.get (spKey s.myX o)
  match k.coll.src.find? (fun p => p.1 == o) with
  | some p => if p.2 = now then now else if Config.raceAt s.choices (o / 4) then p.2 else now
  | none => now

/-- The engine reads elements of the source buffer, word by word and each word once: a store since the commit is seen or not (R342, log
59). -/
def State.lookSrc (s : State) (c : Fin 4) (k : Cmd) (es : List Nat) : State :=
  if k.coll.step ≠ 0 then s
  else
    let ws := sortedSet (es.flatMap (fun e => (byteAddrs (k.srcOff e) (clSize k.desc)).map (fun o => o / 4)))
    let new := ws.filter (fun w => !k.coll.seen.any (fun p => p.1 / 4 == w))
    { s.modColl c k (fun r => { r with seen := r.seen ++ (new.flatMap (fun w => byteAddrs (4 * w) 4)).map (fun o => (o, s.srcByte k o)) }) with
      choices := s.choices + 1 }

/-- The scratchpad bytes that the engine has still to read of elements of the source buffer. -/
def State.ownReads (s : State) (k : Cmd) (es : List Nat) : List Nat :=
  if k.coll.step ≠ 0 then []
  else ((es.flatMap (fun e => byteAddrs (k.srcOff e) (clSize k.desc))).filter (fun o => !k.coll.seen.any (fun p => p.1 / 4 == o / 4))).map
    (fun o => spKey s.myX o)

/-- The member's own value of an element before the present step: of the source buffer as it has been read, in the first step. -/
def Cmd.ownElem (k : Cmd) (e : Nat) : Nat :=
  if k.coll.step = 0 then ofLe ((byteAddrs (k.srcOff e) (clSize k.desc)).map (fun o => ((k.coll.seen.find? (fun p => p.1 == o)).map Prod.snd).getD 0))
  else ((k.coll.work.find? (fun p => p.1 == e)).map Prod.snd).getD 0

/-- The bytes of elements, in order. -/
def eltsBytes (n : Nat) (vs : List Nat) : List Byte := vs.flatMap (leBytes n)

/-- The bytes of a counted write of elements to the destination buffer as the count sees them: a word whose two elements come apart counts
when the second of them has come, so that READY stands for the whole shard (R269, R336; DEDUCED, log 74). -/
def State.destCount (s : State) (k : Cmd) (es : List (Nat × Nat)) : List Nat :=
  let now := (s.destCells k es).map Prod.fst
  let was := (s.destCells k k.coll.next).map Prod.fst
  let has := fun (b : Nat) => now.contains b || was.contains b
  if clSize k.desc = 4 then now
  else now.filter (fun b => b % 4 != 3 || has (b - 3)) ++
    (now.filter (fun b => b % 4 == 0 && !now.contains (b + 3) && was.contains (b + 3))).map (fun b => b + 3)

/-- Elements have come to their place: in the last step they are counted writes to the destination buffer (R336). A write that no tile
counts ends the launch (R269, R270). -/
def State.placeElems (s : State) (c : Fin 4) (k : Cmd) (es : List (Nat × Nat)) : Except Byte State :=
  let keys := s.destCount k es
  let s := s.modColl c k (fun r => { r with next := r.next ++ es })
  if !k.lastStep then .ok s
  else
    let cells := s.destCells k es
    match s.counted c keys with
    | .ok s => .ok (s.spWrite cells)
    | .error e => .error e

/-- The bytes of the destination buffer that elements are written to in the present step. -/
def State.destKeysOf (s : State) (k : Cmd) (es : List Nat) : List Nat :=
  if k.lastStep then (s.destCells k (es.map (fun e => (e, 0)))).map Prod.fst else []

/-- Goes on, or ends the launch with the command's fault. -/
def State.orFault (s : State) (c : Fin 4) (k : Cmd) (r : Except Byte State) (go : State → State) : State :=
  match r with
  | .ok t => go t
  | .error e => s.cmdFault c k e

/-- The COLL of context c waits on the state of its destination tiles: from the first moment of it on it is timed (R274). -/
def State.collTimed (s : State) (c : Fin 4) (k : Cmd) : State := s.modCmd c k (fun k => { k with since := some (k.since.getD s.gtb) })

/-- The present step begins, once its target bytes are free: what is kept stands in its place. -/
def State.enterStep (s : State) (c : Fin 4) (order : Nat) : State :=
  match s.cmdAt c order with
  | none => s
  | some k =>
    if !s.destFree k k.kept ∨ s.spFenced (s.ownReads k k.kept ++ s.destKeysOf k k.kept) then s
    else s.orMeets c k ((s.badAt .sp (s.ownReads k k.kept)).or (s.tornAt .sp (s.destKeysOf k k.kept))) <|
      let s := s.lookSrc c k k.kept
      match s.cmdAt c order with
      | none => s
      | some k => s.orFault c k (s.placeElems c k (k.kept.map (fun e => (e, k.ownElem e)))) (fun s => s.modColl c k (fun r => { r with entered := true }))

/-- The present step is complete. -/
def Cmd.stepDone (k : Cmd) : Bool := k.coll.entered && decide (k.recvs.length ≤ k.coll.recvd) && decide (k.sends.length ≤ k.coll.sent)

/-- The layout that a step has left is held in the destination buffer (R336). -/
def State.keepLayout (s : State) (k : Cmd) (es : List (Nat × Nat)) : State :=
  s.spPut (spKey s.myX (clDbuf k.desc)) (eltsBytes (clSize k.desc) (es.map Prod.snd))

/-- Enters the present step, and goes on through steps that are complete; the fuel is the number of steps. -/
def State.runSteps (c : Fin 4) (order : Nat) : Nat → State → State
  | 0, s => s
  | f + 1, s =>
    match s.cmdAt c order with
    | none => s
    | some k =>
      if !k.exchanged ∨ k.finished ∨ (s.ctx c).mode = .ended then s
      else if !k.coll.entered then (if s.destFree k k.kept then State.runSteps c order f (s.enterStep c order) else s.collTimed c k)
      else if !k.stepDone then s
      else if k.lastStep then s.modCmd c k (fun k => { k with finished := true })
      else
        let es := sortBy Prod.fst k.coll.next
        State.runSteps c order f ((s.keepLayout k es).modColl c k (fun r => { r with
          step := r.step + 1, entered := false, sent := 0, recvd := 0, granted := 0, work := es, next := [] }))

/-- Goes on where it stands, as far as the digests and the chunks allow. -/
def State.goOn (s : State) (c : Fin 4) (k : Cmd) : State := State.runSteps c k.order (2 * (collPlan k.desc).length + 1) s

/-! ### What arrives from members (R337, R340) -/

/-- A digest, a notice that a member has committed (which says what the COLL's own digest says), or a report reaches a COLL: one that tells of
a mismatch ends the launch at once where the COLL has started, and otherwise when it starts (R340). -/
def State.gotDigest (s : State) (c : Fin 4) (k : Cmd) (r : Nat) (d : W64) : State :=
  let s := s.modColl c k (fun q => { q with got := q.got ++ [(r, d)] })
  if k.coll.members.isEmpty then s
  else if d ≠ k.digest then s.mismatch c k
  else s.goOn c k

/-- What one member on this core has sent another reaches it; a chunk waits for CHUNK_RECEIVE. -/
def State.deliver (s : State) (c : Fin 4) (k : Cmd) (m : Wire) : State :=
  match m.what with
  | .digest d => s.gotDigest c k m.src d
  | .commit => s.gotDigest c k m.src k.digest
  | .report => s.gotDigest c k m.src (~~~ k.digest)
  | .permit i => s.modColl c k (fun q => { q with permits := q.permits ++ [(m.src, i)] })
  | .ack => s.modColl c k (fun q => { q with unacked := q.unacked.erase m.src })
  | .chunk _ _ => s

/-- The messages that wait for the COLLs of the contexts in the slots reach them, the oldest first; the fuel is their number. -/
def State.settleWire : Nat → State → State
  | 0, s => s
  | f + 1, s =>
    match s.wire.findSome? (fun m => if m.what.isChunk then none else
        (s.slotOf m.dst).bind (fun c => ((s.ctx c).cmds.find? (fun k => k.eng == .coll && m.for_ (s.ctx c) k)).map (fun k => (m, c, k)))) with
    | none => s
    | some (m, c, k) => State.settleWire f ({ s with wire := s.wire.erase m }.deliver c k m)

/-- Twice their number, since what is delivered may send reports. -/
def State.settled (s : State) : State := State.settleWire (2 * s.wire.length + 1024) s

/-- A COLL that has begun sends its digest to its ring neighbours, and the notice of its commit to the other members (R302, R340). -/
def State.sendDigests (s : State) (k : Cmd) : State :=
  (List.range k.coll.members.length).foldl (fun s r => if r = k.coll.rank then s else s.tell k r (if k.neighbours.contains r then .digest k.digest else .commit)) s

/-- A COLL of a context that is away takes what arrives for it (R343, R373). -/
def State.modAway (s : State) (c : Fin 4) (id : BitVec 16) (f : CollRun → CollRun) : State :=
  { s with away := s.away.map (fun p => if p.1 = c then (p.1, { p.2 with cmds := mapIf (fun k => k.eng == .coll && k.id == id) (fun k => { k with coll := f k.coll }) p.2.cmds }) else p) }

/-- The COLL of a context that is away. -/
def State.awayColl (s : State) (c : Fin 4) (id : BitVec 16) : Option (Context × Cmd) :=
  s.away.findSome? (fun p => if p.1 = c then (p.2.cmds.find? (fun k => k.eng == .coll && k.id == id)).map (fun k => (p.2, k)) else none)

/-- DIGEST (R302, R340): a member on another core sends its digest, tells that its COLL has committed, or reports a mismatch, by a digest
that is not this COLL's. -/
def execDigest (c : Fin 4) (id : BitVec 16) (m : MemberDigest) (s : State) : Out :=
  let r := m.rank
  let d := m.word
  match (s.ctx c).cmd id with
  | some k =>
    if k.eng ≠ .coll ∨ s.hosts (s.memberOf k r.toNat) then .next s else .next (s.gotDigest c k r.toNat d).settled
  | none => match s.awayColl c id with
    | none => .next s
    | some (x, k) =>
      let s := s.modAway c id (fun q => { q with got := q.got ++ [(r.toNat, d)] })
      .next (if d ≠ k.digest ∧ !k.coll.members.isEmpty then
          (s.noChunks (clComm k.desc) k.coll.seq).endLaunch x.lid { code := cCOLL_MISMATCH, coord := x.coord28, bundle := 0, cmd := cmdIdent k.op k.id, gtb := s.gtb }
        else s)

/-! ### Lost members (R341) -/

/-- The ranks of the members that a COLL still waits on: those that it has still to receive from or to send to, and those that are not
known to have committed theirs (R302, R341). -/
def Cmd.awaited (k : Cmd) : List Nat :=
  (List.range (collPlan k.desc).length).flatMap (fun i =>
    let past := fun (n : Nat) => if i = k.coll.step then n else 0
    if i < k.coll.step then []
    else ((recvChunks k.desc k.mesh i).drop (past k.coll.recvd)).map (k.recvPeer i) ++
      ((sendChunks k.desc k.mesh i).drop (past k.coll.sent)).map (k.sendPeer i)) ++
    (List.range k.coll.members.length).filter (fun r => r != k.coll.rank && !k.coll.got.any (fun g => g.1 == r))

/-- A COLL that has begun and waits on a member of package p. -/
def Cmd.waitsOn (k : Cmd) (p : BitVec 10) : Bool :=
  k.eng == .coll && !k.coll.members.isEmpty && k.awaited.any (fun r => (k.member r).extractLsb' 18 10 == p)

/-! ### Chunk tiles and permits (R335 to R337, R343) -/

/-- The accumulate port adds; the engine itself takes maxima and minima (R334). -/
def Cmd.adds (k : Cmd) : Bool := clRop k.desc != 2 && clRop k.desc != 3

/-- The key of the chunk tile of received chunk `i`. -/
def State.chunkTile (s : State) (k : Cmd) (i : Nat) : Nat := s.tileKey (clChtile k.desc + i % clNch k.desc)

/-- Words of a chunk, as R269 counts them. -/
def chunkWords (k : Cmd) (h : Chunk) : Nat := clSize k.desc * h.keys.length / 4

/-- The bytes of a chunk in the chunk tile. -/
def State.chunkKeys (s : State) (k : Cmd) (t : Nat) (h : Chunk) : List Nat :=
  byteAddrs (spKey s.myX (s.tile t).base) (clSize k.desc * h.keys.length)

/-- The tiles that cover bytes of a chunk, its chunk tile unless a lower handle covers them (R472). -/
def State.chunkCovers (s : State) (keys : List Nat) (ok : Tile → Bool) : Bool :=
  match s.coverAll (fun _ => true) keys with
  | some ks => ks.all (fun t => ok (s.tile t))
  | none => true

/-- The chunk's place is free: its chunk tile is EMPTY, no permit for an earlier chunk stands for it, and no tile that covers its bytes is READY
or DRAINING (R272, R335, R472). -/
def State.chunkPlace (s : State) (k : Cmd) (t : Nat) (h : Chunk) : Bool :=
  (s.tile t).state == 0 && decide (k.coll.granted < clNch k.desc) && s.chunkCovers (s.chunkKeys k t h) (fun e => e.state != 2 && e.state != 3)

/-- For an add, the engine sets the EXPECTED of a chunk tile, and the member's own value of the chunk enters by counted writes, the first of
which claims the tile (R272, R335); of ROP 2 and 3 the first counted write is the arriving chunk's. -/
def State.prepareTile (s : State) (c : Fin 4) (k : Cmd) (t : Nat) (h : Chunk) : Except Byte State :=
  if !k.adds then .ok s
  else
    let s := s.setTile t { s.tile t with expected := 2 * chunkWords k h }
    let keys := s.chunkKeys k t h
    match s.counted c keys with
    | .ok s => .ok (s.spWrite (keys.zip (eltsBytes (clSize k.desc) (h.keys.map k.ownElem))))
    | .error e => .error e

/-- Permits are withheld while the context waits to be pre-empted (R343). -/
def State.withheld (s : State) (c : Fin 4) : Bool :=
  match (s.ctx c).wait with
  | .nodePeers _ _ => true
  | _ => false

/-- A permit for the next chunk is granted to its sender, where its place is free: an EMPTY chunk tile, or target bytes (R335 to R337). -/
def State.grant (s : State) (c : Fin 4) (k : Cmd) : State :=
  let i := k.coll.recvd + k.coll.granted
  match k.recvs[i]? with
  | none => s
  | some h =>
    let go := fun (s : State) =>
      (s.modColl c k (fun r => { r with granted := r.granted + 1 })).tell k (k.recvPeer k.coll.step h) (.permit k.coll.step)
    if !k.coll.entered ∨ s.withheld c then s
    else if k.reduces then
      let t := s.chunkTile k i
      let fills := if k.adds then s.chunkKeys k t h else []
      if !s.chunkPlace k t h ∨ s.spFenced (s.ownReads k h.keys ++ fills) then s
      else s.orMeets c k ((s.badAt .sp (s.ownReads k h.keys)).or (s.tornAt .sp fills)) <|
        let s := s.lookSrc c k h.keys
        match s.cmdAt c k.order with
        | none => s
        | some k => s.orFault c k (s.prepareTile c k t h) go
    else if s.destFree k h.keys then go s else s.collTimed c k

/-- SEND_PERMIT (R335 to R337): the engine grants a permit; or a peer on another core sends one for its next chunk of a step, or its
acknowledgement of a chunk. -/
def execSendPermit (c : Fin 4) (id : BitVec 16) (e : PermitEvent) (s : State) : Out :=
  let take := fun (q : CollRun) => match e with
    | .grant => q
    | .permit r i => { q with permits := q.permits ++ [(r.toNat, i)] }
    | .ack r => { q with unacked := q.unacked.erase r.toNat }
  match (s.ctx c).cmd id with
  | some k =>
    if k.eng ≠ .coll ∨ k.finished then .next s
    else match e with
      | .grant =>
        if !k.started then .next s
        else if k.coll.entered then .next (s.grant c k).settled
        else .next (s.goOn c k).settled
      | .permit r _ => if s.hosts (s.memberOf k r.toNat) then .next s else .next (s.modColl c k take)
      | .ack r => if s.hosts (s.memberOf k r.toNat) then .next s else .next (s.modColl c k take)
  | none => .next (s.modAway c id take)

/-! ### Sending (R333, R337, R339) -/

/-- How many chunks of the present step a member sends from what it holds: those of ring step 1, or all of them where nothing is
passed on. -/
def Cmd.ownSends (k : Cmd) : Nat :=
  match k.stepKind with
  | some (_, .exchange _) => k.sends.length
  | some (_, .place) => k.sends.length
  | _ => (k.sends.filter (fun h => h.s == 1)).length

/-- The peer of the next chunk, with the step. -/
def Cmd.nextPeer (k : Cmd) : Option (Nat × Nat) := (k.sends[k.coll.sent]?).map (fun h => (k.sendPeer k.coll.step h, k.coll.step))

/-- A COLL holds a permit for its next chunk, and fewer than MAXF + 1 of its chunks wait for the peer's acknowledgement (R337). -/
def Cmd.permitted (k : Cmd) : Bool :=
  match k.nextPeer with
  | some p => k.coll.permits.contains p && decide ((k.coll.unacked.filter (fun r => r == p.1)).length < k.coll.maxf)
  | none => false

/-- A COLL can send its next chunk: it holds a permit, and the chunk is its own or has been received. -/
def Cmd.canSend (k : Cmd) : Bool :=
  k.eng == .coll && k.coll.entered && !k.finished && k.permitted &&
    (decide (k.coll.sent < k.ownSends) || decide (k.coll.sent - k.ownSends < k.coll.recvd))

/-- The COLLs of all contexts that can send. -/
def State.senders (s : State) : List (Fin 4 × Cmd) :=
  ctxIds.flatMap (fun c => ((s.ctx c).cmds.filter Cmd.canSend).map (fun k => (c, k)))

/-- The COLL that sends next: the communicator whose turn lasts, else by PRIO, then round robin over communicators (R339). -/
def State.nextSender (s : State) : Option (Fin 4 × Cmd) :=
  let l := s.senders
  match l.find? (fun p => (clComm p.2.desc).toNat == s.collTurn.1 && decide (0 < s.collTurn.2)) with
  | some p => some p
  | none =>
    let key := fun (p : Fin 4 × Cmd) => p.2.coll.prio * 4096 + ((clComm p.2.desc).toNat + 4095 - s.collTurn.1) % 4096
    (sortBy key l).head?

/-- The bytes of the next chunk: the member's own values, the running sum in its tile, or elements as they were received (R333). -/
def State.chunkData (s : State) (k : Cmd) (h : Chunk) : List Byte :=
  let n := clSize k.desc
  if k.coll.sent < k.ownSends then eltsBytes n (h.keys.map k.ownElem)
  else if k.reduces then (s.chunkKeys k (s.chunkTile k (k.coll.sent - k.ownSends)) h).map s.sp.get
  else eltsBytes n (h.keys.map (fun e => ((k.coll.next.find? (fun p => p.1 == e)).map Prod.snd).getD 0))

/-- The scratchpad bytes that the engine reads for the next chunk. -/
def State.chunkReads (s : State) (k : Cmd) (h : Chunk) : List Nat :=
  if k.coll.sent < k.ownSends then s.ownReads k h.keys
  else if k.reduces then s.chunkKeys k (s.chunkTile k (k.coll.sent - k.ownSends)) h else []

/-- CHUNK_SEND (R333, R339): a chunk leaves for its peer, against its permit; a chunk passed on frees its tile (R335). The turn of a
communicator lasts while it holds permits. -/
def execChunkSend (s : State) : Out :=
  match s.nextSender with
  | none => .next s
  | some (c, k) =>
    match k.sends[k.coll.sent]?, k.nextPeer with
    | some h, some p =>
      let read := s.chunkReads k h
      if s.spFenced read then .next s else .next <| s.orMeets c k (s.badAt .sp read) <|
      let s := if k.coll.sent < k.ownSends then s.lookSrc c k h.keys else s
      let k := (s.cmdAt c k.order).getD k
      let n := (clComm k.desc).toNat
      let left := if n = s.collTurn.1 ∧ 0 < s.collTurn.2 then s.collTurn.2 - 1 else k.coll.weight - 1
      let s := s.tell k p.1 (.chunk k.coll.step (s.chunkData k h))
      let s := if k.reduces ∧ k.ownSends ≤ k.coll.sent then
          let t := s.chunkTile k (k.coll.sent - k.ownSends)
          s.setTile t { s.tile t with state := 0 }
        else s
      let s := s.modColl c k (fun r => { r with sent := r.sent + 1, permits := r.permits.erase p, unacked := r.unacked ++ [p.1] })
      let holds := ctxIds.any (fun d => (s.ctx d).cmds.any (fun j => j.eng == .coll && clComm j.desc == clComm k.desc && !j.coll.permits.isEmpty))
      { s with collTurn := (n, if holds then left else 0) }.goOn c k
    | _, _ => .next s

/-! ### Receiving (R333 to R336) -/

/-- The combine of an arriving value with the member's own; whether it clamped (R334). -/
def collCombine (k : Cmd) (w : W32) (arr own : Nat) : Nat × Bool :=
  let fc := FCtl.ofFcr k.fcr
  let m := if clEtype k.desc = 1 then bf16 else f32
  match clRop k.desc with
  | 0 => if 2 ≤ clEtype k.desc then accOp 4 w arr own else if clEtype k.desc = 1 then accOp 2 w arr own else accOp 1 w arr own
  | 1 => if clEtype k.desc = 1 then accOp 3 w arr own else accOp 5 w arr own
  | 4 => accOp 4 w arr own
  | r =>
    if 2 ≤ clEtype k.desc then
      let a := toSigned 32 arr
      let b := toSigned 32 own
      (ofSigned 32 (if r = 2 then max a b else min a b), false)
    else (fMinMax m fc.daz fc.ftz (decide (r = 2)) arr own, false)

/-- The random word of element e at ring step s of axis a (R334). -/
def collWord (k : Cmd) (e a s : Nat) : W32 :=
  nth (philox k.rkey (keyIdx (holdsAt k.desc (collPlan k.desc) 0 k.mesh) e % 2 ^ 32) k.coll.seq.toNat (16 * a + s) 0xC1) 0

/-- The member's own value of a chunk that is to be combined: in its tile for an add, else as the engine reads it (R335). -/
def State.ownChunk (s : State) (k : Cmd) (t : Nat) (h : Chunk) : List Nat :=
  if k.adds then bytesElts (clSize k.desc) ((s.chunkKeys k t h).map s.sp.get) h.keys.length else h.keys.map k.ownElem

/-- The chunk counts as complete, once its last word has been counted (R405). -/
def State.chunkDone (s : State) (c : Fin 4) (k : Cmd) : State :=
  (s.modLaunch (s.ctx c).lid (fun l => { l with chunkOk := l.chunkOk + 1 })).modColl c k (fun r => { r with recvd := r.recvd + 1, left := r.left - 1 })

/-- The bytes of a chunk that is combined. -/
def State.combineKeys (s : State) (k : Cmd) (h : Chunk) : List Nat := s.chunkKeys k (s.chunkTile k k.coll.recvd) h

/-- The bytes that an arriving chunk changes. -/
def State.chunkWrites (s : State) (k : Cmd) (last : Bool) (h : Chunk) : List Nat :=
  (if k.reduces then s.combineKeys k h else []) ++ (if last || !k.reduces then s.destKeysOf k h.keys else [])

/-- The failing word that an arriving chunk meets: an add reads the chunk's place, and every other write may change a part of a word (R428). -/
def State.chunkMeets (s : State) (k : Cmd) (last : Bool) (h : Chunk) : Option BadWord :=
  if k.reduces ∧ k.adds then (s.badAt .sp (s.combineKeys k h)).or (if last then s.tornAt .sp (s.destKeysOf k h.keys) else none)
  else s.tornAt .sp (s.chunkWrites k last h)

/-- A chunk that is combined: its words count in its tile, whose EXPECTED the claim of ROP 2 and 3 sets; READY at the last ring step, it goes
into the destination buffer and the tile is EMPTY again (R333 to R335). -/
def State.combineChunk (s : State) (c : Fin 4) (k : Cmd) (a : Nat) (h : Chunk) (arr : List Nat) : State :=
  let n := clSize k.desc
  let t := s.chunkTile k k.coll.recvd
  let keys := s.chunkKeys k t h
  let rs : List (Nat × Nat × Bool) := (h.keys.zip (arr.zip (s.ownChunk k t h))).map (fun p => (p.1, collCombine k (collWord k p.1 a h.s) p.2.1 p.2.2))
  let s := if k.adds then s else s.setTile t { s.tile t with expected := chunkWords k h }
  s.orFault c k (s.counted c keys) (fun s =>
    let s := s.spWrite (keys.zip (eltsBytes n (rs.map (fun r => r.2.1))))
    let s := if rs.any (fun r => r.2.2) then s.modCmd c k (fun k => { k with flags := k.flags ||| fSAT }) else s
    if !s.chunkCovers keys (fun e => e.state == 2) then s
    else
      let s := s.chunkDone c k
      if h.s + 1 = clAx k.desc a then
        s.orFault c k (s.placeElems c k (rs.map (fun r => (r.1, r.2.1)))) (fun s => (s.setTile t { s.tile t with state := 0 }).goOn c k)
      else s.goOn c k)

/-- A chunk that lands in the destination buffer (R333, R336). -/
def State.placeChunk (s : State) (c : Fin 4) (k : Cmd) (h : Chunk) (arr : List Nat) : State :=
  s.orFault c k (s.placeElems c k (h.keys.zip arr)) (fun s => (s.chunkDone c k).goOn c k)

/-- The chunk that a member on this core has sent: the message. -/
def State.chunkFrom (s : State) (c : Fin 4) (k : Cmd) (r : Nat) : Option (Wire × List Byte) :=
  s.wire.findSome? (fun m => match m.what with
    | .chunk i bs => if m.for_ (s.ctx c) k ∧ m.src = r ∧ i = k.coll.step then some (m, bs) else none
    | _ => none)

/-- The chunk is one of the last ring step of a reduction, which goes on into the destination buffer (R335). -/
def Cmd.lastChunk (k : Cmd) (a : Nat) (h : Chunk) : Bool := k.reduces && h.s + 1 == clAx k.desc a

/-- The chunk `arr` of the present step has arrived. -/
def State.chunkArrives (s : State) (c : Fin 4) (k : Cmd) (a : Nat) (h : Chunk) (bs : List Byte) : State :=
  let arr := bytesElts (clSize k.desc) bs h.keys.length
  let s := s.tell k (k.recvPeer k.coll.step h) .ack
  let s := s.modColl c k (fun r => { r with granted := r.granted - 1 })
  s.orMeets c k (s.chunkMeets k (k.lastChunk a h) h) <|
  (if k.reduces then s.combineChunk c k a h arr else s.placeChunk c k h arr).settled

/-- CHUNK_RECEIVE (R333 to R336, R405): the next chunk of the step arrives against a permit, from a member on another core with the bytes of
the row, from one on this core as it was sent. One that goes on into the destination buffer comes once that is free, and none comes into a bank
under test (R429). -/
def execChunkReceive (c : Fin 4) (id : BitVec 16) (bytes : List (BitVec 8)) (s : State) : Out :=
  match (s.ctx c).cmd id with
  | none => .next s
  | some k =>
    match k.recvs[k.coll.recvd]?, k.stepKind with
    | some h, some (a, _) =>
      let r := k.recvPeer k.coll.step h
      if k.eng ≠ .coll ∨ !k.coll.entered ∨ k.finished ∨ k.coll.granted = 0 ∨ s.spFenced (s.chunkWrites k (k.lastChunk a h) h) then .next s
      else if s.chunkBarred k then .next (s.collTimed c k)
      else if s.hosts (k.member r) then
        match s.chunkFrom c k r with
        | some (m, bs) => .next ({ s with wire := s.wire.erase m }.chunkArrives c k a h bs)
        | none => .next s
      else if bytes.length ≠ clSize k.desc * h.keys.length then .next s
      else .next (s.chunkArrives c k a h bytes)
    | _, _ => .next s

end Sys2Proof.Machine
end

