-- ==== Sys2Proof/Machine/Sequencer.lean ====
section
/-! DEFINITION. The matrix sequencer: the selection of calls (R56, R187, R191, R198) and the word that it executes next. -/

namespace Sys2Proof.Machine

open Sys2Proof

/-- The oldest uncompleted call of context c, where it is committed and its selection wait lets it go, or faults (R187, R226). -/
def State.eligible (s : State) (c : Fin 4) : Option Call :=
  match (s.ctx c).calls with
  | [] => none
  | k :: _ =>
    let m7 := nth k.m 7
    let thr := fld m7 8 4
    let n := BitVec.ofNat 8 (fld m7 0 8)
    if !k.committed then none
    else if thr = 0 ∨ !(s.ctx c).share.hasSem n ∨ s.semLatched n ∨ (s.semReady n thr ∧ !s.swaitAny n) then some k
    else none

/-- The contexts in round-robin order from the one after `last`. -/
def robin (last : Fin 4) : List (Fin 4) := [last + 1, last + 2, last + 3, last]

/-- The best context of a list by launch priority class, the first among equals (R187, R318). -/
def bestClass (s : State) (l : List (Fin 4)) : Option (Fin 4) :=
  l.foldl (fun b c => match b with
    | none => some c
    | some d => if (s.ctx c).cls.toNat < (s.ctx d).cls.toNat then some c else some d) none

/-- The context whose call is selected next (R187). -/
def State.selectCtx (s : State) : Option (Fin 4) :=
  bestClass s ((robin s.lastCallCtx).filter (fun c => (s.eligible c).isSome))

/-- The fault of a call's selection wait: a semaphore of another share, or its error latch (R187, R191, R225). -/
def callWaitFault (s : State) (x : Context) (k : Call) : Option Byte :=
  let m7 := nth k.m 7
  let wn := BitVec.ofNat 8 (fld m7 0 8)
  if fld m7 8 4 = 0 then none
  else if !x.share.hasSem wn then some cACCESS_PROT
  else if s.semLatched wn then some (s.semCode.get wn.toNat)
  else none

/-- The faults of a selected call at its start: the entry word, the completion semaphore, the es registers (R56, R191, R198). -/
def callStartFault (s : State) (x : Context) (k : Call) : Option Byte :=
  let m7 := nth k.m 7
  let own1 := fun (i : Nat) => k.ess.getLsbD i && decide (esOwn (x.arch.es i) = 1)
  if (s.entryOf k.routine.toNat).isNone then some cILLEGAL_OPERAND
  else if fld m7 20 4 ≠ 0 ∧ !x.share.hasSem (BitVec.ofNat 8 (fld m7 12 8)) then some cACCESS_PROT
  else if k.achnEs &&& k.nrwEs ≠ 0 ∨ [0, 1, 2, 3].any own1 then some cSHAPER_BUSY
  else none

/-- The instruction that the sequencer executes next: the epilogue instruction of a running DRN, or the microprogram word;
an error is the fault of a word that is not there or is not assigned (R103, R191, R217). -/
def State.nextOf (s : State) (r : CallRun) : Except Byte Instr :=
  match r.epi with
  | some e =>
    if 64 ≤ e.word then .error cILLEGAL_OPERAND
    else if (s.badAt .ep [64 * e.prog + e.word]).isSome then .error cUNCORRECTABLE_MEM
    else match decodeEpi (s.epWord (64 * e.prog + e.word)) with
      | some i => .ok i
      | none => .error cILLEGAL_OPCODE
  | none =>
    if 8192 ≤ r.word then .error cILLEGAL_OPERAND
    else if (s.badAt .mu [r.word]).isSome then .error cUNCORRECTABLE_MEM
    else match decodeWord (s.muWord r.word) with
      | some i => .ok i
      | none => .error cILLEGAL_OPCODE

/-- The failing word of the store that the sequencer would read its next word from (R428). -/
def State.wordBad (s : State) (r : CallRun) : Option BadWord :=
  match r.epi with
  | some e => if 64 ≤ e.word then none else s.badAt .ep [64 * e.prog + e.word]
  | none => if 8192 ≤ r.word then none else s.badAt .mu [r.word]

/-- CALL_SELECT (R187, R192): the selected call takes its wait and begins, or faults. A fault before its first word reports the index
of the routine's entry (R198; for the wait, the semaphores and the es registers DESIGN CHOICE, log 54). A running call that has come
to a word which is not there or is not assigned faults here (R191). -/
def execCallSelect (s : State) : Out :=
  match s.run with
  | some r => match s.wordBad r, s.nextOf r with
    | some b, _ => .next (s.callMeets r b)
    | none, .error e => .next (s.callFault r e)
    | none, .ok _ => .next s
  | none => match s.selectCtx with
    | none => .next s
    | some c =>
      match (s.ctx c).calls with
      | [] => .next s
      | k :: rest =>
        let x := s.ctx c
        let thr := fld (nth k.m 7) 8 4
        let r : CallRun := { ctx := c, call := k, word := k.routine.toNat, p := k.m }
        let s := { s.mod c (fun x => { x with calls := rest }) with run := some r, lastCallCtx := c }
        match callWaitFault s x k with
        | some e => .next (s.callFault r e)
        | none => match s.badAt .mu [k.routine.toNat] with
         | some b => .next (s.callMeets r b)
         | none =>
          let s := if thr = 0 then s else s.semTake (BitVec.ofNat 8 (fld (nth k.m 7) 0 8)) thr
          match callStartFault s x k with
          | some e => .next (s.callFault r e)
          | none => .next { s with run := some { r with word := (s.entryOf k.routine.toNat).getD 0 } }

end Sys2Proof.Machine
end

