-- ==== Sys2Proof/Machine/Commands.lean ====
section
/-! DEFINITION. Engine commands as they run (R231 to R240, R245 to R247, R274, R400): their start, the elements of copies and
store loads, the blocks of the weight stream, the counters of sketch commands, their completion, and the completion of calls
(R189). COMMAND_START, COPY_ELEMENT, WEIGHT_BLOCK_DELIVER, COMMAND_COMPLETE, CALL_COMPLETE, TILE_STALL_TIMEOUT, HOME_SERVE. -/

namespace Sys2Proof.Machine

open Sys2Proof

/-! ### Start (R232) -/

/-- The tiles of a COPY with elements are in a state that lets it start, and no word keeps them claimed (R232, R238, R432). -/
def State.copyTiles (s : State) (k : Cmd) : Bool :=
  k.op != 1 || cpCount k.desc == 0 ||
    ((!cpFlag k.desc 2 || ((s.tile (s.tileKey (cpStile k.desc))).drains && !s.claimedTile (s.tileKey (cpStile k.desc)))) &&
      (!cpFlag k.desc 3 || !((s.tile (s.tileKey (cpDtile k.desc))).bars || s.claimedTile (s.tileKey (cpDtile k.desc)))))

/-- The timed offset has passed (R70, R232). -/
def State.timeCome (s : State) (k : Cmd) : Bool := !k.timed || decide (k.trel.toNat + k.ef.toff.toNat ≤ s.gtb.toNat)

/-- Every condition of the start but the tiles and the wait. -/
def State.mayBegin (s : State) (c : Fin 4) (k : Cmd) : Bool :=
  k.committed && !k.started && s.timeCome k && s.commitDone c k

/-- The wait semaphore has reached the threshold, or its latch is set, which faults (R225). -/
def State.waitReady (s : State) (k : Cmd) : Bool := k.ef.thr == 0 || s.semReady k.ef.wsem k.ef.thr.toNat || s.semLatched k.ef.wsem

/-- The oldest command of a queue that has not started (R232). -/
def Context.nextCmd (x : Context) (e : Engine) (timed : Bool) : Option Cmd :=
  x.cmds.find? (fun k => k.eng == e && k.timed == timed && !k.started)

/-- The engines in the order in which a semaphore tests their queues (R226). -/
def engines : List Engine := [.copy, .weight, .coll, .mcast, .sketch, .quiet]

/-- Every queue, in that order: over contexts in index order, the timed queue first. -/
def allQueues : List (Engine × Fin 4 × Bool) := engines.flatMap (fun e => ctxIds.flatMap (fun c => [(e, c, true), (e, c, false)]))

/-- Whether the matrix sequencer waits for semaphore n and could go on now (R226). -/
def State.matrixWants (s : State) (n : BitVec 8) : Bool :=
  match s.run with
  | some r => (match s.nextOf r with
    | .ok (.mwait f) => f.f3 == n && s.semReady n (nfld f.f4.toNat 0 4)
    | _ => false)
  | none => (match s.selectCtx with
    | some c => (match (s.ctx c).calls with
      | k :: _ => BitVec.ofNat 8 (fld (nth k.m 7) 0 8) == n && decide (fld (nth k.m 7) 8 4 ≠ 0)
      | [] => false)
    | none => false)

/-- Whether the oldest command of a queue waits for semaphore n alone and could start now. -/
def State.queueWants (s : State) (n : BitVec 8) (q : Engine × Fin 4 × Bool) : Bool :=
  match (s.ctx q.2.1).nextCmd q.1 q.2.2 with
  | some k => k.ef.thr != 0 && k.ef.wsem == n && s.semReady n k.ef.thr.toNat && s.mayBegin q.2.1 k && s.copyTiles k
  | none => false

/-- Nobody comes before this queue at its wait semaphore (R226). -/
def State.myTurn (s : State) (c : Fin 4) (k : Cmd) : Bool :=
  k.ef.thr == 0 ||
    (!s.swaitAny k.ef.wsem && !s.matrixWants k.ef.wsem &&
      !(allQueues.takeWhile (fun q => q != (k.eng, c, k.timed))).any (s.queueWants k.ef.wsem))

/-- The tile transitions at the start of a COPY (R238). -/
def State.copyClaims (s : State) (k : Cmd) : State :=
  if k.op ≠ 1 ∨ cpCount k.desc = 0 then s
  else
    let s := if cpFlag k.desc 2 then
        let n := s.tileKey (cpStile k.desc)
        s.setTile n { s.tile n with state := 3 }
      else s
    if cpFlag k.desc 3 then
      let n := s.tileKey (cpDtile k.desc)
      let t := s.tile n
      if t.state = 0 then s.setTile n { t with state := 1, arrived := 0 } else s
    else s

/-- How many elements, blocks or words a command of the copy and weight-load engines moves. -/
def Cmd.total (k : Cmd) : Nat :=
  if k.op = 1 ∨ k.op = 2 then cpCount k.desc else if k.op = 8 ∨ k.op = 9 then ldCount k.desc else 1

/-- A sketch header of a command, read at home, or the status of the fault (R245, R386, R393). -/
def State.cmdHead (s : State) (c : Fin 4) (need : Need) (va : Nat) : Except Byte (SkHead × Nat) :=
  let x := s.ctx c
  match s.access x.arch x.asid need va with
  | .error e => .error e
  | .ok t =>
    if (s.badAt .l2 (byteAddrs t.pa 64)).isSome then .error cUNCORRECTABLE_MEM
    else match skHead (s.memBytes t.pa 64) with
      | some h => .ok (h, t.pa)
      | none => .error cILLEGAL_OPERAND

/-- The start of a sketch command: its headers are read and compared (R245, R393). -/
def State.startSketch (s : State) (c : Fin 4) (k : Cmd) : State :=
  let x := s.ctx c
  let fails := fun (e : Byte) (va : Nat) => (s.hit x.lid e (s.readWord x.arch x.asid .both va 64)).cmdFault c k e
  match s.cmdHead c .both (skDst k.desc) with
  | .error e => fails e (skDst k.desc)
  | .ok (h, _) =>
    let go := fun (hs : List SkHead) (n : Nat) =>
      s.modCmd c k (fun k => { k with todo := List.range (h.d * 2 ^ h.k), heads := hs, srcCount := n })
    if k.op ≠ 5 then go [h] 0
    else match s.cmdHead c .both (skSrc k.desc) with
      | .error e => fails e (skSrc k.desc)
      | .ok (g, pa) =>
        if h.key ≠ g.key ∨ h.d ≠ g.d ∨ h.k ≠ g.k ∨ h.f ≠ g.f then s.cmdFault c k cSKETCH_MISMATCH else go [h, g] (s.memNat (pa + 0x10) 8)

/-- The chunks that a COLL of context c receives, where its communicator names it: they count from its start (R405). -/
def State.collChunks (s : State) (c : Fin 4) (k : Cmd) : Nat :=
  match (s.comm (clComm k.desc)).bind (fun m => (s.commMembers m).findIdx? (· == (s.ctx c).rankCoord)) with
  | some rank => recvTotal k.desc (meshCoord k.desc rank)
  | none => 0

/-- A command starts, all in one step (R232). -/
def State.startCmd (s : State) (c : Fin 4) (k : Cmd) : State :=
  if k.ef.thr ≠ 0 ∧ s.semLatched k.ef.wsem then s.cmdFault c k (s.semCode.get k.ef.wsem.toNat)
  else
    let s := if k.ef.thr = 0 then s else s.semTake k.ef.wsem k.ef.thr.toNat
    let s := s.copyClaims k
    let s := s.modCmd c k (fun k => { k with
      started := true, since := none, finished := decide (k.total = 0)
      coll := if k.eng = .coll then { k.coll with left := s.collChunks c k } else k.coll })
    if k.eng = .sketch then s.startSketch c k else s

/-! ### The start of a collective (R338, R404) -/

/-- A started COLL begins once the one before it has completed and its chunk tiles are free: it reads its communicator, reserves
the tiles, and exchanges digests; a digest that differs ends the launch, and so does a member on a lost package, or behind a lost path,
that a step waits on (R338, R340, R341, R404). -/
def State.beginColl (s : State) (c : Fin 4) (k : Cmd) : State :=
  let x := s.ctx c
  let ts := s.chunkTiles k
  if x.cmds.any (fun j => j.eng == .coll && clComm j.desc == clComm k.desc && decide (j.order < k.order)) then s
  else if ts.any (fun t => (s.tile t).state != 0 || (s.tile t).reserved) then
    s.modCmd c k (fun k => { k with since := some (k.since.getD s.gtb) })
  else match s.comm (clComm k.desc) with
    | none => s.cmdFault c k cILLEGAL_OPERAND
    | some m =>
      let ms := s.commMembers m
      match ms.findIdx? (· == x.rankCoord) with
      | none => s.cmdFault c k cACCESS_PROT
      | some rank =>
        let s := ts.foldl (fun s t => s.setTile t { s.tile t with reserved := true }) s
        let s := s.modCmd c k (fun k => { k with
          since := none
          coll := { k.coll with
            rank, members := ms, maxf := m.maxf, weight := m.weight, prio := m.prio, vc := m.vc
            left := recvTotal k.desc (meshCoord k.desc rank) } })
        match s.cmdAt c k.order with
        | none => s
        | some k =>
          if k.mismatched then s.mismatch c k
          else if (s.lostPkgs ++ s.lostPaths).any k.waitsOn then s.cmdFault c k cCOLL_PEER_LOST
          else ((s.sendDigests k).goOn c k).settled

/-- COMMAND_START (R232, R338): the oldest command of a queue starts, or a started COLL of it begins. A start that only a tile
state holds back begins to be timed (R274). -/
def execCommandStart (c : Fin 4) (e : Engine) (timed : Bool) (s : State) : Out :=
  let x := s.ctx c
  match x.cmds.find? (fun k => k.eng == .coll && e == .coll && k.timed == timed && k.started && !k.finished && k.coll.members.isEmpty) with
  | some k => .next (s.beginColl c k)
  | none => match x.nextCmd e timed with
    | none => .next s
    | some k =>
      if !s.mayBegin c k ∨ !s.waitReady k then .next s
      else if !s.copyTiles k then .next (s.modCmd c k (fun k => { k with since := some (k.since.getD s.gtb) }))
      else if s.myTurn c k ∨ s.semLatched k.ef.wsem then .next (s.startCmd c k)
      else .next s

/-! ### Elements of a COPY (R236 to R239) -/

/-- A place of an element: scratchpad keys or physical addresses, with the WP bit; or the status it faults with. -/
structure Place where
  sp : Bool
  addrs : List Nat
  wp : Bool
  deriving DecidableEq, Repr

/-- Where element bytes lie. -/
def State.place (s : State) (c : Fin 4) (sp peer : Bool) (need : Need) (a : Int) (n : Nat) : Except Byte Place :=
  let x := s.ctx c
  let a := (a % (2 ^ 64 : Int)).toNat
  if sp then
    match { s with cur := c }.spAddr peer a n with
    | .ok k => .ok ⟨true, byteAddrs k n, false⟩
    | .error e => .error e
  else if 2 ^ 56 ≤ a then .error cACCESS_UNMAPPED
  else match s.access x.arch x.asid need a with
    | .ok t => .ok ⟨false, byteAddrs t.pa n, t.wp⟩
    | .error e => .error e

def Place.space (p : Place) : Space := if p.sp then .sp else .l2

/-- A word of a place whose check fails and that a read, or a write of a part, meets (R428). -/
def State.placeBad (s : State) (p : Place) (whole : Bool) : Option BadWord :=
  if whole then s.tornAt p.space p.addrs else s.badAt p.space p.addrs

/-- The bank, slice or row of a place is under test (R429). -/
def State.placeFenced (s : State) (p : Place) : Bool := if p.sp then s.spFenced p.addrs else s.homeHeld p.addrs

/-- The key of a byte in `Cmd.old`. -/
def Place.key (p : Place) (a : Nat) : Nat := 2 * a + (if p.sp then 1 else 0)

/-- Source bytes; a word that an earlier element of the command has written reads as before or after, word by word (R236). -/
def State.elemRead (s : State) (k : Cmd) (p : Place) : List Byte :=
  p.addrs.map (fun a =>
    let now := if p.sp then s.sp.get a else s.mem.get a
    match k.old.find? (fun o => o.1 == p.key a) with
    | some o => if o.2 != now && Config.raceAt s.choices (a / 4) then o.2 else now
    | none => now)

/-- Adds what bytes held before their first write by the command. -/
def Cmd.noteOld (k : Cmd) (s : State) (p : Place) : Cmd :=
  { k with old := k.old ++ (p.addrs.filter (fun a => !k.old.any (fun o => o.1 == p.key a))).map (fun a =>
      (p.key a, if p.sp then s.sp.get a else s.mem.get a)) }

/-- The write of an element: plain, or accumulated at the bank or the home slice; flags it raises (R236, R237, R268). -/
def State.elemWrite (s : State) (c : Fin 4) (k : Cmd) (p : Place) (bs : List Byte) : State × BitVec 6 :=
  let op := cpAcc k.desc
  let a0 := p.addrs.headD 0
  if op = 0 then (if p.sp then s.spWrite (p.addrs.zip bs) else s.memWrite (p.addrs.zip bs), 0)
  else if p.sp then
    let w := nth (philox k.rkey (k.pos % 2 ^ 32) k.id.toNat 0 0xC0) 0
    let r := s.bankAcc op w a0 bs.length (ofLe bs)
    (r.1, if r.2 then fSAT else 0)
  else
    let q := if op = 3 ∨ op = 5 then s.sliceWord c a0 k.bundle else (s, 0)
    let r := accOp op q.2 (q.1.memNat a0 bs.length) (ofLe bs)
    (q.1.memPut a0 (leBytes bs.length r.1), if r.2 then fSAT else 0)

/-- One element of a COPY (R236). -/
def State.copyElem (s : State) (c : Fin 4) (k : Cmd) : State :=
  let n := 2 ^ cpEsz k.desc
  let o := cpOffs k.desc k.pos
  match s.place c (cpFlag k.desc 0) (cpFlag k.desc 5) .read (dn k.desc 0 8 + o.1) n with
  | .error e => s.cmdErr c k e [((dn k.desc 0 8 + o.1) % (2 ^ 64 : Int)).toNat]
  | .ok src =>
    match s.place c (cpFlag k.desc 1) (cpFlag k.desc 6) (if cpAcc k.desc = 0 then .write else .both) (dn k.desc 8 8 + o.2) n with
    | .error e => s.cmdErr c k e [((dn k.desc 8 8 + o.2) % (2 ^ 64 : Int)).toNat]
    | .ok dst =>
      if dst.wp ∨ s.placeFenced src ∨ s.placeFenced dst then s
      else s.orMeets c k ((s.placeBad src false).or (s.placeBad dst (decide (cpAcc k.desc = 0)))) (
        let bs := s.elemRead k src
        let go := fun (t : State) =>
          let r := t.elemWrite c k dst bs
          { r.1.modCmd c k (fun k => ({ k with
              pos := k.pos + 1, finished := decide (k.pos + 1 = k.total), flags := k.flags ||| r.2 } : Cmd).noteOld s dst) with
            choices := s.choices + 1 }
        if cpFlag k.desc 3 then
          match s.counted c dst.addrs with
          | .ok t => go t
          | .error e => s.cmdFault c k e
        else go s)

/-- One word of a MULOAD or EPLOAD (R246); it waits where its source is under test (R429). -/
def State.loadWord (s : State) (c : Fin 4) (k : Cmd) : State :=
  let n := if k.op = 8 then 8 else 4
  match s.place c (ldSp k.desc) false .read (ldSrc k.desc + n * k.pos : Nat) n with
  | .error e => s.cmdErr c k e [ldSrc k.desc + n * k.pos]
  | .ok p =>
    if s.placeFenced p then s else s.orMeets c k (s.placeBad p false) (
    let v := ofLe (p.addrs.map (fun a => if p.sp then s.sp.get a else s.mem.get a))
    let i := ldFirst k.desc + k.pos
    let s := if k.op = 8 then { s with mu := s.mu.put i (BitVec.ofNat 64 v), bad := s.mended .mu [i] }
      else { s with ep := s.ep.put i (BitVec.ofNat 32 v), bad := s.mended .ep [i] }
    s.modCmd c k (fun k => { k with pos := k.pos + 1, finished := decide (k.pos + 1 = k.total) }))

/-- COPY_ELEMENT (R236, R246). -/
def execCopyElement (c : Fin 4) (id : BitVec 16) (s : State) : Out :=
  match (s.ctx c).cmd id with
  | none => .next s
  | some k =>
    if !k.started ∨ k.finished then .next s
    else if k.op = 1 then .next (s.copyElem c k)
    else if k.op = 8 ∨ k.op = 9 then .next (s.loadWord c k)
    else .next s

/-! ### The weight stream (R240) -/

/-- One compressed unit at the head of the bytes: its 128 raw bytes and its length; none where it is malformed. -/
def unitOf (bs : List Byte) : Option (List Byte × Nat) :=
  let h := dn bs 0 2
  let cnt := h % 256
  if nfld h 8 6 ≠ 0 then none
  else if h / 2 ^ 14 = 0 then (if cnt = 0 then some ((bs.drop 2).take 128, 130) else none)
  else if h / 2 ^ 14 = 1 then
    let mask := dn bs 2 16
    let ones := (List.range 128).filter (fun i => nfld mask i 1 == 1)
    if ones.length ≠ cnt then none
    else some ((List.range 128).map (fun i =>
      if nfld mask i 1 = 1 then nth bs (18 + ((List.range i).filter (fun j => nfld mask j 1 == 1)).length) else 0), 18 + cnt)
  else none

/-- Bytes of the raw image of a weight block (R240). -/
def rawSize (fmt k : Nat) : Nat := k * (rowBytes fmt 128) + (if 8 ≤ fmt then 16 * k else 0)

/-- The place in the order of commands of the TLOAD that the weight stream of context c serves. -/
def State.tloadOf (s : State) (c : Fin 4) : Nat := (((s.ctx c).cmds.find? (fun k => k.eng == .weight && !k.finished)).map Cmd.order).getD 0

/-- The bytes of the weight stream at virtual addresses, at home: each 64-byte line as it is, or as it was before what has been stored
there while this TLOAD was outstanding (R283, R284, log 4). -/
def State.streamRead (s : State) (c : Fin 4) (va n : Nat) : Except Byte (List Byte) :=
  match s.vaPas (s.ctx c).arch (s.ctx c).asid .read va n with
  | .error e => .error e
  | .ok ps => if (s.badAt .l2 ps).isSome then .error cUNCORRECTABLE_MEM else .ok (ps.map (fun p => match s.wrote.find? (fun l =>
      l.1 == p / 64 && decide (s.tloadOf c < l.2.2.getD c.val 0)) with
    | some l => if Config.raceAt s.choices (p / 64) then nth l.2.1 (p % 64) else s.mem.get p
    | none => s.mem.get p))

/-- The bytes of a compressed unit, from the two of its header (R240). -/
def unitLen (h : List Byte) : Nat := if dn h 0 2 / 2 ^ 14 = 1 then 18 + dn h 0 2 % 256 else 130

/-- A byte of `n` compressed units, which a read of the weight stream needs, has to wait at home (R429). -/
def State.streamHeld (s : State) (c : Fin 4) : Nat → Nat → Bool
  | 0, _ => false
  | n + 1, va =>
    let held := fun (m : Nat) => match s.vaPas (s.ctx c).arch (s.ctx c).asid .read va m with
      | .ok ps => s.homeHeld ps
      | .error _ => false
    held 2 || (match s.streamRead c va 2 with
      | .ok h => held (unitLen h) || s.streamHeld c n (va + unitLen h)
      | .error _ => false)

/-- The failing word that a read of the weight stream meets. -/
def State.streamWord (s : State) (c : Fin 4) (va n : Nat) : Option BadWord := s.readWord (s.ctx c).arch (s.ctx c).asid .read va n

/-- Reads `n` compressed units from an address on; a status that it ends with comes with the failing word that it has met. -/
def State.units (s : State) (c : Fin 4) : Nat → Nat → Except (Byte × Option BadWord) (List Byte)
  | 0, _ => .ok []
  | n + 1, va =>
    let read : Nat → Except (Byte × Option BadWord) (List Byte) := fun m => if 2 ^ 56 < va + m then .error (cACCESS_UNMAPPED, none)
      else match s.streamRead c va m with
        | .ok bs => .ok bs
        | .error e => .error (e, s.streamWord c va m)
    match read 2 with
    | .error e => .error e
    | .ok h =>
      match read (if dn h 0 2 / 2 ^ 14 ≤ 1 then unitLen h else 2) with
      | .error e => .error e
      | .ok bs => match unitOf bs with
        | none => .error (cILLEGAL_OPERAND, none)
        | some (raw, l) => match s.units c n (va + l) with
          | .error e => .error e
          | .ok rest => .ok (raw ++ rest)

/-- WEIGHT_BLOCK_DELIVER (R240, R283): the next block of the context's oldest TLOAD enters its weight-stream buffer. -/
def execWeightBlockDeliver (c : Fin 4) (s : State) : Out :=
  let x := s.ctx c
  match x.cmds.find? (fun k => k.eng == .weight && !k.finished) with
  | none => .next s
  | some k =>
    if !k.started ∨ 2 ≤ x.wbuf.length then .next s
    else
      let fmt := dn k.desc 0x60 1
      let rows := dn k.desc 0x62 2 + 1
      let size := rawSize fmt rows
      let va := ((((dn k.desc 0 8 : Nat) : Int) + (cpOffs k.desc k.pos).1) % (2 ^ 64 : Int)).toNat
      if s.streamHeld c ((size + 127) / 128) va then .next s
      else match s.units c ((size + 127) / 128) va with
      | .error e => .next ((s.hit x.lid e.1 e.2).cmdFault c k e.1)
      | .ok raw => .next ((State.modCmd { s with choices := s.choices + 1 } c k (fun k => { k with pos := k.pos + 1, finished := decide (k.pos + 1 = k.total) })).mod c
          (fun x => { x with wbuf := x.wbuf ++ [{ fmt := BitVec.ofNat 4 fmt, k := rows, bytes := raw.take size }] }))

/-! ### Counters of sketch commands (R245, R400) -/

/-- The new value of a counter and whether it clamped. -/
def sketchNew (op : Nat) (sr : Bool) (w : W32) (factor : W32) (old src : Int) : Int × Bool :=
  match op with
  | 5 => satS 32 (old + src)
  | 6 => match ((FV.ofInt old).mul (dec32 factor)).1 with
    | .fin neg mag exp => satS 32 (roundInt (if sr then .sr w else .rne) neg mag exp).1
    | _ => (0, false)
  | _ => (0, false)

/-- An operation on the header of the target, which waits in the engine while its page is in a migration window (R386, R389). -/
def State.onHeader (s : State) (c : Fin 4) (k : Cmd) (go : Nat → State) : State :=
  let x := s.ctx c
  match s.access x.arch x.asid .both (skDst k.desc) with
  | .error e => s.cmdErr c k e [skDst k.desc]
  | .ok t => if t.wp ∨ s.homeHeld (byteAddrs (t.pa + 0xB) 13) then s else s.orMeets c k (s.badAt .l2 (byteAddrs (t.pa + 0xB) 13)) (go t.pa)

/-- A counter has clamped: SAT is on its way to the target's header, whose operation is an operation of the update that no end of the launch
takes back (R245, R399). -/
def State.sketchSat (s : State) (c : Fin 4) (k : Cmd) (pa : Nat) : State :=
  s.toHome c [{ id := satId k.order, kind := .skupd, op := 3, addrs := [pa], remote := s.remote pa, operand := 1 }]

/-- Whether the SAT of a sketch command is on its way. -/
def State.satDue (s : State) (c : Fin 4) (k : Cmd) : Bool := s.homeQ.any (fun h => h.ctx == c && h.acc.id == satId k.order)

/-- The target's header after the last counter: COUNT that the source had is added, or COUNT and SAT are cleared (R245, R393). -/
def State.sketchEnd (s : State) (c : Fin 4) (k : Cmd) : State :=
  let fin := fun (t : State) => t.modCmd c k (fun k => { k with finished := true })
  s.onHeader c k (fun pa =>
    if k.op = 5 then fin (s.skHeadOp pa 0 k.srcCount) else fin ((s.homePut (pa + 0xB) [s.mem.get (pa + 0xB) &&& 0xFE]).homePut (pa + 0x10) (leBytes 8 0)))

/-- Counter i of a started sketch command, by the headers that it read at its start (R245, R393, R394). -/
def State.sketchCounter (s : State) (c : Fin 4) (k : Cmd) (i : Nat) : State :=
  let x := s.ctx c
  let at_ := fun (h : SkHead) => s.access x.arch x.asid .both (h.rowbase + 4 * i)
  match k.heads.mapM at_ with
  | .error e => s.cmdErr c k e (k.heads.map (fun h => h.rowbase + 4 * i))
  | .ok [] => s
  | .ok (t :: us) =>
    if t.wp ∨ s.homeHeld ((t :: us).flatMap (fun u => byteAddrs u.pa 4)) then s
    else s.orMeets c k (s.badAt .l2 ((t :: us).flatMap (fun u => byteAddrs u.pa 4))) (
      let v : Int := match us with
        | u :: _ => toSigned 32 (s.memNat u.pa 4)
        | [] => 0
      let sr := k.op == 6 && dn k.desc 0x14 4 == 1
      let w := if sr then s.sliceWord c t.pa k.bundle else (s, 0)
      let r := sketchNew k.op sr w.2 (BitVec.ofNat 32 (dn k.desc 0x10 4)) (toSigned 32 (w.1.memNat t.pa 4)) v
      let t := (w.1.homePut t.pa (leBytes 4 (ofSigned 32 r.1))).modCmd c k (fun k => { k with
        todo := k.todo.erase i, finished := decide (k.op = 6) && (k.todo.erase i).isEmpty })
      if !r.2 then t
      else match s.access x.arch x.asid .both (skDst k.desc) with
        | .error e => s.cmdErr c k e [skDst k.desc]
        | .ok h => if h.wp then s else t.sketchSat c k h.pa)

/-- The next step of a started sketch command: any of the counters left; then the header. -/
def State.sketchStep (s : State) (c : Fin 4) (k : Cmd) : State :=
  if k.todo.isEmpty then s.sketchEnd c k
  else
    let s : State := { s with choices := s.choices + 1 }
    match k.todo[Config.pick (s.choices - 1) % k.todo.length]? with
    | some i => s.sketchCounter c k i
    | none => s

/-- HOME_SERVE (R300): an operation of a home-slice queue, or a counter of a sketch command (R245). -/
def execHomeServe (id : Nat) (s : State) : Out :=
  if id < 2 ^ 64 then .next (s.homeServe id)
  else
    let n := id - 2 ^ 64
    let c : Fin 4 := Fin.ofNat 4 (n / 2 ^ 16)
    match (s.ctx c).cmd (BitVec.ofNat 16 n) with
    | some k => if k.started ∧ k.eng = .sketch ∧ !k.finished then .next (s.sketchStep c k) else .next s
    | none => .next s

/-! ### Completion (R189, R233, R238, R247) -/

/-- Every command and call that the context issued before an EQUIET has completed (R247). -/
def State.quietDone (s : State) (c : Fin 4) (k : Cmd) : Bool :=
  !(s.ctx c).cmds.any (fun j => decide (j.order < k.order)) && !(s.callsOf c).any (fun j => decide (j.order < k.order))

/-- What the completion of a COLL adds: it is an acquire at DOMAIN scope, and its chunk tiles are released EMPTY (R302, R338). -/
def State.collReleases (s : State) (k : Cmd) : State :=
  if k.eng ≠ .coll then s
  else ((s.chunkTiles k).foldl (fun s t => s.setTile t { s.tile t with state := 0, reserved := false }) s).acquire 5

/-- COMMAND_COMPLETE (R233): flags, then the signal; what waits for the command goes on. A signal that would pass 65,535 is a fault
of the command (R225, R234). -/
def execCommandComplete (c : Fin 4) (id : BitVec 16) (s : State) : Out :=
  match (s.ctx c).cmd id with
  | none => .next s
  | some k =>
    let done := if k.eng = .quiet then k.started && s.quietDone c k else k.finished && (k.eng != .coll || s.allCommitted k) && (k.eng != .sketch || !s.satDue c k)
    if !done then .next s
    else
      let s := (s.copyReleases k).collReleases k
      let s := s.mod c (fun x => { x.raise k.flags with cmds := x.cmds.filter (fun j => j.order != k.order) })
      let sig := if k.ef.inc = 0 then some s else s.semSignal k.ef.sig k.ef.inc.toNat
      let count := fun (s : State) (ok : Bool) => s.modLaunch (s.ctx c).lid (fun l => { l with
        cmdOk := if ok then l.cmdOk + 1 else l.cmdOk
        cmdFail := if ok then l.cmdFail else l.cmdFail + 1
        blkOk := if k.eng = .mcast then l.blkOk + 1 else l.blkOk })
      match sig with
        | some t => .next ((count t true).settle c)
        | none => .next (((count s false).semFail k.ef.sig k.ef.inc.toNat cILLEGAL_OPERAND).fatal c cILLEGAL_OPERAND 0 (cmdIdent k.op k.id))

/-- CALL_COMPLETE (R189): the call that has executed its MEND completes: flags, then the signal. A signal that would pass 65,535 is a
fault of the call, which counts as failed (R191, R225). -/
def execCallComplete (s : State) : Out :=
  match s.run with
  | none => .next s
  | some r =>
    if !r.ended then .next s
    else
      let m7 := nth r.call.m 7
      let inc := fld m7 20 4
      let s := s.mod r.ctx (fun x => x.raise r.flags)
      let done := fun (s : State) =>
        ({ s with run := none }.modLaunch (s.ctx r.ctx).lid (fun l => { l with callOk := l.callOk + 1 })).settle r.ctx
      if inc = 0 then .next (done s)
      else match s.semSignal (BitVec.ofNat 8 (fld m7 12 8)) inc with
        | some t => .next (done t)
        | none => .next ({ s with run := some { r with ended := false } }.callFault r cILLEGAL_OPERAND)

/-! ### The limit on waits for a tile state (R274) -/

/-- A collective that has begun cannot go on for the state of the tiles that cover its destination: before its step, at its next permit, or at
the last ring step of a reduction (R274, R336). -/
def State.collBarred (s : State) (k : Cmd) : Bool :=
  k.exchanged && !k.finished &&
    (if !k.coll.entered then !s.destFree k k.kept
     else s.chunkBarred k || (!k.reduces && (match k.recvs[k.coll.recvd + k.coll.granted]? with
       | some h => !s.destFree k h.keys
       | none => false)))

/-- The command still waits for its tiles. -/
def State.cmdStillWaits (s : State) (k : Cmd) : Bool :=
  if k.eng = .coll then k.started && (if k.coll.members.isEmpty then (s.chunkTiles k).any (fun t => (s.tile t).state != 0 || (s.tile t).reserved)
    else s.collBarred k)
  else !k.started && !s.copyTiles k

/-- The bundle of context c still waits on a tile state: tried now, it stalls on one again. -/
def State.bundleStillWaits (s : State) (c : Fin 4) : Bool :=
  decide ((s.ctx c).mode = .live) && (s.ctx c).wait == .stall 1 && ({ s with cur := c }.issueBundle.ctx c).wait == .stall 1

/-- The running call still waits: its word, tried now, waits again. -/
def State.callStillWaits (s : State) (r : CallRun) : Bool :=
  match s.nextOf r with
  | .ok i => ({ s with run := some { r with stallSince := none } }.wordStep i).run == some { r with stallSince := some s.gtb }
  | .error _ => false

/-- TILE_STALL_TIMEOUT (R274): a wait on tile state that still lasts at the limit ends the launch, naming the waiter. -/
def execTileStallTimeout (w : TileWaiter) (s : State) : Out :=
  match w with
  | .bundle c =>
    let x := s.ctx c
    if s.tileLate c x.stallSince ∧ s.bundleStillWaits c then
      .next (s.fatal c cTILE_STALL_TIMEOUT x.arch.pc 0)
    else .next s
  | .command c id => match (s.ctx c).cmd id with
    | some k => if s.tileLate c k.since ∧ s.cmdStillWaits k then .next (s.cmdFault c k cTILE_STALL_TIMEOUT) else .next s
    | none => .next s
  | .call => match s.run with
    | some r => if s.tileLate r.ctx r.stallSince ∧ s.callStillWaits r then .next (s.callFault r cTILE_STALL_TIMEOUT) else .next s
    | none => .next s

end Sys2Proof.Machine
end

