-- ==== Sys2Proof/Machine/Faults.lean ====
section
/-! DEFINITION. Traps and stops that come from outside the running bundle (R320, R443), the order to pre-empt (R366), and
the limits and kills of a launch (R360, R361). TRAP_RESTORE, DEBUGGER_STOP, DEBUGGER_RESUME, PREEMPTION_ORDER,
TIME_LIMIT. -/

namespace Sys2Proof.Machine

open Sys2Proof

/-- The context is between bundles, or in a wait: no tick of it is landing (R319). -/
def Wait.idle : Wait → Bool
  | .landing => false
  | .returning => false
  | _ => true

/-- A recoverable trap of context c (R320): a checkpoint that is due comes first, so that no wait that has ended is repeated
(R316), and is one at which a stop may have been asked for; an arrival at hasp0 stands, so the context that has made it waits on (R323). -/
def State.trap (s : State) (c : Fin 4) : State :=
  let x := s.ctx c
  if x.wait = .sstepHasp then s
  else if x.ckptDue then (if x.stopReq then (s.checkpoint c).stopAt c else (s.checkpoint c).trapRestore c)
  else s.trapRestore c

/-- TRAP_RESTORE (R320). -/
def execTrapRestore (c : Fin 4) (s : State) : Out :=
  let x := s.ctx c
  if x.mode = .live ∧ x.wait.idle then .next (s.trap c) else .next s

/-- The pre-empted context of slot c at place `n` among those of its slot is asked to stop. -/
def stopAway (c : Fin 4) : Nat → List (Fin 4 × Context) → List (Fin 4 × Context)
  | _, [] => []
  | n, p :: ps =>
    if p.1 ≠ c then p :: stopAway c n ps
    else if n = 0 then (p.1, { p.2 with stopReq := true }) :: ps
    else p :: stopAway c (n - 1) ps

/-- DEBUGGER_STOP (R443): the context stops at the first checkpoint that it reaches from now on, also where it has still to start or is
pre-empted. Which of several contexts of the slot the debugger names, the one there or one that is away, is free (log 4). -/
def execDebuggerStop (c : Fin 4) (s : State) : Out :=
  let here := (s.ctx c).mode.runs
  let n := (s.away.filter (fun p => p.1 = c)).length
  if n = 0 then .next (if here then s.mod c (fun x => { x with stopReq := true }) else s)
  else
    let i := Config.pick s.choices % (n + 1)
    let s : State := { s with choices := s.choices + 1 }
    if here ∧ i = n then .next (s.mod c (fun x => { x with stopReq := true }))
    else .next { s with away := stopAway c (i % n) s.away }

/-- DEBUGGER_RESUME (R320, R443): the context issues its checkpoint's bundle again. -/
def execDebuggerResume (c : Fin 4) (s : State) : Out :=
  if (s.ctx c).mode = .stopped then .next (s.mod c (fun x => { x with mode := .live })) else .next s

/-- The scheduler wants the contexts of a launch on the core pre-empted, each at its next NODE that qualifies (R366, R368). -/
def State.wantOff (s : State) (lid : BitVec 32) : State :=
  ctxIds.foldl (fun s c =>
    if (s.ctx c).lid = lid ∧ (s.ctx c).mode.runs then s.mod c (fun x => { x with preReq := true }) else s) s

/-- PREEMPTION_ORDER (R366): all contexts of the launch on the core are pre-empted together (R368). -/
def execPreemptionOrder (c : Fin 4) (s : State) : Out :=
  if (s.ctx c).mode.runs then .next (s.wantOff (s.ctx c).lid) else .next s

/-- A fatal end that no context and no bundle causes (R360, R361). -/
def State.endBare (s : State) (lid : BitVec 32) (code : Byte) : State :=
  s.endLaunch lid { code, coord := 0, bundle := 0, cmd := 0, gtb := s.gtb }

/-- The time of a launch has passed (R360). -/
def State.timeUp (s : State) (l : Launch) : Bool :=
  decide (dn l.desc 0x7C 4 ≠ 0) && decide (l.tstart.toNat + 1024 * dn l.desc 0x7C 4 ≤ s.gtb.toNat)

/-- Every launch whose time has passed and that has not ended ends, before anything else may end it otherwise (R360). -/
def State.endLate (s : State) : State :=
  s.launches.foldl (fun s l => if l.fault.isNone && s.timeUp l then s.endBare l.lid cTIME_LIMIT else s) s

/-- TIME_LIMIT (R360). -/
def execTimeLimit (lid : BitVec 32) (s : State) : Out :=
  match s.launchOf lid with
  | none => .next s
  | some l => if s.timeUp l then .next (s.endBare lid cTIME_LIMIT) else .next s

end Sys2Proof.Machine
end

