-- ==== Sys2Proof/Machine/Launches.lean ====
section
/-! DEFINITION. Launches (R346 to R361, R469): the descriptor and its checks, the shares of a context, the queue rings, the status
record, the start of a launch and its end. LAUNCH_END, KILLED. -/

namespace Sys2Proof.Machine

open Sys2Proof

/-! ### The descriptor (R347) -/

def ldLid (d : List Byte) : BitVec 32 := BitVec.ofNat 32 (dn d 0 4)
def ldFlag (d : List Byte) (i : Nat) : Bool := nfld (dn d 5 1) i 1 == 1
def ldCdom (d : List Byte) : BitVec 16 := BitVec.ofNat 16 (dn d 6 2)
def ldMucnt (d : List Byte) : Nat := dn d 0x20 2
def ldEpcnt (d : List Byte) : Nat := dn d 0x22 2
/-- The launch becomes the store owner of its cores (R352). -/
def ldImages (d : List Byte) : Bool := ldMucnt d != 0 || ldEpcnt d != 0
/-- Contexts on each core. -/
def ldSlots (d : List Byte) : Nat := nfld (dn d 0x5C 4) 24 2 + 1
def ldStage (d : List Byte) (x : Nat) : Nat := dn d (0x60 + x) 1
def ldShare (d : List Byte) (j : Nat) : Nat := dn d (0x80 + 8 * j) 8
def ldAsid (d : List Byte) : BitVec 16 := BitVec.ofNat 16 (dn d 0xF0 2)
def ldRmode (d : List Byte) : Nat := nfld (dn d 0xE8 8) 59 2
def ldStatus (d : List Byte) : Nat := dn d 0x30 8

/-- The heap triple of a launch (R379), with which the scheduler's own accesses to its memory are translated. -/
def ldHeap (d : List Byte) : Arch :=
  { hbase := BitVec.ofNat 64 (dn d 0xB8 8), hlimit := BitVec.ofNat 64 (dn d 0xC0 8), hoffs := BitVec.ofNat 64 (dn d 0xC8 8) }

/-- The modelled core's die, cluster and place in it (R11). -/
def State.myDie (s : State) : Nat := fld s.syscoord 8 2
def State.myCluster (s : State) : Nat := fld s.syscoord 5 3

/-- A launch places the modelled core (R350). -/
def State.places (s : State) (d : List Byte) : Bool :=
  nfld (ldDies d) s.myDie 1 == 1 && nfld (ldClusters d) s.myCluster 1 == 1 && nfld (ldCores d) s.myX 1 == 1

/-- Some of the launch lies on other cores. -/
def State.elsewhere (s : State) (d : List Byte) : Bool := !s.places d || decide (1 < ldPlaced d)

/-- The launch order of slot j of the modelled core (R350). -/
def State.orderOf (s : State) (d : List Byte) (j : Nat) : Nat :=
  ((ones (ldDies d) s.myDie * ones (ldClusters d) 8 + ones (ldClusters d) s.myCluster) * ones (ldCores d) 24 + ones (ldCores d) s.myX) *
    ldSlots d + j

/-- COORD of slot j (R11). -/
def State.coordOf (s : State) (d : List Byte) (j : Nat) : Nat :=
  s.myPkg * 2 ^ 18 + j * 2 ^ 16 + ldStage d s.myX % 64 * 2 ^ 10 + fld s.syscoord 0 10

/-! ### Shares (R348, R349) -/

/-- The binding of qj on the modelled core as its consumer sees it, 0 where the neighbour that feeds it is not placed. -/
def State.qKind (s : State) (d : List Byte) (j : Nat) : Nat :=
  let k := dn d (0xA2 + (j - 4)) 1
  let at_ := fun (x : Nat) => decide (x < 24) && nfld (ldCores d) x 1 == 1
  if k = 1 then 1
  else if k = 2 then (if s.myX ≠ 0 ∧ at_ (s.myX - 1) then 2 else 0)
  else if k = 3 then (if at_ (s.myX + 1) then 3 else 0)
  else 0

/-- Whether a push to qj from the modelled core feeds a consumer. -/
def State.qFeeds (s : State) (d : List Byte) (j : Nat) : Bool :=
  let k := dn d (0xA2 + (j - 4)) 1
  let at_ := fun (x : Nat) => decide (x < 24) && nfld (ldCores d) x 1 == 1
  k == 1 || (k == 2 && at_ (s.myX + 1)) || (k == 3 && s.myX != 0 && at_ (s.myX - 1))

/-- The share of slot j. -/
def State.shareOf (s : State) (d : List Byte) (j : Nat) : Share :=
  let r := ldShare d j
  { tile := (nfld r 0 8, nfld r 8 8), sem := (nfld r 16 8, nfld r 24 8), hasp := (nfld r 32 6, nfld r 38 6),
    shsem := (dn d 0xA0 1, dn d 0xA1 1), acc := BitVec.ofNat 8 (nfld r 44 8), q := BitVec.ofNat 4 (nfld r 52 4),
    qbind := [4, 5, 6, 7].map (s.qKind d),
    qpush := [4, 5, 6, 7].foldl (fun m j => if s.qFeeds d j then m ||| BitVec.ofNat 4 (2 ^ (j - 4)) else m) 0 }

/-- Two ranges, empty where the last index is below the first, have an index in common. -/
def overlaps (a b : Nat × Nat) : Bool := decide (a.1 ≤ a.2) && decide (b.1 ≤ b.2) && decide (a.1 ≤ b.2) && decide (b.1 ≤ a.2)

/-- Two shares name a resource in common, the semaphores shared by a launch's contexts apart. -/
def Share.meets (a b : Share) : Bool :=
  overlaps a.tile b.tile || overlaps a.sem b.sem || overlaps a.hasp b.hasp || a.acc &&& b.acc != 0 || a.q &&& b.q != 0

/-- Shares of two launches that cannot lie on one core together (R352). -/
def Share.clashes (a b : Share) : Bool :=
  a.meets b || overlaps a.shsem b.shsem || overlaps a.shsem b.sem || overlaps a.sem b.shsem

/-- What a pre-empted context's launch keeps on the core: the shared semaphores and the hasp ranges (R373). -/
def Share.kept (h : Share) : Share := { hasp := h.hasp, shsem := h.shsem }

/-! ### The checks of a descriptor (R347 to R352, R379) -/

/-- The offsets that R347 lists no field at. -/
def unlisted : List Nat := [0x24, 0x25, 0x26, 0x27, 0x7A, 0x7B, 0xA6, 0xA7, 0xB5, 0xB6, 0xB7] ++ (List.range 14).map (fun i => 0xF2 + i)

/-- A share record is legal beside those of the slots before it. -/
def State.shareOk (s : State) (d : List Byte) (j : Nat) : Bool :=
  if ldSlots d ≤ j then ldShare d j == 0
  else
    let h := s.shareOf d j
    nfld (ldShare d j) 56 8 == 0 && (decide (h.hasp.2 < h.hasp.1) || (decide (1 ≤ h.hasp.1) && decide (h.hasp.2 ≤ 47))) &&
      (List.range j).all (fun i => !(s.shareOf d i).meets h)

/-- The checks of R351, each with the offset of its field. -/
def State.descChecks (s : State) (d : List Byte) (cls : Nat) : List (Nat × Bool) :=
  let hb := dn d 0xB8 8
  let hl := dn d 0xC0 8
  let ho := dn d 0xC8 8
  [(0x04, dn d 4 1 == cls), (0x05, decide (dn d 5 1 < 8) && (!ldFlag d 2 || cls == 7) && (!ldFlag d 0 || ldCores d == 2 ^ 24 - 1)),
   (0x06, ldCdom d != 0xFFFF && !s.sched.barred.contains (ldLid d)), (0x10, dn d 0x10 8 % 8 == 0),
   (0x18, dn d 0x18 8 % 4 == 0), (0x20, decide (ldMucnt d ≤ 8192)), (0x22, decide (ldEpcnt d ≤ 512)), (0x30, ldStatus d % 64 == 0),
   (0x58, decide (dn d 0x58 1 < 16)), (0x59, decide (dn d 0x59 1 < 16)), (0x5A, dn d 0x5A 1 != 0 && decide (dn d 0x5A 1 < 16)),
   (0x5B, ldClusters d != 0), (0x5C, ldCores d != 0 && decide (dn d 0x5C 4 < 2 ^ 26) && !(s.places d && s.sched.retired)),
   (0x60, (List.range 24).all (fun x => nfld (ldCores d) x 1 == 0 || decide (ldStage d x ≤ 63)))] ++
  (List.range 4).map (fun j => (0x80 + 8 * j, s.shareOk d j)) ++
  [(0xA0, (List.range (ldSlots d)).all (fun j => !overlaps (s.shareOf d 0).shsem (s.shareOf d j).sem)),
   (0xA2, (List.range 4).all (fun i => decide (dn d (0xA2 + i) 1 < 4))), (0xA8, decide (dn d 0xB3 1 < 64)), (0xB4, decide (dn d 0xB4 1 < 64)),
   (0xB8, hb % 65536 == 0), (0xC0, hl % 65536 == 0 && decide (hb ≤ hl) && decide (hl ≤ 2 ^ 56)),
   (0xC8, ho % 65536 == 0 && decide (ho < 2 ^ 56))] ++
  unlisted.map (fun o => (o, dn d o 1 == 0))

/-- The offset of the first failing field (R351). -/
def State.badField (s : State) (d : List Byte) (cls : Nat) : Option Nat :=
  ((sortBy Prod.fst (s.descChecks d cls)).find? (fun p => !p.2)).map Prod.fst

/-! ### Queue rings (R421, R422) -/

/-- A register of launch queue n. -/
def qReg (n o : Nat) : Nat := 0x100000 + 0x40 * n + o
def State.qLogn (s : State) (n : Nat) : Nat := fld (s.reg (qReg n 8)) 0 4
def State.qHead (s : State) (n : Nat) : Nat := (s.reg (qReg n 0x10)).toNat
def State.qTail (s : State) (n : Nat) : Nat := (s.reg (qReg n 0x0C)).toNat
def State.qClass (s : State) (n : Nat) : Nat := fld (s.reg (qReg n 8)) 8 3
def qKey (n count : Nat) : Nat := n * 2 ^ 32 + count

/-- The bytes of a slot. -/
def State.slotAddr (s : State) (n count : Nat) : Nat := (s.reg (qReg n 0)).toNat + 256 * (count % 2 ^ s.qLogn n)
def State.slotBytes (s : State) (n count : Nat) : List Byte := s.memBytes (s.slotAddr n count) 256

/-- The descriptor of a queued launch, as it has been read, or as its slot holds it. -/
def State.descAt (s : State) (n count : Nat) : List Byte :=
  match s.sched.heads.find? (fun p => p.1 == qKey n count) with
  | some p => p.2
  | none => s.slotBytes n count

/-- What a slot that has changed since its doorbell reads as: each aligned 4-byte word before or after (R422, log 4). -/
def eitherWord (k : Nat) (now old : List Byte) : List Byte :=
  (now.zip old).zipIdx.map (fun p => if p.1.1 = p.1.2 then p.1.1 else if Config.raceAt k (p.2 / 4) then p.1.2 else p.1.1)

/-- The descriptor of a queue's head is read, once; a word that has changed since the doorbell reads as before or after (R422, log 4). -/
def State.readHead (s : State) (n : Nat) : State :=
  let k := qKey n (s.qHead n)
  if s.qLogn n = 0 ∨ s.qHead n = s.qTail n ∨ s.sched.heads.any (fun p => p.1 == k) then s
  else
    let now := s.slotBytes n (s.qHead n)
    let old := ((s.sched.slots.find? (fun p => p.1 == k)).map Prod.snd).getD now
    let d := eitherWord s.choices now old
    let word := s.badAt .l2 (List.range' (s.slotAddr n (s.qHead n)) 256)
    let fails := word.isSome
    let t := match word with
      | some b => s.meets b (ldLid d)
      | none => s
    { t with choices := s.choices + 1, sched := { s.sched with badHeads := if fails then k :: s.sched.badHeads else s.sched.badHeads, heads := (k, d) :: s.sched.heads, slots := s.sched.slots.filter (fun p => p.1 != k) } }

/-- The head launch of a queue that runs none (R346). -/
def State.headDesc (s : State) (n : Nat) : Option (List Byte) :=
  if s.qLogn n = 0 ∨ s.qHead n = s.qTail n ∨ s.launches.any (fun l => l.queue == n) then none else some (s.descAt n (s.qHead n))

/-- QHEAD passes the launch whose record has been written, with the queue's signal (R359, R421, R422). -/
def State.advance (s : State) (n : Nat) : State :=
  let h := s.qHead n
  let cfg := s.reg (qReg n 8)
  let s := s.setReg (qReg n 0x10) (BitVec.ofNat 64 ((h + 1) % 2 ^ 32))
  { s with
    sched := { s.sched with
      enter := s.sched.enter.filter (fun p => p.1 != qKey n h), serials := s.sched.serials.filter (fun p => p.1 != qKey n h)
      heads := s.sched.heads.filter (fun p => p.1 != qKey n h), badHeads := s.sched.badHeads.filter (fun k => k != qKey n h), slots := s.sched.slots.filter (fun p => p.1 != qKey n h) }
    msix := if bit cfg 12 then s.msix ++ [fld cfg 13 11] else s.msix }.readHead n

/-- The place of the launch in a queue's slot in the order of all entries. -/
def State.serialOf (s : State) (n count : Nat) : Nat := ((s.sched.serials.find? (fun p => p.1 == qKey n count)).map Prod.snd).getD 0

/-- A launch is among those that ended last (R353). -/
def State.noteEnded (s : State) (e : Ended) : State :=
  { s with sched := { s.sched with
      ended := ({ e with serial := s.serialOf e.queue (s.qHead e.queue) } :: s.sched.ended).take 4096
      killed := s.sched.killed.filter (fun l => l != e.lid) } }

/-! ### The status record (R359) -/

/-- The 64 bytes of a status record: code, flags, the first fault, start and end, and the counts. -/
def recordBytes (code flags : Nat) (coord : BitVec 28) (bundle : Nat) (cmd : W32) (tstart tfault tend : Nat) (ok fail : List Nat) : List Byte :=
  let o := fun (i : Nat) => leBytes 4 (min (ok.getD i 0) (2 ^ 32 - 1))
  let f := fun (i : Nat) => leBytes 2 (min (fail.getD i 0) 65535)
  leBytes 1 code ++ leBytes 1 flags ++ f 0 ++ leBytes 4 coord.toNat ++ leBytes 8 bundle ++ leBytes 4 cmd.toNat ++ f 1 ++ f 2 ++
    leBytes 8 tstart ++ leBytes 4 tfault ++ leBytes 4 tend ++ o 0 ++ o 1 ++ o 2 ++ o 3 ++ o 4 ++ f 3 ++ f 4

/-- Writes the record at home, through the launch's translations; where they fail, no record is written (log 40). -/
def State.writeRecord (s : State) (d : List Byte) (bs : List Byte) : State :=
  match s.vaWrite (ldHeap d) (ldAsid d) (ldStatus d) bs with
  | .ok s => s
  | .error _ => s

/-- The write of a record waits while its page is in a migration window (R389). -/
def State.recordParks (s : State) (d : List Byte) : Bool := s.vaParks (ldHeap d) (ldAsid d) (ldStatus d) 64

/-- A launch of queue n that does not run: its record has FLAGS[1] = 0 (R351, R353, R361, R469). -/
def State.notRun (s : State) (n : Nat) (d : List Byte) (code : Byte) (coord : BitVec 28) (cmd : W32) : State :=
  let g := s.gtb.toNat
  if s.recordParks d then s else
  ((s.writeRecord d (recordBytes code.toNat 1 coord 0 cmd g 0 0 [] [])).noteEnded { lid := ldLid d, code, cdom := ldCdom d, queue := n }).advance n

/-! ### The start of a launch (R310, R345, R350, R357, R468, R469) -/

/-- The failing command identifier 0x4C00_00oo of a descriptor field. -/
def fieldIdent (o : Nat) : W32 := BitVec.ofNat 32 (0x4C000000 + o)

/-- The words of an image. -/
def imageWords (n : Nat) (bs : List Byte) (count : Nat) : List Nat := (List.range count).map (fun i => dn bs (n * i) n)

/-- The reads of the start: microprogram words, epilogue words, and the first bundle of node 0; or the status and the field of the
read that fails (R469). -/
def State.startReads (s : State) (d : List Byte) : Except (Byte × Nat) (List Nat × List Nat × Nat) :=
  let read := fun (o n : Nat) => match s.vaRead (ldHeap d) (ldAsid d) (dn d o 8) n with
    | .ok b => Except.ok b
    | .error e => Except.error (e, o)
  match read 0x10 (8 * ldMucnt d) with
  | .error e => .error e
  | .ok mu => match read 0x18 (4 * ldEpcnt d) with
    | .error e => .error e
    | .ok ep => match read 0x08 16 with
      | .error e => .error e
      | .ok nd => .ok (imageWords 8 mu (ldMucnt d), imageWords 4 ep (ldEpcnt d), dn nd 0 8)

/-- The bytes that the start reads at the address in a field. -/
def startLen (d : List Byte) (o : Nat) : Nat := if o = 0x10 then 8 * ldMucnt d else if o = 0x18 then 4 * ldEpcnt d else 16

/-- RKEY of launch order k (R350). -/
def startRkey (d : List Byte) (k : Nat) : W64 := BitVec.ofNat 64 (dn d 0x40 8) ^^^ BitVec.ofNat 64 (k * 0x9E3779B97F4A7C15)

/-- The registers of context k at the start (R12, R350). -/
def startArch (d : List Byte) (k pc : Nat) (g : W64) : Arch :=
  let q := fun (o : Nat) => BitVec.ofNat 64 (dn d o 8)
  { ldHeap d with
    s := Store.put [] 0 (q 0x28), g := 1, fcr := BitVec.ofNat 64 (dn d 0xB4 1), lscale := q 0xD0, lscfg := q 0xD8 &&& 0xFFFFFFFF,
    rkey := startRkey d k, trel := g, driftcfg := q 0xE0 &&& 0xF0FFFFFFFFFFFFFF, tracecfg := q 0xE8 &&& 0xFFFF8FFFFFFFFFFF, pc }

/-- Context of slot j at the start: its start-of-launch state is its first checkpoint (R468). -/
def State.startCtx (s : State) (d : List Byte) (cls pc : Nat) (g : W64) (j : Fin 4) : State :=
  let k := s.orderOf d j.val
  let a := startArch d k pc g
  let base := s.reg regRPLBASE
  let mode := ldRmode d
  let p := base.toNat + 2 ^ 20 * k
  let off := mode ≠ 0 ∧ (base = 0 ∨ (2 ≤ mode ∧ s.memNat (p + 8) 8 ≠ 1))
  let s := if mode = 1 ∧ base ≠ 0 then s.memPut p (leBytes 8 0 ++ leBytes 8 1 ++ leBytes 8 g.toNat) else s
  s.mod j (fun x => {
    arch := a
    shadow := a
    mode := .starting g
    lid := ldLid d
    coord := BitVec.ofNat 64 (s.coordOf d j.val)
    ctxid := BitVec.ofNat 64 ((ldLid d).toNat * 2 ^ 16 + k)
    asid := ldAsid d
    cls := BitVec.ofNat 3 cls
    share := s.shareOf d j.val
    nextId := x.nextId
    ckptId := x.nextId
    ckptDone := true
    rplBase := base
    rplOff := decide off
    order := k })

/-- The slots of a core that a launch takes. -/
def slotsOf (d : List Byte) : List (Fin 4) := ctxIds.filter (fun c => decide (c.val < ldSlots d))

/-- A barrier of span `sp` has members on other cores (R306). -/
def spanFar (d : List Byte) (sp : Nat) : Bool :=
  let cores := ones (ldCores d) 24
  let n := match sp with
    | 0 => 1
    | 1 => cores
    | 2 => cores * ones (ldClusters d) 8
    | _ => ldPlaced d
  decide (1 < n)

/-- Member counts of the launch's barriers on this core (R306, R307). -/
def State.startHasps (s : State) (d : List Byte) : State :=
  let hspan := dn d 0xA8 12
  let s := s.setHasp (haspKey (ldLid d) 0) { members := ldSlots d, far := s.elsewhere d }
  (List.range 48).foldl (fun s n =>
    if n ≠ 0 ∧ (List.range (ldSlots d)).any (fun j => inRange (s.shareOf d j).hasp n) then
      s.setHasp n { members := 1, far := spanFar d (nfld hspan (2 * n - 2) 2) }
    else s) s

/-- Every semaphore of the shares holds 0 with its latch clear, every tile entry is EMPTY with every field zero (R225, R271). -/
def State.startShares (s : State) (d : List Byte) : State :=
  let hs := (List.range (ldSlots d)).map (s.shareOf d)
  let mine := fun (n : Nat) => hs.any (fun h => inRange h.sem n || inRange h.shsem n)
  { s with
    semVal := s.semVal.filter (fun p => !mine p.1)
    semLatch := s.semLatch.filter (fun p => !mine p.1)
    semCode := s.semCode.filter (fun p => !mine p.1)
    tiles := s.tiles.filter (fun p => !(p.1 / 256 == s.myX && hs.any (fun h => inRange h.tile (p.1 % 256)))) }

/-- The stations write back every dirty byte and drop every clean one (R358). -/
def State.flushAll (s : State) : State := s.flush ((s.stations.flatMap Prod.snd).map (fun b => lineOf b.pa))

/-- The L1s of the cluster are fused or go apart again (R278): where they fuse, the dirty bytes of the core's own L1 go on to the fused one and
its clean ones go (R293, R294; DESIGN CHOICE, log 72). -/
def State.setFused (s : State) (f : Bool) : State :=
  let s := if f && !s.fused then { s.putStation 2 (s.stCore.filter StByte.dirty).reverse with stCore := [] } else s
  { s with fused := f }

/-- A flush is due before a launch starts: its domain differs from the one whose bytes the L1 may hold, and it takes the core or
depends on a launch of another domain (R358). -/
def State.needsFlush (s : State) (n : Nat) (d : List Byte) : Bool :=
  let preds := (List.range 4).filterMap (fun j => if nfld (dn d 0x58 1) j 1 = 1 then some (BitVec.ofNat 32 (dn d (0x48 + 4 * j) 4)) else none)
  let dep := (s.sched.ended.filter (fun e => preds.contains e.lid)) ++ ((s.sched.ended.find? (fun e => e.queue == n)).toList)
  s.sched.cdom != ldCdom d && (s.places d || dep.any (fun e => e.cdom != ldCdom d))

/-- The launch at the head of queue n starts at its effective class (R357): the flush, the contexts and shares, the images, the
context state, the barriers, and a GTB count at least 64 ahead, which is free (log 5). A start read that fails ends it (R469). -/
def State.startLaunch (s : State) (n : Nat) (d : List Byte) (cls : Nat) : State :=
  let s := if s.needsFlush n d then s.flushAll else s
  match s.startReads d with
  | .error (e, o) => (s.devHit (ldLid d) e (ldHeap d) (ldAsid d) .read (dn d o 8) (startLen d o)).notRun n d e 0 (fieldIdent o)
  | .ok (mu, ep, pc) =>
    let g := s.gtb + 64 + BitVec.ofNat 64 (fld (Config.freeWord s.times) 0 16)
    let s := { s with
      times := s.times + 1
      launches := s.launches ++ [{ lid := ldLid d, queue := n, desc := d, cls := BitVec.ofNat 3 cls, tstart := g }]
      srPos := s.srPos.filter (fun p => p.1 != ldLid d)
      sched := { s.sched with lastQueue := n, reserved := none } }
    if !s.places d then s
    else
      let s := s.startShares d
      let s := if ldImages d then { s with
          mu := (mu.map (BitVec.ofNat 64)).zipIdx.foldl (fun m p => m.put p.2 p.1) []
          ep := (ep.map (BitVec.ofNat 32)).zipIdx.foldl (fun m p => m.put p.2 p.1) []
          bad := s.bad.filter (fun b => b.space != .mu && b.space != .ep)
          sched := { s.sched with owner := some (ldLid d) } }
        else s
      let s := (slotsOf d).foldl (fun s j => s.startCtx d cls pc g j) s
      State.setFused { s.startHasps d with sched := { s.sched with cdom := ldCdom d } } (ldFlag d 0)

/-! ### The end of a launch (R358, R359) -/

/-- Nothing of context c is in flight: its stores have left its queues, its commands and calls are gone (R325, R359). -/
def State.settledCtx (s : State) (c : Fin 4) : Bool :=
  let x := s.ctx c
  x.hold.isEmpty && x.queue.isEmpty && x.logWait.isEmpty && x.cmds.isEmpty && (s.callsOf c).isEmpty && !s.homeQ.any (fun h => h.ctx == c) &&
    !s.bankQ.any (fun b => b.ctx == c && b.peer.isNone)

/-- The contexts that a launch has on the core. -/
def State.ctxsOf (s : State) (lid : BitVec 32) : List (Fin 4) :=
  ctxIds.filter (fun c => (s.ctx c).lid == lid && decide ((s.ctx c).mode ≠ .free))

/-- The launch has ended on this core, settled, and no hold lasts (R358, R444). -/
def State.mayEnd (s : State) (l : Launch) : Bool :=
  (s.ctxsOf l.lid).all (fun c => decide ((s.ctx c).mode = .ended) && s.settledCtx c) && !s.away.any (fun p => p.2.lid == l.lid) &&
    !l.held && (!(s.ctxsOf l.lid).isEmpty || s.elsewhere l.desc || l.fault.isSome)

/-- The record of a launch that has run. What its other cores add to the counts is free (log 1, log 5). -/
def State.launchRecord (s : State) (l : Launch) (flushed : Bool) : List Byte :=
  let plus := fun (i v : Nat) => if s.elsewhere l.desc then v + (Config.freeWord (s.times + i)).toNat else v
  let flags := if flushed then 7 else 3
  let t := fun (g : W64) => (g.toNat - l.tstart.toNat) / 1024
  let ok := [plus 0 l.cmdOk, plus 1 l.callOk, plus 2 l.chunkOk, plus 3 l.blkOk, plus 4 l.recOk]
  let fail := [plus 5 l.cmdFail, plus 6 l.callFail, plus 7 l.chunkFail, plus 8 l.blkFail, plus 9 l.recFail]
  match l.fault with
  | none => recordBytes 0 flags 0 0 0 l.tstart.toNat 0 (t s.gtb) ok fail
  | some f => recordBytes f.code.toNat flags f.coord f.bundle f.cmd l.tstart.toNat (t f.gtb) (t s.gtb) ok fail

/-- A context gives up its slot, its shares with their scale-cache entries, and its barriers (R33, R361). -/
def State.reclaim (s : State) (c : Fin 4) : State :=
  let x := s.ctx c
  { s.freeShare c with hasps := s.hasps.filter (fun p => !(decide (1 ≤ p.1) && decide (p.1 ≤ 47) && inRange x.share.hasp p.1)) }.setCtx c
    { nextId := x.nextId }

/-- The end of a settled launch: the records it counts, the flush of HOSTDEP, the status record, and what it held is free. -/
def State.finishLaunch (s : State) (l : Launch) : State :=
  let s := (s.ctxsOf l.lid).foldl State.countRecs s
  let l := (s.launchOf l.lid).getD l
  let dep := ldFlag l.desc 1
  let s := if dep then s.flushAll else s
  let s := s.writeRecord l.desc (s.launchRecord l dep)
  let s := (s.ctxsOf l.lid).foldl State.reclaim s
  let code := match l.fault with
    | some f => f.code
    | none => 0
  let s : State := { s with
    times := s.times + 10
    launches := s.launches.filter (fun k => k.lid != l.lid)
    hasps := s.hasps.filter (fun p => p.1 != haspKey l.lid 0)
    srPos := s.srPos.filter (fun p => p.1 != l.lid)
    fused := s.fused && !(s.places l.desc && ldFlag l.desc 0)
    sched := { s.sched with owner := if s.sched.owner = some l.lid then none else s.sched.owner } }
  (s.noteEnded { lid := l.lid, code, cdom := ldCdom l.desc, queue := l.queue }).advance l.queue

/-- LAUNCH_END (R358 to R360): a launch whose time has passed before its end ends with TIME_LIMIT. A package that is halted writes no record
(R454). -/
def execLaunchEnd (lid : BitVec 32) (s : State) : Out :=
  match s.launchOf lid with
  | none => .next s
  | some l =>
    if s.halted then .next s
    else if l.fault.isNone ∧ s.timeUp l then .next (s.endBare lid cTIME_LIMIT)
    else if s.mayEnd l ∧ !s.recordParks l.desc then .next (s.finishLaunch l)
    else .next s

/-! ### Kills (R361) -/

/-- The place in its queue of a queued launch. -/
def State.queuedAs (s : State) (lid : BitVec 32) : Option (Nat × Nat) :=
  (s.sched.enter.map (fun p => (p.1 / 2 ^ 32, p.1 % 2 ^ 32))).find? (fun q =>
    ldLid (s.descAt q.1 q.2) == lid && !(s.launches.any (fun l => l.queue == q.1) && q.2 == s.qHead q.1))

/-- KILLED (R361): a running launch ends; a queued one is written off, at once where it is its queue's head, otherwise when it
becomes it, since a queue retires its launches in order (R346), or when its record can be written (R389). -/
def execKilled (lid : BitVec 32) (s : State) : Out :=
  match s.launchOf lid with
  | some _ => .next (s.endBare lid cKILLED)
  | none => match s.queuedAs lid with
    | none => .next s
    | some (n, k) =>
      if k = s.qHead n ∧ (s.headDesc n).isSome ∧ !s.recordParks (s.descAt n k) then .next (s.notRun n (s.descAt n k) cKILLED 0 0)
      else .next { s with sched := { s.sched with killed := lid :: s.sched.killed } }

end Sys2Proof.Machine
end

