-- ==== Sys2Proof/Machine/Scheduler.lean ====
section
/-! DEFINITION. The scheduler (R352 to R356), ballast (R362, R363) and the return of pre-empted contexts (R374, R375).
SCHEDULER_PASS, BALLAST_ADMIT, RESUME. -/

namespace Sys2Proof.Machine

open Sys2Proof

/-! ### Dependences (R353) -/

/-- The place of a queued launch in the order of entry. -/
def State.entryPlace (s : State) (n count : Nat) : Nat := s.sched.enter.findIdx (fun p => p.1 == qKey n count)

/-- A launch with this identifier was queued before place `i`, and has not ended; the running ones are among them. -/
def State.pendingLid (s : State) (lid : BitVec 32) (i : Nat) : Bool :=
  (s.sched.enter.take i).any (fun p => ldLid (s.descAt (p.1 / 2 ^ 32) (p.1 % 2 ^ 32)) == lid)

/-- How the launch ended last that had this identifier and entered before the one with serial `k` (R353). -/
def State.endedBefore (s : State) (lid : BitVec 32) (k : Nat) : Option Ended := s.sched.ended.find? (fun e => e.lid == lid && (k == 0 || decide (e.serial < k)))

/-- What a head launch's predecessors come to. -/
inductive Preds where
  | wait
  | ready
  /-- The first one that had to end with status 0x00 and did not. -/
  | failed (lid : BitVec 32)
  deriving DecidableEq, Repr

/-- The predecessors of the head launch of queue n (R353). -/
def State.preds (s : State) (n : Nat) (d : List Byte) : Preds :=
  let i := s.entryPlace n (s.qHead n)
  let ps := ((List.range 4).filter (fun j => nfld (dn d 0x58 1) j 1 == 1)).map (fun j => (BitVec.ofNat 32 (dn d (0x48 + 4 * j) 4), j))
  let bad := ps.find? (fun p => !s.pendingLid p.1 i && nfld (dn d 0x59 1) p.2 1 == 1 &&
    (s.endedBefore p.1 (s.serialOf n (s.qHead n))).any (fun e => e.code != 0))
  match bad with
  | some p => .failed p.1
  | none => if ps.any (fun p => s.pendingLid p.1 i) then .wait else .ready

/-! ### Resources (R352, R355, R356) -/

/-- A launch may lie beside what the core holds: no other launch holds it for the debugger, has another domain, fuses the cluster,
owns the stores that this one needs, or has resources in common with it (R352, R373, R377, R444). -/
def State.beside (s : State) (lid : BitVec 32) (d : List Byte) (hs : List Share) : Bool :=
  let others := (ctxIds.filter (fun c => decide ((s.ctx c).mode ≠ .free))).map (fun c => ((s.ctx c).lid, (s.ctx c).share))
  !s.launches.any (fun l => l.held && s.places l.desc) &&
    (!ldImages d || s.sched.owner.isNone || s.sched.owner == some lid) &&
    others.all (fun o => o.1 == lid ||
      (hs.all (fun h => !h.clashes o.2) && !ldFlag d 0 && match s.launchOf o.1 with
        | some l => ldCdom l.desc == ldCdom d && !ldFlag l.desc 0
        | none => true)) &&
    s.away.all (fun p => p.2.lid == lid || hs.all (fun h => !h.clashes p.2.share.kept))

/-- Every resource of a launch is free: on this core as the state says, on other cores as a free choice (log 1). -/
def State.fits (s : State) (d : List Byte) : Bool :=
  (!s.elsewhere d || Config.racePick s.choices) && (ldRmode d == 0 || s.launches.all (fun l => ldRmode l.desc == 0)) &&
    (!s.places d ||
      ((slotsOf d).all (fun c => decide ((s.ctx c).mode = .free)) &&
        s.beside (ldLid d) d ((List.range (ldSlots d)).map (s.shareOf d))))

/-- Two launches place a core in common: both take its slot 0 (R350). -/
def sharesCore (d e : List Byte) : Bool :=
  ldDies d &&& ldDies e != 0 && ldClusters d &&& ldClusters e != 0 && ldCores d &&& ldCores e != 0

/-- The waiting candidate has reserved what a launch needs (R355). -/
def State.isReserved (s : State) (d : List Byte) : Bool :=
  match s.sched.reserved with
  | some e => ldLid e != ldLid d && (sharesCore d e || (ldRmode d != 0 && ldRmode e != 0))
  | none => false

/-! ### The pass (R354, R355) -/

/-- GTB counts in a millisecond (R453), and in 100 ms. -/
def gtbMs : Nat := 156250

/-- The effective class of a launch that entered its queue at `since` (R354). -/
def effClass (c : Nat) (gtb since : Nat) : Nat := if c = 0 ∨ c = 7 then c else max 1 (c - (gtb - since) / (100 * gtbMs))

/-- The effective class of the head launch of queue n. -/
def State.headClass (s : State) (n : Nat) (d : List Byte) : Nat :=
  let since := ((s.sched.enter.find? (fun p => p.1 == qKey n (s.qHead n))).map (fun p => p.2.toNat)).getD s.gtb.toNat
  effClass (dn d 4 1 % 8) s.gtb.toNat since

/-- A launch places the core at place `c` of the package (x, cluster, die), which is not this one (R11, R350). -/
def State.placesOther (s : State) (d : List Byte) (c : Nat) : Bool :=
  nfld (ldDies d) (nfld c 8 2) 1 == 1 && nfld (ldClusters d) (nfld c 5 3) 1 == 1 && decide (nfld c 0 5 < 24) && nfld (ldCores d) (nfld c 0 5) 1 == 1 &&
    c != fld s.syscoord 0 10

/-- The coordinate of a retired core that a launch places: this one, or another one of those that it places, which is free (R351, log 4). -/
def State.retiredAt (s : State) (d : List Byte) : Option (BitVec 28) :=
  if s.places d ∧ s.sched.retired then some (BitVec.ofNat 28 (s.coordOf d 0))
  else if !(List.range 1024).any (s.placesOther d) then none
  else match Config.coreRetired s.choices with
    | none => none
    | some c =>
      let c := c % 2 ^ 10
      if s.placesOther d c then some (BitVec.ofNat 28 (s.myPkg * 2 ^ 18 + ldStage d (nfld c 0 5) % 64 * 2 ^ 10 + c)) else none

/-- Writes off a head launch that has been killed, breaks a rule, or depends on a launch that failed (R351, R353, R361). -/
def State.writeOff (s : State) (n : Nat) : State :=
  match s.headDesc n with
  | none => s
  | some d =>
    if s.sched.badHeads.contains (qKey n (s.qHead n)) then s.notRun n d cUNCORRECTABLE_MEM 0 0
    else if s.sched.killed.contains (ldLid d) then s.notRun n d cKILLED 0 0
    else match (s.badField d (s.qClass n)).filter (fun o => decide (o < 0x5C)), s.retiredAt d, s.badField d (s.qClass n) with
      | none, some coord, _ => s.notRun n d cILLEGAL_OPERAND coord (fieldIdent 0x5C)
      | _, _, some o => s.notRun n d cILLEGAL_OPERAND 0 (fieldIdent o)
      | _, _, none => match s.preds n d with
        | .failed lid => s.notRun n d cKILLED 0 lid
        | _ => s

/-- The head launches whose descriptors stand, that have not been killed, and whose predecessors have all ended, in the order of R355. -/
def State.readyHeads (s : State) : List (Nat × List Byte) :=
  let ok := fun (n : Nat) (d : List Byte) => !s.sched.badHeads.contains (qKey n (s.qHead n)) && s.preds n d == .ready && !s.sched.killed.contains (ldLid d) && (s.badField d (s.qClass n)).isNone
  let hs := (List.range 64).filterMap (fun n => (s.headDesc n).bind (fun d => if ok n d then some (n, d) else none))
  sortBy (fun p => s.headClass p.1 p.2 * 64 + (p.1 + 63 - s.sched.lastQueue) % 64) hs

/-- The candidate needs contexts that ballast holds: it is pre-empted at its next NODE, or a DISCARD launch may be ended (R356). -/
def State.evict (s : State) (d : List Byte) : State :=
  let s : State := { s with choices := s.choices + 1 }
  s.launches.foldl (fun s l =>
    if l.cls = 7 ∧ l.fault.isNone ∧ s.places d ∧ (s.ctxsOf l.lid).any (fun c => (slotsOf d).contains c) then
      if ldFlag l.desc 2 ∧ Config.racePick (s.choices + l.lid.toNat) then s.endBare l.lid cKILLED else s.wantOff l.lid
    else s) s

/-- SCHEDULER_PASS (R355): heads that cannot run are written off; the candidate starts where everything it needs is free, otherwise
it reserves its resources and the first launch that fits beside it starts. One launch starts in a pass. -/
def execSchedulerPass (s : State) : Out :=
  if !s.booted ∨ s.halted ∨ !s.powered then .next s
  else
    let s := (List.range 64).foldl State.writeOff s
    let s : State := { s with choices := s.choices + 1, sched := { s.sched with reserved := none } }
    match s.readyHeads.filter (fun p => dn p.2 4 1 != 7) with
    | [] => .next s
    | (n, d) :: rest =>
      if s.fits d then .next (s.startLaunch n d (s.headClass n d))
      else
        let s := { s with sched := { s.sched with reserved := some d } }.evict d
        match rest.find? (fun p => s.fits p.2 && !s.isReserved p.2) with
        | some (m, e) => .next { s.startLaunch m e (s.headClass m e) with sched := { (s.startLaunch m e (s.headClass m e)).sched with reserved := some d } }
        | none => .next s

/-! ### Ballast (R362, R455) -/

def regPWRCFG : Nat := 0x500800
def regPWRNOW : Nat := 0x500808
def State.powerNow (s : State) : Nat := fld (s.reg regPWRNOW) 0 16
def State.setPoint (s : State) : Nat := fld (s.reg regPWRCFG) 0 16
def State.powerBand (s : State) : Nat := fld (s.reg regPWRCFG) 16 8

/-- Power lies below the set point minus the band, and no ballast has been admitted or resumed in this millisecond. -/
def State.mayAdmit (s : State) : Bool :=
  decide (s.powerNow + s.powerBand < s.setPoint) && match s.sched.lastAdmit with
    | none => true
    | some g => decide (gtbMs ≤ (s.gtb - g).toNat)

def State.admitted (s : State) : State := { s with sched := { s.sched with lastAdmit := some s.gtb } }

/-- BALLAST_ADMIT (R362): a class-7 head starts on free resources, or, above the set point plus the band, running ballast is
pre-empted at its next NODE or ended. -/
def execBallastAdmit (s : State) : Out :=
  if !s.booted ∨ s.halted ∨ !s.powered then .next s
  else if s.setPoint + s.powerBand < s.powerNow then
    let s : State := { s with choices := s.choices + 1 }
    .next (s.launches.foldl (fun s l =>
      if l.cls = 7 ∧ l.fault.isNone then
        if ldFlag l.desc 2 ∧ Config.racePick (s.choices + l.lid.toNat) then s.endBare l.lid cKILLED else s.wantOff l.lid
      else s) s)
  else if s.mayAdmit then
    match s.readyHeads.find? (fun p => dn p.2 4 1 == 7 && s.fits p.2 && !s.isReserved p.2) with
    | some (n, d) => .next { (s.startLaunch n d 7).admitted with sched := { (s.startLaunch n d 7).admitted.sched with reserved := s.sched.reserved } }
    | none => .next s
  else .next s

/-! ### The return of pre-empted contexts (R356, R374, R375) -/

/-- Takes a pre-empted context back into its slot, with identifiers that the slot has not used. -/
def State.comeBack (s : State) (p : Fin 4 × Context) : State :=
  s.setCtx p.1 { p.2 with nextId := max p.2.nextId (s.ctx p.1).nextId }

/-- The engine fills the chunk tiles of a restored COLL that have a permit (R335, R343, log 73). -/
def State.refill (s : State) (c : Fin 4) (k : Cmd) : State :=
  if !k.reduces then s
  else ((k.recvs.drop k.coll.recvd).take k.coll.granted).zipIdx.foldl (fun s p =>
    s.orFault c k (s.prepareTile c k (s.chunkTile k (k.coll.recvd + p.2)) p.1) (fun s => s)) s

/-- The commands of a restored context go on (R343, R375). -/
def State.collsGoOn (s : State) (c : Fin 4) : State := ((s.ctx c).colls.foldl (fun s k => (s.refill c k).goOn c k) s).settled

/-- A launch takes the core back: bytes of another domain in the L1 go home first, and the L1s are fused if its launch has them so (R347,
R358). -/
def State.takeBack (s : State) (d : List Byte) : State :=
  let s := if s.sched.cdom != ldCdom d then s.flushAll else s
  State.setFused { s with sched := { s.sched with cdom := ldCdom d } } (ldFlag d 0)

/-- RESUME (R375): the launch of the pre-empted context that has waited longest for slot c returns to the core with all its
contexts there, once their slots and shares are free and not reserved for another launch (R355, R356). -/
def execResume (c : Fin 4) (s : State) : Out :=
  match s.away.find? (fun p => p.1 == c) with
  | none => .next s
  | some (_, x) =>
    match s.launchOf x.lid with
    | none => .next s
    | some l =>
      let mine := s.away.filter (fun p => p.2.lid == x.lid)
      if !mine.all (fun p => decide ((s.ctx p.1).mode = .free)) ∨ !s.beside x.lid l.desc (mine.map (fun p => p.2.share)) ∨
          s.isReserved l.desc ∨ (l.cls = 7 ∧ !s.mayAdmit) then .next s
      else
        let g := s.gtb + 64 + BitVec.ofNat 64 (fld (Config.freeWord s.times) 0 16)
        let s := (if l.cls = 7 then s.admitted else s).takeBack l.desc
        let s := mine.foldl State.comeBack { s with times := s.times + 1, away := s.away.filter (fun p => p.2.lid != x.lid) }
        .next (mine.foldl (fun s p =>
          if (s.ctx p.1).mode = .preempted then (s.restoreCtx p.1 g).collsGoOn p.1 else s) s)

end Sys2Proof.Machine
end

