-- ==== Sys2Proof/Machine/Translation.lean ====
section
/-! DEFINITION. Walks and invalidations (R261, R380 to R385, R389 to R391, R423), and what the management cores read and write of
memory (R385, R406). TLB_WALK, WRITE_RETRANSLATE, TLB_INVALIDATION_APPLIED, INVALIDATE, MANAGEMENT_CORE_ACCESS. -/

namespace Sys2Proof.Machine

open Sys2Proof

/-- The launch that has contexts of an address space; 0 where none has. -/
def State.lidOf (s : State) (asid : BitVec 16) : BitVec 32 := ((ctxIds.find? (fun c => (s.ctx c).asid == asid)).map (fun c => (s.ctx c).lid)).getD 0

/-- TLB_WALK (R384): the matching entry fills the TLBs; none is filled where nothing matches (R380), nor where the walk reads a word whose
check fails, which is tested (R428, R429): the access that needs the walk ends its launch itself. -/
def execTlbWalk (asid : BitVec 16) (va : BitVec 56) (s : State) : Out :=
  match s.walkBad {} asid va.toNat with
  | some b => .next (s.meets b (s.lidOf asid))
  | none => .next (s.tlbFill asid va.toNat)

/-! ### Invalidations (R261, R391) -/

/-- Bytes of the page of an entry. -/
def TlbEnt.span (e : TlbEnt) : Nat := 2 ^ pageShift e.sz

/-- An invalidation removes an entry: its space, its level where the hint names one, and a page that its range meets. -/
def Inval.hits (v : Inval) (e : TlbEnt) : Bool :=
  let lo := v.va.toNat / 65536 * 65536
  e.asid == v.asid && (v.count == 0 ||
    ((v.level == 0 || v.level == e.sz + 1) && decide (lo < e.va.toNat + e.span) && decide (e.va.toNat < lo + 65536 * v.count)))

/-- An address lies in the virtual page, or in the physical page, of an entry. -/
def TlbEnt.holdsVa (e : TlbEnt) (va : Nat) : Bool := decide (e.va.toNat ≤ va) && decide (va < e.va.toNat + e.span)
def TlbEnt.holdsPa (e : TlbEnt) (pa : Nat) : Bool := decide (e.pa.toNat ≤ pa) && decide (pa < e.pa.toNat + e.span)

/-- The physical addresses that an access names. -/
def Acc.pas (a : Acc) : List Nat := if a.sp then [] else a.addrs ++ a.cells.map Prod.fst ++ (if a.kind = .vamo then a.lanes.map Prod.fst else [])

/-- A parked write that used a removed entry translates again (R389). -/
def Acc.unpark (es : List TlbEnt) (a : Acc) : Acc :=
  if a.wp ∧ es.any (fun e => a.vaList.any e.holdsVa) then { a with stale := true } else a

/-- A posted invalidation, of the host or of the hart that moves: it has still to reach every TLB. -/
def State.post (s : State) (va : Addr) (asid : BitVec 16) (level count : Nat) (host : Bool) : State :=
  { s with invals := s.invals ++ [{ va, asid, level, count, host, hart := if host then 0 else s.hartNo.val, pending := [.compute, .netPort, .storagePort] }] }

/-- Replaces the first element that `p` picks. -/
def mapFirst {α : Type} (p : α → Bool) (f : α → α) : List α → List α
  | [] => []
  | x :: xs => if p x then f x :: xs else x :: mapFirst p f xs

/-- TLB_INVALIDATION_APPLIED (R261): the oldest posted invalidation that has not reached the TLB removes its entries there. -/
def execTlbInvalidationApplied (t : TlbRef) (s : State) : Out :=
  let due := fun (v : Inval) => v.pending.contains t
  match s.invals.find? due with
  | none => .next s
  | some v =>
    if t ≠ .compute then .next { s with invals := mapFirst due (fun v => { v with pending := v.pending.erase t }) s.invals }
    else
      let gone := (s.tlb ++ s.tlbOld).filter v.hits
      let s : State := { s with
        tlb := s.tlb.filter (fun e => !v.hits e)
        tlbOld := s.tlbOld.filter (fun e => !v.hits e)
        invals := mapFirst due (fun v => { v with pending := v.pending.erase t, removed := gone }) s.invals }
      .next (ctxIds.foldl (fun s c => (s.mod c (fun x =>
        let mine := gone.filter (fun e => e.asid == x.asid)
        { x with hold := x.hold.map (Acc.unpark mine), queue := x.queue.map (Acc.unpark mine) })).logRetry c) s)

/-- An access translated through a removed entry has not performed: it is held, queued or at home, or it has still to translate
again (R261, R389, R390). -/
def State.inFlight (s : State) (e : TlbEnt) : Bool :=
  let waits := fun (a : Acc) => if a.wp then a.stale && a.vaList.any e.holdsVa else a.pas.any e.holdsPa
  ctxIds.any (fun c => (s.ctx c).asid == e.asid && ((s.ctx c).hold.any waits || (s.ctx c).queue.any waits)) ||
    s.homeQ.any (fun h => h.acc.pas.any e.holdsPa)

/-- The lines of removed pages that the stations hold bytes of. -/
def State.linesOf (s : State) (es : List TlbEnt) : List Nat :=
  ((s.stations.flatMap Prod.snd).filter (fun b => es.any (fun e => e.holdsPa b.pa))).map (fun b => lineOf b.pa)

/-- An invalidation comes from the host, or from the hart that moves (R261, R391). -/
def State.posted (s : State) (host : Bool) (v : Inval) : Bool := v.host == host && (host || v.hart == s.hartNo.val)

/-- The invalidations of one origin are complete: applied everywhere, their accesses performed, and the dirty bytes of the removed
pages can go home (R261, R390). -/
def State.invalDone (s : State) (host : Bool) : Bool :=
  let vs := s.invals.filter (s.posted host)
  vs.all (fun v => v.pending.isEmpty && v.removed.all (fun e => !s.inFlight e)) && s.flushable (s.linesOf (vs.flatMap Inval.removed))

/-- They complete: the dirty bytes of the removed pages go home (R390). -/
def State.invalEnd (s : State) (host : Bool) : State :=
  let vs := s.invals.filter (s.posted host)
  { s.flush (s.linesOf (vs.flatMap Inval.removed)) with invals := s.invals.filter (fun v => !s.posted host v) }

/-! ### Migration windows (R389) -/

/-- New physical addresses for the bytes or lanes of a parked write; none where one finds no translation that lets it write. -/
def State.retranslate (s : State) (x : Context) (n : Need) (vas : List Nat) : Option (List Tr) :=
  vas.mapM (fun va => match s.access x.arch x.asid n va with
    | .ok t => some t
    | .error _ => none)

/-- The access with its new addresses. -/
def Acc.moved (a : Acc) (ts : List Tr) (remote : Bool) : Acc :=
  let pas := ts.map Tr.pa
  { a with
    stale := false
    wp := ts.any Tr.wp
    remote
    cells := if a.kind = .store then pas.zip (a.cells.map Prod.snd) else a.cells
    addrs := if a.kind = .store ∨ a.kind = .vamo then a.addrs else if a.kind = .amo then pas else pas.take 1
    lanes := if a.kind = .vamo then (pas.zip a.lanes).map (fun p => (p.1, p.2.2)) else a.lanes }

/-- WRITE_RETRANSLATE (R389): with WP = 0 it performs from then on, otherwise it is parked again; what the walk has found fills the TLBs, so
that a later invalidation finds it (R390). A translation that is missing or
forbids the write ends the launch as the access would have (R386): the access leaves its queue, but for the lanes of a store before the
one that fails, which take effect (R174). -/
def execWriteRetranslate (c : Fin 4) (id : Nat) (s : State) : Out :=
  let x := s.ctx c
  match (x.hold ++ x.queue).find? (fun a => a.id == id && a.stale) with
  | none => .next s
  | some a =>
    let need := if a.kind = .store then Need.write else Need.both
    match s.retranslate x need a.vaList with
    | some ts =>
      let f := fun (b : Acc) => if b.id = id ∧ b.stale then b.moved ts (ts.all (fun t => s.remote t.pa)) else b
      .next ((s.tlbFillAll x.asid a.vaList).mod c (fun x => { x with hold := x.hold.map f, queue := x.queue.map f }))
    | none =>
      let tr := fun (va : Nat) => s.access x.arch x.asid need va
      let code := (a.vaList.findSome? (fun va => match tr va with
        | .ok _ => none
        | .error e => some e)).getD cACCESS_UNMAPPED
      let good := if a.kind = .store then a.vaList.takeWhile (fun va => (tr va).toOption.isSome) else []
      let ts := good.filterMap (fun va => (tr va).toOption)
      let lanes := { a with cells := a.cells.take ts.length, vas := good }.moved ts (ts.all (fun t => s.remote t.pa))
      let f := fun (l : List Acc) => l.flatMap (fun b => if b.id = id ∧ b.stale then (if ts.isEmpty then [] else [lanes]) else [b])
      .next (((s.walkHit c code a.vaList).mod c (fun x => { x with hold := f x.hold, queue := f x.queue })).fatal c code a.bundle 0)

/-! ### The host's invalidate queue (R391, R423) -/

/-- A register of the invalidate queue. -/
def iqReg (o : Nat) : Nat := 0x200000 + o
def State.iqLogn (s : State) : Nat := fld (s.reg (iqReg 8)) 0 4
def State.iqHead (s : State) : Nat := (s.reg (iqReg 0x10)).toNat

/-- The bytes of the slot of a count. -/
def State.iqAddr (s : State) (n : Nat) : Nat := (s.reg (iqReg 0)).toNat + 32 * (n % 2 ^ s.iqLogn)
def State.iqSlot (s : State) (n : Nat) : List Byte := s.memBytes (s.iqAddr n) 32

/-- The command at the head of the queue, as it was read, or as its slot holds it. -/
def State.iqCommand (s : State) : Option (List Byte) :=
  if s.iqLogn = 0 ∨ s.iqHead = (s.reg (iqReg 0x0C)).toNat then none else some (s.iqCmd.getD (s.iqSlot s.iqHead))

/-- The command of a new head is read, once; a word that has changed since the doorbell reads as before or after (R422, R423, log 4). A word
that fails its check is tested (R429). -/
def State.readIq (s : State) : State :=
  if s.iqCmd.isSome ∨ s.iqLogn = 0 ∨ s.iqHead = (s.reg (iqReg 0x0C)).toNat then s
  else
    let now := s.iqSlot s.iqHead
    let old := ((s.iqSlots.find? (fun p => p.1 == s.iqHead)).map Prod.snd).getD now
    let t : State := { s with
      choices := s.choices + 1, iqSlots := s.iqSlots.filter (fun p => p.1 != s.iqHead), iqCmd := some (eitherWord s.choices now old) }
    match s.badAt .l2 (List.range' (s.iqAddr s.iqHead) 32) with
    | some b => t.meets b 0
    | none => t

/-- A command that is not rejected. -/
def iqOk (b : List Byte) : Bool :=
  dn b 0 1 == 1 && decide (dn b 1 1 < 4) && dz b 4 8 && decide (dn b 0x10 8 < 2 ^ 40) && dn b 0x18 8 % 8 == 0

/-- The command is done: DONE is written, then the head advances, with the queue's signal (R391, R423). -/
def State.iqDone (s : State) (b : List Byte) (v : Nat) : State :=
  let cfg := s.reg (iqReg 8)
  let s := (s.memPut (dn b 0x18 8) (leBytes 8 v)).setReg (iqReg 0x10) (BitVec.ofNat 64 ((s.iqHead + 1) % 2 ^ 32))
  State.readIq { s with invalPos := 0, iqCmd := none, msix := if bit cfg 12 then s.msix ++ [fld cfg 13 11] else s.msix }

/-- INVALIDATE (R391): the head command is posted as by HTLBI, and when it would let an HTLBF retire it is done. -/
def execInvalidate (s : State) : Out :=
  match s.iqCommand with
  | none => .next s
  | some b =>
    if s.invalPos = 0 then
      if !iqOk b then .next (s.iqDone b 2)
      else .next { s.post (BitVec.ofNat 56 (dn b 8 8)) (BitVec.ofNat 16 (dn b 2 2)) (dn b 1 1) (dn b 0x10 8) true with invalPos := 1 }
    else if s.invalDone true then .next ((s.invalEnd true).iqDone b 1)
    else .next s

/-! ### The management cores' memory accesses (R385, R406) -/

/-- MANAGEMENT_CORE_ACCESS (R385): a store is performed at home, in DRAM or host memory of a package that the routing table lists;
a load changes nothing here. Registers are written by events of their own; a storage port's queues are outside the model. -/
def execManagementCoreAccess (wr : Bool) (pa : BitVec 56) (bytes : List (BitVec 8)) (s : State) : Out :=
  let g := paRegion pa.toNat
  if wr ∧ (g = 0 ∨ g = 2) ∧ (pa.toNat + bytes.length - 1) / 2 ^ 39 = pa.toNat / 2 ^ 39 ∧ s.routed pa.toNat then
    .next (s.memPut pa.toNat bytes)
  else .next s

end Sys2Proof.Machine
end

