-- ==== Sys2Proof/Machine/Hart.lean ====
section
/-! DEFINITION. The management-core instructions HTLBI and HTLBF (R261) with the RISC-V illegal-instruction exception that they
raise. -/

namespace Sys2Proof.Machine

open Sys2Proof

/-- Register x`i`; x0 reads zero. -/
def Hart.xr (h : Hart) (i : Nat) : W64 := if i = 0 then 0 else h.x.get i

/-- Taking the illegal-instruction exception into machine mode: mepc, mcause 2, mtval the instruction, mstatus MPIE, MIE and MPP, then
the handler. PRESUMED: the RISC-V privileged architecture, without delegation (log 6). -/
def Hart.illegal (h : Hart) (w : W32) : Hart :=
  let m := setFld (setFld (setFld h.mstatus 7 1 (fld h.mstatus 3 1)) 3 1 0) 11 2 h.priv.toNat
  { h with mepc := h.pc, mcause := 2, mtval := w.setWidth 64, mstatus := m, priv := 3, pc := h.mtvec &&& ~~~3, flushing := false }

/-- The instruction word of a management instruction. -/
def mgmtWord (i : Instr) : W32 := nth (encode false i) 0

/-- HTLBI (R261): posted, it returns at once. -/
def execHtlbi (f : RF) (s : State) : Out :=
  let h := s.hart
  let b := h.xr f.rs2.toNat
  if h.priv = 0 ∨ f.rd ≠ 0 ∨ fld b 40 6 ≠ 0 then .next { s with hart := h.illegal (mgmtWord (.htlbi f)) }
  else
    .next { s.post (BitVec.ofNat 56 (h.xr f.rs1.toNat).toNat) (BitVec.ofNat 16 (fld b 48 16)) (fld b 46 2) (fld b 0 40) false with
      hart := { h with pc := h.pc + 4 } }

/-- HTLBF (R261, R390): it retires once the hart's invalidations are complete, and waits at its own address until then. -/
def execHtlbf (f : RF) (s : State) : Out :=
  let h := s.hart
  if h.priv = 0 ∨ f.rd ≠ 0 ∨ f.rs1 ≠ 0 ∨ f.rs2 ≠ 0 then .next { s with hart := h.illegal (mgmtWord (.htlbf f)) }
  else if s.invalDone false then .next { s.invalEnd false with hart := { h with pc := h.pc + 4, flushing := false } }
  else .next { s with hart := { h with flushing := true } }

end Sys2Proof.Machine
end

