-- ==== Sys2Proof/Machine/Multicast.lean ====
section
/-! DEFINITION. Ordered multicast groups (R243, R244, R303, R412 to R418, R424) and the loss of packages and paths (R341, R408).
MCST_STAMP, BLOCK_APPLY, VIEW_CHANGE, PACKAGE_LOSS, FABRIC_PATH_LOSS. -/

namespace Sys2Proof.Machine

open Sys2Proof

/-! ### Groups -/

def State.group (s : State) (g : Nat) : Group := aget {} s.groups g
def State.setGroup (s : State) (g : Nat) (x : Group) : State := { s with groups := aput s.groups g x }

/-- The window of the group at this member. -/
def State.winBase (s : State) (g : Nat) : Nat := dn (s.groupEnt g) 8 8
def State.groupView (s : State) (g : Nat) : Nat := dn (s.groupEnt g) 2 2

/-- The fields of a window's header (R413). -/
def State.winLast (s : State) (g : Nat) : Nat := s.memNat (s.winBase g + 8) 8 % 2 ^ 48

/-- The group as this package holds it. An entry that is not valid, names another window, or an earlier view than the group has had, makes
a new group (R415, log 61). -/
def State.curGroup (s : State) (g : Nat) : Group :=
  let x := s.group g
  if s.groupOk g ∧ x.base = s.winBase g ∧ x.view ≤ s.groupView g then { x with view := s.groupView g }
  else { base := s.winBase g, view := s.groupView g }

/-- The sequencer of the group is on this package. -/
def State.seqHere (s : State) (g : Nat) : Bool := decide (dn (s.groupEnt g) 6 2 % 1024 = s.myPkg)

/-- Package p is a member of the group: by the member list where the sequencer is here, else a free value (R412, log 4). -/
def State.isMember (s : State) (g : Nat) (p : BitVec 10) : Bool :=
  let e := s.groupEnt g
  if s.seqHere g then (List.range (dn e 4 2 + 1)).any (fun i => s.memNat (dn e 0x20 8 + 2 * i) 2 % 1024 == p.toNat)
  else Config.raceAt g p.toNat

/-- A member or the sequencer has been lost, and no new view is in force yet (R418). -/
def State.groupLost (s : State) (g : Nat) : Bool :=
  s.lostPkgs.any (fun p => !(s.curGroup g).gone.contains p && (dn (s.groupEnt g) 6 2 % 1024 == p.toNat || s.isMember g p))

/-- The first MCST of context c for group g, in issue order and timed or not, that has not been stamped: it takes the next number, once it has
started (R243). -/
def State.toStamp (s : State) (c : Fin 4) (g : Nat) : Option Cmd :=
  ((s.ctx c).cmds.find? (fun k => k.eng == .mcast && !k.finished && mcGroup k.desc == g &&
    !(s.group g).subs.any (fun b => !b.ext && b.ctx == c && b.cmd == k.id))).filter Cmd.started

/-- A block takes the group's next number. -/
def State.stampSub (s : State) (g : Nat) (b : McSub) : State :=
  let x := s.curGroup g
  s.setGroup g { x with next := x.next + 1, subs := x.subs ++ [{ b with seq := some x.next }] }

/-- A block that fails is reported to its command with a code: `sem_fail` and two failed items, or the end of the launch (R244). -/
def State.failMcst (s : State) (c : Fin 4) (k : Cmd) (code : Byte) : State :=
  if k.ef.inc = 0 then s.cmdFault c k code
  else
    let s := (s.semFail k.ef.sig k.ef.inc.toNat code).modLaunch (s.ctx c).lid (fun l => { l with
      cmdFail := l.cmdFail + 1, blkFail := l.blkFail + 1 })
    (s.mod c (fun x => { x with cmds := x.cmds.filter (fun j => j.order != k.order) })).settle c

/-- MCST_STAMP (R243, R303, R414, R415): the sequencer's next number goes to a block of another package, or to the oldest block of a
context of this core, any of them, whose bytes are read now. After 2^48 − 1 blocks are refused; the entry on the sequencer's package must be
valid and name the sequencer, which is free where that is another package (R414, log 4); nothing is stamped while a loss is not settled
(R418). -/
def execMcstStamp (g : BitVec 12) (ext : Option McBlock) (s : State) : Out :=
  let n := g.toNat
  let x := s.curGroup n
  match ext with
  | some b => if !s.groupOk n ∨ x.next = 0 ∨ s.groupLost n ∨ (s.seqHere n ∧ !s.groupFlag n 1) then .next s else .next (s.stampSub n { ext := true, ctx := 0, cmd := 0, blk := b })
  | none =>
    let cs := ctxIds.filterMap (fun c => (s.toStamp c n).map (fun k => (c, k)))
    match cs[Config.pick s.choices % cs.length]? with
    | none => .next s
    | some (c, k) =>
      if s.groupLost n then .next s else
      let s : State := { s with choices := s.choices + 1 }
      if x.next = 0 then .next (s.cmdFault c k cILLEGAL_OPERAND)
      else if !s.groupOk n ∨ (if s.seqHere n then !s.groupFlag n 1 else Config.raceAt s.choices n) then .next (s.cmdFault c k cACCESS_PROT)
      else if s.spFenced (byteAddrs (spKey s.myX (mcSrc k.desc)) (mcLen k.desc)) then .next s
      else match s.badAt .sp (byteAddrs (spKey s.myX (mcSrc k.desc)) (mcLen k.desc)) with
        | some b => .next ((s.meets b (s.ctx c).lid).failMcst c k cUNCORRECTABLE_MEM)
        | none => .next (s.stampSub n { ext := false, ctx := c, cmd := k.id, blk := {
          pkg := BitVec.ofNat 10 s.myPkg, offs := BitVec.ofNat 64 (mcOffs k.desc), tag := BitVec.ofNat 64 (mcTag k.desc),
          notice := mcFlag k.desc 0, bytes := s.spBytes (spKey s.myX (mcSrc k.desc)) (mcLen k.desc) } })

/-! ### Notices (R416, R417) -/

/-- The 16 lanes of a notice. -/
def noticeLanes (g view : Nat) (seq : BitVec 48) (b : McBlock) : List W32 :=
  let w := fun (v i : Nat) => BitVec.ofNat 32 (v / 2 ^ (32 * i))
  [w seq.toNat 0, w seq.toNat 1, w b.tag.toNat 0, w b.tag.toNat 1, w b.offs.toNat 0, w b.offs.toNat 1, BitVec.ofNat 32 b.bytes.length,
   BitVec.ofNat 32 (g % 4096 + b.pkg.toNat * 2 ^ 12), BitVec.ofNat 32 (view % 65536)] ++ List.replicate 7 0

/-- The save area of a context that is away. -/
def State.awaySave (s : State) (x : Context) : Nat :=
  (match s.launchOf x.lid with
  | some l => ldSaveA l.desc
  | none => 0) + 65536 * fld x.ctxid 0 16

/-- The entries in the notice ring of a context that is away; a ring that cannot be read counts as full. -/
def State.ringLen (s : State) (x : Context) : Nat :=
  match s.vaRead x.arch x.asid (s.awaySave x + 6) 1 with
  | .ok b => dn b 0 1
  | .error _ => 16

/-- The failing word that the read of the ring's count meets. -/
def State.ringWord (s : State) (x : Context) : Option BadWord := s.readWord x.arch x.asid .read (s.awaySave x + 6) 1

/-- A notice goes to the ring in the save area; with 16 entries FLAGS[1] is set (R373). A count whose word fails its check ends the launch
(R428). -/
def State.ringPush (s : State) (x : Context) (ws : List W32) : State :=
  let a := s.awaySave x
  if let some b := s.ringWord x then
    (s.meets b x.lid).endLaunch x.lid { code := cUNCORRECTABLE_MEM, coord := x.coord28, bundle := x.arch.pc, cmd := 0, gtb := s.gtb }
  else
  let n := s.ringLen x
  let put := fun (s : State) (o : Nat) (bs : List Byte) => match s.vaWrite x.arch x.asid (a + o) bs with
    | .ok s => s
    | .error _ => s
  let s := put (put s (0x1600 + 64 * n) (ws.flatMap (fun w => leBytes 4 w.toNat))) 6 (leBytes 1 (n + 1))
  if n + 1 = 16 then put s 3 [3] else s

/-- Where a group's notices go on this core: a context in its slot, or one that is away. -/
inductive NoticeTo where
  | slot (c : Fin 4)
  | away (x : Context)
  /-- The launch is on the package; the context is on another core, or has ended. -/
  | other
  | drop
  deriving DecidableEq, Repr

def State.noticeTo (s : State) (g : Nat) : NoticeTo :=
  let e := s.groupEnt g
  let lid := BitVec.ofNat 32 (dn e 0x18 4)
  let mine := fun (x : Context) => x.lid == lid && fld x.ctxid 0 16 == dn e 0x14 2
  match ctxIds.find? (fun c => mine (s.ctx c) && (s.ctx c).mode.runs) with
  | some c => .slot c
  | none => match s.away.find? (fun p => mine p.2) with
    | some p => .away p.2
    | none => if s.launches.any (fun l => l.lid == lid) then .other else .drop

/-- The member defers the group's next block (R373, R417). -/
def State.deferred (s : State) (g : Nat) : Bool :=
  match s.noticeTo g with
  | .slot c => decide (16 ≤ (s.ctx c).qLen 3)
  | .away x => (decide (16 ≤ s.ringLen x) && (s.ringWord x).isNone) || s.vaParks x.arch x.asid (s.awaySave x) 0x1A00
  | _ => false

/-- The notice is pushed, or dropped and counted in NDROP. -/
def State.notify (s : State) (g : Nat) (ws : List W32) : State :=
  match s.noticeTo g with
  | .slot c => s.mod c (fun x => x.push 3 { e := { mask := 0xFFFF, lanes := ws }, vis := true, due := 0, tok := 0, born := 0 })
  | .away x => s.ringPush x ws
  | .other => s
  | .drop => s.memPut (s.winBase g + 0x18) (leBytes 4 (s.memNat (s.winBase g + 0x18) 4 + 1))

/-! ### Applying a block (R303, R416) -/

/-- The issuer learns that its block has been applied; the number goes to SEQA first (R243). -/
def State.ackSub (s : State) (b : McSub) : State :=
  if b.ext then s
  else match (s.ctx b.ctx).cmds.find? (fun k => k.eng == .mcast && k.id == b.cmd && !k.finished) with
    | none => s
    | some k =>
      let s := if mcFlag k.desc 1 then
          s.spPut (spKey s.myX (mcSeqa k.desc)) (leBytes 8 ((b.seq.map (fun q => q.toNat)).getD 0))
        else s
      s.modCmd b.ctx k (fun k => { k with finished := true })

/-- Changes the group's record of a stamped block. -/
def State.modSub (s : State) (g : Nat) (b : McSub) (f : McSub → McSub) : State :=
  let x := s.curGroup g
  s.setGroup g { x with subs := mapIf (fun c => c.seq == b.seq) f x.subs }

/-- The block is done here. -/
def State.dropSub (s : State) (g : Nat) (b : McSub) : State :=
  let x := s.curGroup g
  s.setGroup g { x with subs := x.subs.filter (fun c => c.seq != b.seq) }

/-- The notice of another group's block that has been applied has still to be pushed to the same context: it comes first (R424). -/
def State.noticeAhead (s : State) (g : Nat) : Bool :=
  s.groups.any (fun p => p.1 != g && p.2.subs.any McSub.counted && s.noticeTo p.1 == s.noticeTo g)

/-- The next step of the group's lowest block: a 64-byte line; after the last one the header line, of the view in which the block is applied
(R413, R418), with the acknowledgement; then the notice (R303, R416, R424). -/
def State.applyStep (s : State) (g : Nat) (b : McSub) : State :=
  let w := s.winBase g
  let seq := b.seq.getD 0
  if b.counted then
    if s.deferred g then s else (s.notify g (noticeLanes g (s.groupView g) seq b.blk)).dropSub g b
  else if b.lines = 0 ∧ s.deferred g then s
  else if 64 * b.lines < b.blk.bytes.length then
    (s.memPut (w + 64 + b.blk.offs.toNat + 64 * b.lines) ((b.blk.bytes.drop (64 * b.lines)).take 64)).modSub g b (fun b => { b with lines := b.lines + 1 })
  else if b.blk.notice ∧ s.noticeAhead g then s
  else
    let s := (s.memPut w (leBytes 8 (s.memNat w 8 + 1) ++ leBytes 8 seq.toNat ++ leBytes 2 (s.groupView g))).ackSub b
    if b.blk.notice then s.modSub g b (fun b => { b with counted := true }) else s.dropSub g b

/-- The stamped block with the lowest number. -/
def Group.first (x : Group) : Option McSub := (sortBy (fun b => (b.seq.map (fun q => q.toNat)).getD (2 ^ 48)) x.subs).head?

/-- What a view change skips is skipped, once everything before it has been applied (R418). -/
def State.skipStep (s : State) (g : Nat) (q : BitVec 48) : State :=
  let t := if s.winLast g < q.toNat then s.memPut (s.winBase g + 8) (leBytes 8 q.toNat ++ leBytes 2 (s.groupView g)) else s
  t.setGroup g { s.curGroup g with skipTo := none }

/-- What the next step of a group writes at home, or reads there, has to wait (R429, R458): the line of the block, or the header. -/
def State.blockHeld (s : State) (g : Nat) : Bool :=
  let w := s.winBase g
  s.homeHeld (byteAddrs w 32) || (s.curGroup g).first.any (fun b =>
    decide (64 * b.lines < b.blk.bytes.length) && s.homeHeld (byteAddrs (w + 64 + b.blk.offs.toNat + 64 * b.lines) 64))

/-- BLOCK_APPLY (R303, R416, R418): one step towards the next number of the group. -/
def execBlockApply (g : BitVec 12) (s : State) : Out :=
  let n := g.toNat
  let x := s.curGroup n
  if !s.groupFlag n 2 ∨ s.groupLost n ∨ s.blockHeld n then .next s
  else match x.first.filter (fun b => b.seq.isSome), x.skipTo with
    | some b, some q => .next (if b.seq.getD 0 ≤ q then s.applyStep n b else s.skipStep n q)
    | some b, none => .next (s.applyStep n b)
    | none, some q => .next (s.skipStep n q)
    | none, none => .next s

/-! ### View changes (R244, R418) -/

/-- The started MCSTs of this core to group g that have not been stamped are noted: they fail at the view change, and the ones that start
later wait for the new view (R418). -/
def State.noteSubmitted (s : State) (g : Nat) : State :=
  let x := s.curGroup g
  let un := ctxIds.flatMap (fun c => ((s.ctx c).cmds.filter (fun k => k.eng == .mcast && k.started && !k.finished && mcGroup k.desc == g &&
    !x.subs.any (fun b => !b.ext && b.ctx == c && b.cmd == k.id))).map (fun k =>
      ({ ext := false, ctx := c, cmd := k.id, blk := { pkg := BitVec.ofNat 10 s.myPkg, offs := 0, tag := 0, notice := false, bytes := [] } } : McSub)))
  s.setGroup g { x with subs := x.subs ++ un }

/-- The member holds a stamped block in full: one of another package that has come, one that the sequencer here has stamped, or a block of its
own that some survivor holds; of such a block the member may have no more than the stamp (R418). -/
def State.holdsFull (s : State) (g : Nat) (v : ViewInfo) (b : McSub) : Bool :=
  b.seq.isSome && (b.ext || s.seqHere g || b.counted || b.seq.any v.held.contains)

/-- The highest number that this member has applied or skipped, or that one of the blocks has. -/
def State.localTop (s : State) (g : Nat) (bs : List McSub) : Nat :=
  bs.foldl (fun n b => max n ((b.seq.map (fun q => q.toNat)).getD 0)) (s.winLast g)

/-- The blocks that the new view has still to apply here: those held here, and those that some survivor holds. -/
def State.viewBlocks (s : State) (g c : Nat) (v : ViewInfo) : List McSub :=
  let mine := (s.curGroup g).subs.filter (s.holdsFull g v)
  mine ++ (v.blocks.filter (fun p => decide (p.1.toNat ≤ c) && v.held.contains p.1 && decide (s.winLast g < p.1.toNat) &&
    !mine.any (fun b => b.seq == some p.1))).map (fun p => { ext := true, ctx := 0, cmd := 0, blk := p.2, seq := some p.1 })

/-- The group entry of the new view: the sequencer, VIEW + 1 and the members, with their list where the sequencer is here (R412, R418). -/
def State.newView (s : State) (g : Nat) (v : ViewInfo) : State :=
  let a := (s.reg regGRPBASE).toNat + 64 * g
  let e := s.groupEnt g
  let s := if v.seqHere then (s.memPut (a + 0x20) (leBytes 8 v.mlist.toNat)).memPut v.mlist.toNat (v.members.flatMap (fun p => leBytes 2 p.toNat)) else s
  s.memPut a ([BitVec.ofNat 8 (nfld (dn e 0 1) 0 1 + (if v.seqHere then 2 else 0) + nfld (dn e 0 1) 2 1 * 4), 0] ++
    leBytes 2 (dn e 2 2 + 1) ++ leBytes 2 v.nmemb.toNat ++ leBytes 2 v.seqPkg.toNat)

/-- VIEW_CHANGE (R418): blocks that some survivor holds are then applied, the others skipped, the numbers go on at N₀; what had been submitted
and not stamped fails, and so does a block of this member that is skipped. C is at least what this member has applied or holds in full, S
what it has stamps of. -/
def execViewChange (g : BitVec 12) (v : ViewInfo) (s : State) : Out :=
  let n := g.toNat
  if !s.groupOk n then .next s
  else
    let s := if s.groupLost n then s else s.noteSubmitted n
    let x := s.curGroup n
    let c := max v.c.toNat (s.localTop n (x.subs.filter (s.holdsFull n v)))
    let top := max (max c v.s.toNat) (s.localTop n x.subs)
    let dead := (x.subs.filter (fun b => !b.ext && !s.holdsFull n v b)).filterMap (fun b =>
      ((s.ctx b.ctx).cmds.find? (fun k => k.eng == .mcast && k.id == b.cmd && !k.finished)).map (fun k => (b.ctx, k)))
    let y : Group := { next := BitVec.ofNat 48 (top + 1), subs := if s.groupFlag n 2 then s.viewBlocks n c v else [], base := x.base, view := x.view + 1
                       skipTo := some (BitVec.ofNat 48 top), gone := s.lostPkgs }
    .next (dead.foldl (fun s p => s.failMcst p.1 p.2 cMCST_VIEW_CHANGE) ((s.setGroup n y).newView n v))

/-! ### Loss of a package or a path (R341, R408) -/

/-- The COLLs of every context that wait on package p end their launches (R341). -/
def State.losePeers (s : State) (p : BitVec 10) : State :=
  let s := ctxIds.foldl (fun s c => match (s.ctx c).cmds.find? (fun k => k.waitsOn p) with
    | some k => s.cmdFault c k cCOLL_PEER_LOST
    | none => s) s
  s.away.foldl (fun s q => match q.2.cmds.find? (fun k => k.waitsOn p) with
    | some k => s.endLaunch q.2.lid { code := cCOLL_PEER_LOST, coord := q.2.coord28, bundle := 0, cmd := cmdIdent k.op k.id, gtb := s.gtb }
    | none => s) s

/-- FABRIC_PATH_LOSS (R341): COLLs that begin later and wait on the package end as well. -/
def execFabricPathLoss (p : BitVec 10) (s : State) : Out := .next { s.losePeers p with lostPaths := p :: s.lostPaths }

/-- The next memory address of a started command, where it has one. -/
def Cmd.nextVas (k : Cmd) : List Nat :=
  let at_ := fun (a : Int) => (a % (2 ^ 64 : Int)).toNat
  let o := cpOffs k.desc k.pos
  if k.op = 1 then
    (if cpFlag k.desc 0 then [] else [at_ (dn k.desc 0 8 + o.1)]) ++ (if cpFlag k.desc 1 then [] else [at_ (dn k.desc 8 8 + o.2)])
  else if k.op = 2 then [at_ (dn k.desc 0 8 + o.1)]
  else if k.op = 8 ∨ k.op = 9 then (if ldSp k.desc then [] else [ldSrc k.desc + (if k.op = 8 then 8 else 4) * k.pos])
  else if k.eng = .sketch then
    skDst k.desc :: k.todo.flatMap (fun i => (k.heads.map (fun h => h.rowbase + 4 * i)))
  else []

/-- A command of context c has an element outstanding towards package p. -/
def State.elemTo (s : State) (c : Fin 4) (p : BitVec 10) (k : Cmd) : Bool :=
  let x := s.ctx c
  k.started && (!k.finished || s.satDue c k) && k.nextVas.any (fun va => match s.translate x.arch x.asid va with
    | some t => paPkg t.pa == p.toNat
    | none => false)

/-- An access lies on a package. -/
def Acc.to (a : Acc) (p : BitVec 10) : Bool := a.pas.any (fun b => paPkg b == p.toNat)

/-- Context c has an access or a command element outstanding towards package p: the fault names its bundle or its command. -/
def State.loseCtx (s : State) (p : BitVec 10) (c : Fin 4) : State :=
  let x := s.ctx c
  match (x.queue ++ (s.homeQ.filter (fun h => h.ctx == c)).map HomeOp.acc).find? (fun a => decide (a.id < satId 0) && a.to p) with
  | some a => s.fatal c cUNCORRECTABLE_MEM a.bundle 0
  | none => match x.cmds.find? (s.elemTo c p) with
    | some k => s.cmdFault c k cUNCORRECTABLE_MEM
    | none => s

/-- PACKAGE_LOSS (R408, R418): accesses towards the package are lost with it, groups of which it was a member or the sequencer stop; a group
that has stopped already holds what has started since for the new view. -/
def execPackageLoss (p : BitVec 10) (s : State) : Out :=
  if p.toNat = s.myPkg then .next s
  else
    let was := s.groupLost
    let s : State := { s with lostPkgs := p :: s.lostPkgs, routes := s.routes + 1 }
    let gs := sortedSet (ctxIds.flatMap (fun c => ((s.ctx c).cmds.filter (fun k => k.eng == .mcast && k.started && !k.finished)).map (fun k => mcGroup k.desc)))
    let s := gs.foldl (fun s g => if s.groupLost g && !was g then s.noteSubmitted g else s) s
    let s := s.losePeers p
    let s := ctxIds.foldl (fun s c => s.loseCtx p c) s
    let s := ctxIds.foldl (fun s c => s.mod c (fun x => { x with queue := x.queue.filter (fun a => !a.to p) })) s
    .next { s with homeQ := s.homeQ.filter (fun h => !h.acc.to p) }

end Sys2Proof.Machine
end

