-- ==== Sys2Proof/Machine/SelfTest.lean ====
section
/-! DEFINITION. Detected faults, targeted self-tests, spares and the error log (R426 to R434). SELF_TEST, SELF_TEST_RESULT, PARITY_TRAP,
WHOLE_CORE_SELF_TEST, LINK_RETRY. -/

namespace Sys2Proof.Machine

open Sys2Proof

/-! ### The error log (R433) -/

/-- Appends a 32-byte record to the error ring; without a ring or with a full one it is dropped and counted (R407, R433). -/
def State.errAppend (s : State) (rec_ : List Byte) : State :=
  let base := s.reg regERRLOG
  let tail := (s.reg regERRTAIL).toNat
  if base = 0 ∨ fld (s.reg regERRTAIL - s.reg regERRHEAD) 0 32 = 1024 then
    s.setReg regERRDROP (BitVec.ofNat 64 (min ((s.reg regERRDROP).toNat + 1) (2 ^ 32 - 1)))
  else (s.memPut (base.toNat + 32 * (tail % 1024)) rec_).setReg regERRTAIL (BitVec.ofNat 64 ((tail + 1) % 2 ^ 32))

/-- KIND of a record, from the cause of the test. -/
def causeCode : TestCause → Nat
  | .sramCorrected => 1
  | .sramUncorrectable _ _ => 2
  | .dramCorrected => 3
  | .dramUncorrectable _ _ => 4
  | .linkRetried => 5
  | .checksum _ => 6
  | .parity => 7

/-- UTYPE of a record. -/
def unitCode : UnitKind → Nat
  | .arrayRow => 0
  | .arrayCol => 1
  | .spBank => 2
  | .l1 => 3
  | .l2Slice => 4
  | .lane => 5
  | .regBank => 6
  | .linkLane => 7
  | .dramRow => 8

/-- LOC of a unit: the core, its die, or its stack of DRAM. -/
def State.unitLoc (s : State) (u : UnitRef) : Nat :=
  match u.kind with
  | .l2Slice => s.myPkg * 2 ^ 18 + u.die.toNat * 2 ^ 8
  | .linkLane => s.myPkg * 2 ^ 18 + u.die.toNat * 2 ^ 8
  | .dramRow => stackOf u.bank.toNat
  | _ => s.myPkg * 2 ^ 18 + fld s.syscoord 0 10

/-- The record of one error whose test has ended (R433). -/
def State.testRecord (s : State) (t : Test) (result spare : Nat) : List Byte :=
  leBytes 1 (causeCode t.cause) ++ leBytes 1 result ++ leBytes 1 (unitCode t.u.kind) ++ leBytes 1 0 ++ leBytes 4 (s.unitLoc t.u) ++
    leBytes 2 t.u.index.toNat ++ leBytes 1 spare ++ leBytes 1 0 ++ leBytes 4 t.lid.toNat ++ leBytes 8 t.gtb.toNat ++
    leBytes 4 t.count ++ leBytes 4 0

/-! ### The start of a test (R429, R431, R432) -/

/-- Array rows and columns are units of one array. -/
def isArray : UnitKind → Bool
  | .arrayRow => true
  | .arrayCol => true
  | _ => false

/-- A fault of these units traps every context of the core. -/
def trapsCore : UnitKind → Bool
  | .lane => true
  | .regBank => true
  | _ => false

/-- The launch that uses a unit: the matrix call's for the array, otherwise the issuing context's; 0 where there is none. -/
def State.unitLid (s : State) (k : UnitKind) : BitVec 32 :=
  match isArray k, s.run with
  | true, some r => (s.ctx r.ctx).lid
  | true, none => 0
  | false, _ => if k == .linkLane || k == .dramRow || s.me.mode == .free then 0 else s.me.lid

/-- The launch whose access has met an error (R433). -/
def State.readerLid (s : State) : Reader → Option (BitVec 32)
  | .nobody => none
  | .access c _ => some (s.ctx c).lid
  | .command c _ => some (s.ctx c).lid
  | .call => s.run.map (fun r => (s.ctx r.ctx).lid)
  | .merge c _ => some (s.ctx c).lid
  | .device c => some (s.ctx c).lid

/-- Who has met the error, and the word. -/
def errorOf : TestCause → Reader × Option WordRef
  | .sramUncorrectable r w => (r, w)
  | .dramUncorrectable r w => (r, w)
  | _ => (.nobody, none)

/-- A test of the unit starts, or the error joins the test that is under way (R429, R431). Its launch is that of the access which has met the
error, where that is known. -/
def State.startTest (s : State) (u : UnitRef) (cause : TestCause) (count : Nat) (whole : Bool := false) : State :=
  { s with tests := s.tests ++ [{ u, cause, lid := (s.readerLid (errorOf cause).1).getD (s.unitLid u.kind), gtb := s.gtb, count, whole }] }

/-- A corrected error or a link retry: the fourth of a unit within 2^20 GTB counts makes a burst, which starts a test; during a test it joins
it (R426, R429, R431). -/
def State.noteCorrected (s : State) (u : UnitRef) (cause : TestCause) : State :=
  let recent := s.corrected.filter (fun p => p.1 == u && decide ((s.gtb - p.2).toNat < 2 ^ 20))
  let others := s.corrected.filter (fun p => p.1 != u)
  if s.tests.any (fun t => t.u == u) then s.startTest u cause 1
  else if 3 ≤ recent.length then State.startTest { s with corrected := others } u cause 4
  else { s with corrected := others ++ recent ++ [(u, s.gtb)] }

/-- The unit is under test now: of the units of an array one at a time, but for a test of the whole array (R431). -/
def State.inTest (s : State) (u : UnitRef) : Bool :=
  s.tests.any (fun t => t.u == u) && (!isArray u.kind || s.tests.any (fun t => t.u == u && t.whole) ||
    (s.tests.find? (fun t => isArray t.u.kind)).any (fun t => t.u == u))

/-- The unit is a store of R429's table that check bits of R426 protect word by word. -/
def isSram : UnitKind → Bool
  | .spBank => true
  | .l1 => true
  | .l2Slice => true
  | _ => false

/-- A word may lie in a unit. The accumulators, the microprogram and epilogue stores and the scale cache are no unit of R429's: an error in them
tests a row or column of the array, whose stores they are (DESIGN CHOICE, log 43). -/
def wordWithin (p : Space) (k : UnitKind) : Bool :=
  match p with
  | .sp => k == .spBank
  | .l1 => k == .l1
  | .l2 => k == .l2Slice
  | .dram => k == .dramRow
  | _ => isArray k

/-- A unit can have met an error of this kind (R426). -/
def causeFits (cause : TestCause) (k : UnitKind) : Bool :=
  match cause with
  | .sramCorrected => isSram k
  | .sramUncorrectable _ w => match w with
    | some w => w.space != .dram && wordWithin w.space k
    | none => isSram k
  | .dramCorrected => k == .dramRow
  | .dramUncorrectable _ w => k == .dramRow && (match w with
    | some w => w.space == .dram
    | none => true)
  | .linkRetried => k == .linkLane
  | .checksum _ => isArray k
  | .parity => trapsCore k

/-- Every live context of the core takes a recoverable trap and waits (R429). -/
def State.fenceCore (s : State) : State :=
  ctxIds.foldl (fun s c => if (s.ctx c).mode = .live then (s.trap c).mod c (fun x =>
    if x.wait = .sstepHasp then x else { x with wait := .fenced }) else s) s

/-- A word keeps its failing check bits (R428). -/
def State.keepBad (s : State) (u : UnitRef) (w : Option WordRef) : State :=
  match w with
  | none => s
  | some w => { s with bad := badWord w u :: s.bad.filter (fun b => b != badWord w u) }

/-- An access of context c on its way: in its queue, at its home slice or at its bank. -/
def State.accOf (s : State) (c : Fin 4) (id : Nat) : Option Acc :=
  ((s.ctx c).queue ++ ((s.homeQ.filter (fun h => h.ctx == c)).map HomeOp.acc ++ (s.bankQ.filter (fun r => r.ctx == c)).map BankReq.acc)).find?
    (fun a => a.id == id)

/-- A store that is not performed (R428): it leaves the queues, and its dirty bytes the stations. -/
def State.dropStore (s : State) (c : Fin 4) (id : Nat) : State :=
  let keep := fun (b : StByte) => !(b.dirty && b.ctx == c && b.id == id)
  { s with
    homeQ := s.homeQ.filter (fun h => !(h.ctx == c && h.acc.id == id))
    bankQ := s.bankQ.filter (fun r => !(r.ctx == c && r.acc.id == id))
    stCore := s.stCore.filter keep
    stCluster := s.stCluster.filter keep
    stDie := s.stDie.filter keep }.mod c (fun x => { x with queue := x.queue.filter (fun a => a.id != id) })

/-- The source read of an MCST fails: its block is never stamped, and it fails under R244 (R428). -/
def State.neverStamped (s : State) (c : Fin 4) (k : Cmd) : State :=
  if stampedCmd s c k then s else s.failMcst c k cUNCORRECTABLE_MEM

/-- What becomes of the reader of a word whose check fails (R428). -/
def State.uncorrectable (s : State) (w : Reader) : State :=
  match w with
  | .nobody => s
  | .access c id => match s.accOf c id with
    | some a => s.fatal c cUNCORRECTABLE_MEM a.bundle 0
    | none => s
  | .command c id => match (s.ctx c).cmd id with
    | some k => if !k.started ∨ k.finished then s else if k.eng = .mcast then s.neverStamped c k else s.cmdFault c k cUNCORRECTABLE_MEM
    | none => s
  | .call => match s.run with
    | some r => if r.ended then s else s.callFault r cUNCORRECTABLE_MEM
    | none => s
  | .merge c id => if (s.ctx c).mode = .free then s else (s.dropStore c id).fatal c cUNCORRECTABLE_MEM 0 0
  | .device c => if (s.ctx c).mode = .free then s else s.fatal c cUNCORRECTABLE_MEM (s.ctx c).arch.pc 0

/-- The scratchpad rows of a source: offset and length of each of `k` rows of `n` elements (R203, R207, R209). -/
def Src.spans (src : Src) (base : W64) (n k : Nat) : List (Nat × Nat) :=
  (List.range k).map (fun i => ((base + BitVec.ofNat 64 (i * src.stride)).toNat, rowBytes src.fmt.toNat n))

/-- What a RUN or OPRK of the running call reads of scratchpad (R207, R209); none for another word. -/
def CallRun.spans (r : CallRun) : Instr → Option (List (Nat × Nat))
  | .runW f => some (match r.aSource with
    | some (.sp a) =>
      let k := (r.bank (nfld f.f0.toNat 3 1)).rows.length
      a.spans (r.pr a.preg + immP f.imm) (if f.f0.getLsbD 4 then 2 * k else k) (f.f4.toNat + 1)
    | _ => [])
  | .oprk f => some (match r.aSource, r.wsrc with
    | some (.sp a), some w =>
      let n := f.f3.toNat + 256 * nfld f.f4.toNat 0 1 + 1
      a.spans (r.pr a.preg) 128 n ++ w.spans (r.pr w.preg) 128 n
    | _, _ => [])
  | _ => none

/-- The tiles that rows of a word's sources lie in, where each of them can be read now (R197). -/
def State.spanTiles (s : State) (c : Fin 4) : List (Nat × Nat) → Option (List Nat)
  | [] => some []
  | (off, n) :: t => match s.readReady c off n, s.coverAll (s.ownTile c) (byteAddrs (spKey s.myX off) n), s.spanTiles c t with
    | .got _, some ks, some rest => some (ks ++ rest)
    | _, _, _ => none

/-- The word that a checksum mismatch stops, a RUN or OPRK of the running call whose inputs have come, with the tiles that it has read. -/
def State.checksumWord (s : State) : Option (CallRun × List Nat) :=
  match s.run with
  | none => none
  | some r =>
    if r.ended ∨ r.epi.isSome then none
    else match s.nextOf r with
      | .ok i => (r.spans i).bind (fun l => (s.spanTiles r.ctx l).map (fun ks => (r, ks)))
      | .error _ => none

/-- A checksum mismatch of the running word (R213, R431, R432): the rows and columns that its checksums name are tested, one after
another, or with the whole array where they are more than 4 of a kind; then the word is executed again, its inputs claimed until then, or its
call faults the second time. -/
def State.checksumMiss (s : State) (u : UnitRef) (others : List UnitRef) (r : CallRun) (tiles : List Nat) : State :=
  let us := (u :: others).eraseDups
  let whole := decide (4 < (us.filter (fun v => v.kind == .arrayRow)).length) || decide (4 < (us.filter (fun v => v.kind == .arrayCol)).length)
  let s := us.foldl (fun s v => s.startTest v (.checksum others) 1 whole) s
  if r.mismatch = 0 then { s with run := some { r with mismatch := 1, reexec := r.reexec + 1, claimed := tiles } }
  else s.callFault r cCHECKSUM_PERSISTENT

/-- Some live context of the core is in the middle of a tick. -/
def State.ticking (s : State) : Bool := ctxIds.any (fun c => decide ((s.ctx c).mode = .live) && !(s.ctx c).wait.idle)

/-- SELF_TEST (R213, R428, R429, R431, R432): a corrected error counts towards a burst; an uncorrectable word keeps failing, and its reader
fails; a checksum mismatch comes when its word has been executed, after the test of an earlier one; a fault of a lane or register bank traps
the core's contexts, once none of them is landing. -/
def execSelfTest (u : UnitRef) (cause : TestCause) (s : State) : Out :=
  if !causeFits cause u.kind then .next s
  else match cause with
    | .checksum others =>
      match s.checksumWord with
      | none => .next s
      | some (r, ks) => if s.arrayFenced ∨ !others.all (fun v => isArray v.kind) then .next s else .next (s.checksumMiss u others r ks)
    | .sramCorrected => .next (s.noteCorrected u cause)
    | .dramCorrected => .next (s.noteCorrected u cause)
    | .linkRetried => .next (s.noteCorrected u cause)
    | _ =>
      if trapsCore u.kind then (if s.ticking then .next s else .next (s.startTest u cause 1).fenceCore)
      else .next (((s.startTest u cause 1).keepBad u (errorOf cause).2).uncorrectable (errorOf cause).1)

/-- PARITY_TRAP (R320, R427, R433): the shadow copy is checked first, and the launch ends where it fails as well, naming the checkpoint's
bundle; otherwise the context returns to its last checkpoint. A self-test of the register bank traps and holds the core's contexts; without one
the error is logged alone. -/
def execParityTrap (c : Fin 4) (p : ParityEvent) (s : State) : Out :=
  let x := s.ctx c
  let t : Test := { u := { kind := .regBank, index := p.bank.getD 0 }, cause := .parity, lid := x.lid, gtb := s.gtb, count := 1 }
  if !x.mode.runs ∨ s.ticking then .next s
  else
    let noted := match p.bank with
      | none => s.errAppend (s.testRecord t 0 0xFF)
      | some _ => { s with tests := s.tests ++ [t] }
    let checked := if p.shadowBad then noted.fatal c cUNCORRECTABLE_MEM x.shadow.pc 0
      else if p.bank.isSome then noted
      else if x.mode = .live then noted.trap c
      else noted.trapRestore c
    .next (if p.bank.isSome then checked.fenceCore else checked)

/-! ### The end of a test (R430, R434) -/

/-- Units of the same pool of spares: those of the kind, of one slice for its sub-banks, of one bank for rows of DRAM. -/
def sameSpares (u v : UnitRef) : Bool :=
  u.kind == v.kind && (u.kind != .l2Slice || (u.index == v.index && u.die == v.die)) && (u.kind != .dramRow || u.bank == v.bank)

/-- The spares that a unit's pool has (R429). -/
def sparesOf : UnitKind → Nat
  | .arrayRow => 2
  | .arrayCol => 2
  | .spBank => 2
  | .l2Slice => 4
  | .dramRow => 32
  | _ => 0

/-- RESULT and SPARE of a test, and what it changes: a spare is assigned, or the core or the port is retired, or the page of the row is
reported to the resident kernel. -/
def State.testOutcome (s : State) (u : UnitRef) (pass : Bool) : State × Nat × Nat :=
  if pass then (s, 1, 0xFF)
  else
    let n := (s.spares.filter (fun p => sameSpares p.1 u)).length
    if n < sparesOf u.kind then ({ s with spares := s.spares ++ [(u, n)] }, 2, n)
    else
      let s : State := { s with retiredUnits := u :: s.retiredUnits }
      (match u.kind with
        | .linkLane => s
        | .dramRow => { s with reported := s.reported ++ [Config.rowPage u.bank.toNat u.index.toNat] }
        | _ => { s with sched := { s.sched with retired := true } }, 3, 0xFF)

/-- Waits on tile states have not counted while the fence lasted that began at `from_`, but for what another fence has already left out
(R429). -/
def State.fenceTime (s : State) (from_ : W64) : State :=
  let f := fun (o : Option W64) => o.map (fun g => BitVec.ofNat 64 (g.toNat + (s.stallClock - max g.toNat from_.toNat)))
  let s := ctxIds.foldl (fun s c => s.mod c (fun x => { x with
    stallSince := f x.stallSince, cmds := x.cmds.map (fun k => { k with since := f k.since }) })) s
  { s with run := s.run.map (fun r => { r with stallSince := f r.stallSince }) }

/-- SELF_TEST_RESULT (R430, R431, R433): every error of the test is logged with its result, and the fence lifts. A test of the whole array has
results for its other rows and columns too, whose errors it has none of to log. -/
def execSelfTestResult (u : UnitRef) (pass : Bool) (s : State) : Out :=
  let ts := s.tests.filter (fun t => t.u == u)
  match (if s.inTest u then ts else []) with
  | [] => if isArray u.kind && ts.isEmpty && s.tests.any Test.whole then .next (s.testOutcome u pass).1 else .next s
  | t :: _ =>
    let r := s.testOutcome u pass
    let s := ts.foldl (fun s t => s.errAppend (s.testRecord t r.2.1 r.2.2)) r.1
    let s := { s with tests := s.tests.filter (fun t => t.u != u) }.fenceTime t.gtb
    .next (if s.tests.any (fun t => trapsCore t.u.kind) then s
      else ctxIds.foldl (fun s c => if (s.ctx c).wait = .fenced then s.mod c (fun x => { x with wait := .run }) else s) s)

/-- WHOLE_CORE_SELF_TEST (R434): a pass clears the retirement of the core. -/
def execWholeCoreSelfTest (pass : Bool) (s : State) : Out :=
  if !pass ∨ !s.sched.retired then .next s
  else .next { s with
    sched := { s.sched with retired := false }
    retiredUnits := s.retiredUnits.filter (fun u => u.kind == .linkLane || u.kind == .dramRow) }

/-- LINK_RETRY (R426, R429): one link retry of a port. -/
def execLinkRetry (port : BitVec 8) (s : State) : Out := .next (s.noteCorrected { kind := .linkLane, index := port.setWidth 16 } .linkRetried)

end Sys2Proof.Machine
end

