-- ==== Sys2Proof/Machine/Thermal.lean ====
section
/-! DEFINITION. Sensors, throttle points, power and DRAM refresh (R449 to R459). SENSOR_REFRESH, THERMAL_EVALUATION, DRAM_REFRESH,
ACTIVATION_ALERT. -/

namespace Sys2Proof.Machine

open Sys2Proof

/-- A register of the thermal block of a die (R450). -/
def thReg (die o : Nat) : Nat := 0x500000 + 0x100 * die + o

/-- A sensor's signed reading, in units of 0.125 °C. -/
def State.sensor (s : State) (die i : Nat) : Int := toSigned 16 (s.reg (thReg die (4 * i))).toNat

/-- The die temperature: the highest reading of its own sensors (R449). -/
def State.dieTemp (s : State) (die : Nat) : Int :=
  ((List.range (if die < 4 then 32 else 8)).map (s.sensor die)).foldl max (s.sensor die 0)

/-- The temperature of stack 2c + b. -/
def State.stackTemp (s : State) (n : Nat) : Int := s.sensor (n / 2) (48 + n % 2)

/-- A field of a die's THCFG: WARN 0, THROTTLE 1, CRIT 2 (R451). -/
def State.thPoint (s : State) (die i : Nat) : Int := (fld (s.reg (thReg die 0x80)) (16 * i) 16 : Nat)

/-! ### Halts (R454, R461) -/

/-- The codes of the halts that the temperatures call for, lowest first. -/
def State.haltCodes (s : State) : List Nat :=
  ((List.range 6).filter (fun d => decide (s.thPoint d 2 ≤ s.dieTemp d))).map (fun d => 1 + d) ++
    ((List.range 8).filter (fun n => decide (880 ≤ s.stackTemp n))).map (fun n => 0x10 + n)

/-- SENSOR_REFRESH (R450): sensor n of a die, numbers 48 and 49 the two stacks of a C-die. A reading that calls for a halt is not forgotten
(R454). -/
def execSensorRefresh (die : Fin 6) (n : BitVec 8) (raw : BitVec 16) (s : State) : Out :=
  let i := n.toNat
  if i < 8 ∨ (die.val < 4 ∧ (i < 32 ∨ i = 48 ∨ i = 49)) then
    let t := s.setReg (thReg die.val (4 * i)) (raw.setWidth 64)
    .next { t with critSeen := if t.haltCodes.isEmpty ∨ s.halted then s.critSeen else (s.critSeen ++ t.haltCodes).eraseDups }
  else .next s

/-- What a halt leaves of a context: it issues nothing, and the entries that it has released go on until they reach home, with what they need of
it (R263, R305, R324). -/
def Context.released (x : Context) : Context :=
  { nextId := x.nextId, mode := .ended, lid := x.lid, coord := x.coord, ctxid := x.ctxid, asid := x.asid, cls := x.cls, share := x.share
    arch := { pc := x.arch.pc, hbase := x.arch.hbase, hlimit := x.arch.hlimit, hoffs := x.arch.hoffs }
    queue := x.queue.filter (fun a => decide (a.kind ≠ .load) && decide (a.kind ≠ .skqry)) }

/-- A context that a launch owns in a halt. -/
def State.haltCtx (s : State) (c : Fin 4) : State :=
  if (s.ctx c).mode = .free then s else if (s.ctx c).mode = .ended then s else (endedCtx s c).mod c Context.released

/-- The package halts (R454): every running launch ends with KILLED, without settling, and no record is written; the cores stop; the stacks enter
self-refresh. -/
def State.haltPackage (s : State) (code : Nat) : State :=
  let t := ctxIds.foldl State.haltCtx s
  { t with
    away := [], run := none, halted := true, mreg := t.mreg.put 0 (setFld (t.reg 0) 8 8 code)
    launches := t.launches.map (fun l => { l with
      fault := some (l.fault.getD { code := cKILLED, coord := 0, bundle := 0, cmd := 0, gtb := s.gtb }), held := false })
    refAcc := (List.range 8).map s.accrued, refAt := s.gtb }

/-! ### The evaluation (R453, R456, R457) -/

/-- THSTAT of a C-die after an evaluation at temperature T; `hot` where package power over 10 ms exceeds 2,400 W (R456). -/
def thStep (st : W64) (t warn thr : Int) (hot : Bool) : W64 :=
  let steps := fld st 8 4
  let s453 := if thr ≤ t ∧ steps < 10 then steps + 1 else if t < thr - 16 ∧ 0 < steps then steps - 1 else steps
  let s456 := if hot then min 10 (steps + 1) else 0
  let n := max s453 s456
  let st := if warn ≤ t then setFld st 0 1 1 else st
  let st := if steps < n then setFld st 1 1 1 else st
  setFld st 8 4 n

/-- The temperature that drives C-die d: a hot hinge die or stack drives it as if at THROTTLE (R453, R457). -/
def State.drivenTemp (s : State) (d : Nat) : Int :=
  let hot := decide (s.thPoint 4 1 ≤ s.dieTemp 4) || decide (s.thPoint 5 1 ≤ s.dieTemp 5) ||
    decide (840 ≤ s.stackTemp (2 * d)) || decide (840 ≤ s.stackTemp (2 * d + 1))
  if hot then max (s.dieTemp d) (s.thPoint d 1) else s.dieTemp d

/-- The interval divisor that a stack temperature calls for (R457). -/
def refreshDiv (t : Int) : Nat := if t ≤ 680 then 1 else if t ≤ 760 then 2 else 4

/-- The divisor after an evaluation: it falls only 2 °C below the boundary that raised it. -/
def nextDiv (cur : Nat) (t : Int) : Nat := max (refreshDiv t) (min cur (refreshDiv (t + 16)))

/-- The new THSTAT of die d; a hinge die has no steps, and its WARN alone is set (R452, R453). -/
def State.newThstat (s : State) (d : Nat) (hot : Bool) : W64 :=
  let st := s.reg (thReg d 0x88)
  if d < 4 then thStep st (s.drivenTemp d) (s.thPoint d 0) (s.thPoint d 1) hot
  else if s.thPoint d 0 ≤ s.dieTemp d then setFld st 0 1 1
  else st

/-- Package power over the last 10 ms exceeds 2,400 W on average; milliseconds before the first evaluation count as 0 W (R456; DESIGN CHOICE, log
77). -/
def overPower (power : List Nat) : Bool := decide (24000 < (power.take 10).foldl (· + ·) 0)

/-- The evaluation of every 1 ms: PWRNOW, which is free (log 5), the dies' THSTAT, and the refresh rates (R453, R455 to R458). -/
def State.evaluate (s : State) : State :=
  let power := (fld (Config.freeWord s.times) 0 16 :: s.power).take 10
  let t := [0, 1, 2, 3, 4, 5].foldl (fun (t : State) d => t.setReg (thReg d 0x88) (s.newThstat d (overPower power))) s
  { t.setReg regPWRNOW (BitVec.ofNat 64 (power.headD 0)) with
    times := s.times + 1
    power
    evalAt := s.evalAt + BitVec.ofNat 64 gtbMs
    refAcc := (List.range 8).map s.accrued
    refAt := s.gtb
    refDiv := (List.range 8).map (fun n => nextDiv (s.refDiv.getD n 1) (s.stackTemp n)) }

/-- The halts that are called for: by the readings as they are, and by those since the last evaluation (R454). -/
def State.haltsDue (s : State) : List Nat := s.haltCodes ++ s.critSeen

/-- THERMAL_EVALUATION (R453 to R457, R461): once every 156,250 GTB counts; a halt comes with it or before it, within 10 µs of the reading that
calls for it, which is free (log 5), and names the lowest code. -/
def execThermalEvaluation (s : State) : Out :=
  if s.halted ∨ !s.powered then .next s
  else
    let t := if s.evalAt ≤ s.gtb then s.evaluate else s
    match s.haltsDue with
    | [] => .next t
    | k :: ks => .next (t.haltPackage (ks.foldl min k))

/-! ### Refresh (R458, R459) -/

/-- Sets what a bank has still to settle. -/
def State.setDebt (s : State) (bank d : Nat) : State :=
  { s with owed := (bank, s.accrued (stackOf bank) - d) :: s.owed.filter (fun p => p.1 != bank) }

/-- DRAM_REFRESH (R458): the bank receives one of the refreshes that it owes; in self-refresh it owes none to the controller (R454). -/
def execDramRefresh (bank : Nat) (s : State) : Out :=
  if s.halted ∨ s.owes bank = 0 then .next s else .next (s.setDebt bank (s.debt bank - refUnit))

/-- ACTIVATION_ALERT (R459): every owed refresh of a bank that owes 8 is issued, then the mitigation refreshes; activates of the
pseudo-channel wait meanwhile. -/
def execActivationAlert (bank : Nat) (s : State) : Out :=
  if !s.halted ∧ s.owes bank = 8 then .next (s.setDebt bank (s.debt bank - 8 * refUnit)) else .next s

end Sys2Proof.Machine
end

