-- ==== Sys2Proof/Machine/Boot.lean ====
section
/-! DEFINITION. Boot, identity, power and the host's window into DRAM (R420, R434, R460 to R462). BOOT, ATTESTATION_REPORT,
POWER_OFF, HOST_BAR2_ACCESS. -/

namespace Sys2Proof.Machine

open Sys2Proof

/-! ### What a reset keeps -/

/-- The state after a reset that keeps the nonvolatile store and the fuses (R434, R460), the package's place, and the agenda. -/
def State.afterReset (s : State) : State :=
  { State.reset with
    rollback := s.rollback, image := s.image, keyHash := s.keyHash, spares := s.spares, retiredUnits := s.retiredUnits, syscoord := s.syscoord
    sched := { retired := s.sched.retired }
    agenda := s.agenda, inbox := s.inbox, choices := s.choices, times := s.times, msix := s.msix }

/-- BOOTSTAT and its LASTHALT (R461). -/
def regBOOTSTAT : Nat := 0
def State.lastHalt (s : State) : Nat := fld (s.reg regBOOTSTAT) 8 8

/-- The header of an image with its ROLLBACK. -/
def BootImage.withRollback (i : BootImage) (rollback : BitVec 32) : BootImage :=
  { i with header := padTo 4 (i.header.take 4) ++ leBytes 4 rollback.toNat ++ i.header.drop 8 }

/-- The body of an image, of as many bytes as its header says. -/
def BootImage.code (i : BootImage) : List Byte := i.body.take (dn i.header 8 8)

/-- The public key of an image. -/
def BootImage.key (i : BootImage) : List Byte := (i.header.drop 0x40).take 1312

/-- The step at which the boot of an image stops: the first that fails, by the checks of R460 or for a reason of the outside. -/
def State.bootStop (s : State) (fail : Option (Fin 6)) (i : BootImage) : Option Nat :=
  let h := i.header
  if fail = some 0 ∨ dn h 0 4 ≠ 0x48584244 ∨ !dz h 0x30 0x40 then some 1
  else if fail = some 1 ∨ sha3 i.code ≠ (h.drop 0x10).take 32 then some 2
  else if fail = some 2 ∨ !Config.sigVerifies i.key (h.take 0x40) ((h.drop 0x560).take 2420) ∨ sha3 i.key ≠ s.keyHash then some 3
  else if fail = some 3 ∨ dn h 4 4 < s.rollback.toNat then some 4
  else if fail = some 4 then some 5
  else if fail = some 5 then some 6
  else none

/-- BOOT (R460, R461), after a reset, a halt or the return of power: of the image in the nonvolatile store, whose ROLLBACK and what else fails
the event names (log 42). The counter rises at step 4, and step 5 loads the body. DRAM keeps its contents over a reset (log 42). -/
def execBoot (fail : Option (Fin 6)) (rollback : BitVec 32) (s : State) : Out :=
  if s.booted ∧ !s.halted ∧ s.powered then .next s
  else
    let image := s.image.withRollback rollback
    let stop := s.bootStop fail image
    let m := s.moveWindow 0
    let t : State := { s.afterReset with
      mem := m.mem, hostMem := m.hostMem, gtb := s.gtb, evalAt := s.gtb, refAt := s.gtb, image
      loaded := if stop = none ∨ stop = some 6 then image.code else [] }
    let raised := match stop with
      | none => true
      | some k => decide (4 < k)
    let t := if raised then { t with rollback := rollback } else t
    let stat := match stop with
      | none => 1
      | some k => 0x80 + k
    .next { t.setReg regBOOTSTAT (BitVec.ofNat 64 (stat + s.lastHalt * 256)) with booted := stop.isNone }

/-- POWER_OFF (R461): volatile state is lost, LASTHALT and the DRAM of the package included. -/
def execPowerOff (s : State) : Out :=
  let m := s.moveWindow 0
  .next { s.afterReset with
    mem := m.mem.filter (fun p => !(paPkg p.1 == s.myPkg && paRegion p.1 == 0))
    hostMem := m.hostMem
    powered := false }

/-! ### Attestation (R462) -/

/-- The descriptor of a running or queued launch. -/
def State.descOfLid (s : State) (lid : BitVec 32) : Option (List Byte) :=
  match s.launchOf lid with
  | some l => some l.desc
  | none => (s.queuedAs lid).map (fun q => s.descAt q.1 q.2)

/-- The digest of the words of an image that a descriptor names; zero where they cannot be read. -/
def State.imageDigest (s : State) (d : List Byte) (o n : Nat) : List Byte :=
  match s.vaRead (ldHeap d) (ldAsid d) (dn d o 8) n with
  | .ok b => sha3 b
  | .error _ => List.replicate 32 0

/-- Bytes 0x00 to 0xA3 of the report. -/
def State.reportBody (s : State) (nonce : BitVec 256) (lid : BitVec 32) : List Byte :=
  leBytes 32 nonce.toNat ++ sha3 s.loaded ++ sha3 (Config.kernelOf s.loaded) ++ leBytes 4 lid.toNat ++
    (match s.descOfLid lid with
    | some d => s.imageDigest d 0x10 (8 * ldMucnt d) ++ s.imageDigest d 0x18 (4 * ldEpcnt d)
    | none => List.replicate 64 0)

/-- ATTESTATION_REPORT (R462): the body, and the 2,420 bytes of the signature of the device identity key over it. -/
def execAttestationReport (nonce : BitVec 256) (lid : BitVec 32) (s : State) : Out :=
  if !s.booted ∨ !s.powered then .next s
  else .next { s with report := s.reportBody nonce lid ++ (List.range 2420).map (Config.identitySign (s.reportBody nonce lid)) }

/-! ### The host's window (R420) -/

/-- HOST_BAR2_ACCESS (R420): performed at home; a read's bytes go to the host. -/
def execHostBar2Access (wr : Bool) (off : BitVec 39) (bytes : List (BitVec 8)) (s : State) : Out :=
  let pa := s.myPkg * 2 ^ 46 + off.toNat
  if !s.powered ∨ 2 ^ 39 < off.toNat + bytes.length then .next s
  else if wr then .next (s.memPut pa bytes)
  else .next { s with hostIn := s.memBytes pa bytes.length }

end Sys2Proof.Machine
end

