-- ==== Sys2Proof/Machine/Debug.lean ====
section
/-! DEFINITION. Samples, held cores and the debugger's window (R441, R444, R445). SAMPLE, HOLD_RELEASE, HOLD_TIMEOUT, DBGSEL. -/

namespace Sys2Proof.Machine

open Sys2Proof

/-! ### Samples (R441) -/

/-- The sample record of context c, which runs, is stopped or is held: the bundle it last issued. -/
def State.sampleCtx (s : State) (c : Fin 4) : State :=
  let x := s.ctx c
  if !(x.mode == .live || x.mode == .stopped || (x.mode == .ended && (s.launchOf x.lid).any Launch.held)) ∨ !bit x.arch.tracecfg 61 then s
  else { s.traceAppend c 2 with times := s.times + 1 }

/-- SAMPLE (R441): at the end of a sample period each context with SEN = 1 appends its record. -/
def execSample (s : State) : Out := .next (ctxIds.foldl State.sampleCtx s)

/-! ### Holds (R444) -/

/-- The holds of this core end: results still pending are discarded. -/
def State.endHolds (s : State) (which : Launch → Bool) : State :=
  let gone := fun (x : Context) => { x with arch := { x.arch with landing := [], latches := List.replicate 15 {} } }
  let held := s.launches.filter (fun l => l.held && which l)
  let s := ctxIds.foldl (fun s c => if held.any (fun l => l.lid == (s.ctx c).lid) then s.mod c gone else s) s
  { s with launches := mapIf (fun l => l.held && which l) (fun l => { l with held := false }) s.launches }

/-- HOLD_RELEASE (R444): the debugger releases the core. -/
def execHoldRelease (s : State) : Out := .next (s.endHolds (fun _ => true))

/-- GTB counts in 10 s. -/
def gtb10s : Nat := 10000 * gtbMs

/-- HOLD_TIMEOUT (R444): no debugger has attached within 10 s of the end. -/
def execHoldTimeout (s : State) : Out :=
  .next (s.endHolds (fun l => !l.attached && match l.fault with
    | some f => decide (gtb10s ≤ (s.gtb - f.gtb).toNat)
    | none => false))

/-! ### The debugger's window (R445) -/

def regDBGSEL : Nat := 0x400000

/-- The next register write that a register event takes. -/
def State.takeWrite (s : State) : Option (RegWrite × State) :=
  match s.inbox with
  | [] => none
  | w :: ws => some (w, { s with inbox := ws })

/-- The context that DBGSEL names, where it is held or stopped. -/
def State.dbgCtx (s : State) : Option Context :=
  (ctxIds.map s.ctx).find? (fun x => x.coord28.toNat == (s.reg regDBGSEL).toNat && decide (x.mode ≠ .free) &&
    (x.mode == .stopped || (s.launchOf x.lid).any Launch.held))

/-- DBGSEL (R445): it selects the context that the window shows. A debugger that selects a held or stopped context has attached to its launch
(R444; DEDUCED, log 78). -/
def execDbgsel (s : State) : Out :=
  match s.takeWrite with
  | none => .next s
  | some (w, s) =>
    if w.size ≠ 4 then .next s
    else
      let s := s.setReg regDBGSEL (w.val &&& 0xFFFFFFF)
      match s.dbgCtx with
      | some x => .next (s.modLaunch x.lid (fun l => { l with attached := true }))
      | none => .next s

/-- The registers of one lane group in the window. -/
def dbgGroup (a : Arch) (g : Nat) : List Byte :=
  padTo 0x8C0 ((List.range 35).flatMap (fun r => (a.rvs g r).flatMap (fun w => leBytes 4 w.toNat)))

/-- The es registers, laid out as in a save area. -/
def dbgEs (a : Arch) : List Byte :=
  [0, 1, 2, 3].flatMap (fun i => leBytes 16 (a.es i).toNat ++ (List.range 384).flatMap (fun w => leBytes 4 (a.esw.get (384 * i + w)).toNat))

/-- The window of a context (R445). -/
def dbgBytes (x : Context) : List Byte :=
  let a := x.arch
  padTo 0x300 ((List.range 64).flatMap (fun r => leBytes 8 (a.rs r).toNat) ++ leBytes 8 a.gvec.toNat ++ leBytes 8 a.pc ++
    (List.range 8).flatMap (fun r => leBytes 8 (a.rm r).toNat) ++ (List.range 14).flatMap (fun i => leBytes 8 (sysGet x (i + 1)).toNat)) ++
    (List.range 16).flatMap (fun r => leBytes 16 (a.rk r).toNat) ++ (List.range 8).flatMap (dbgGroup a) ++ dbgEs a

/-- Byte `o` of the window; zero where DBGSEL names no held or stopped context. -/
def State.dbgWindow (s : State) (o : Nat) : Byte :=
  match s.dbgCtx with
  | some x => nth (dbgBytes x) o
  | none => 0

end Sys2Proof.Machine
end

