-- ==== Sys2Proof/Machine/Registers.lean ====
section
/-! DEFINITION. The device registers of region 0x01 (R388, R407, R421 to R423, R450 to R455, R461): what a write does and what a read
returns. QTAIL, QSTAT, IQTAIL, PFACK, ERRDROP, THCFG, THSTAT, PWRCFG, MGMT_REG_WRITE. -/

namespace Sys2Proof.Machine

open Sys2Proof

/-- BAR0 takes host writes only once boot has completed (R461). -/
def State.heard (s : State) (w : RegWrite) : Bool := !w.host || s.booted

/-! ### Doorbells (R422, R423) -/

/-- A doorbell is refused: the queue is disabled, or more launches than slots would be queued. -/
def doorbellRefused (logn head tail : Nat) : Bool :=
  logn == 0 || decide (12 < logn) || decide (2 ^ logn < (tail + 2 ^ 32 - head) % 2 ^ 32)

/-- The order of entry of queue n after a doorbell: launches still queued keep their place, new ones follow. -/
def State.enterLaunches (s : State) (n tail : Nat) : State :=
  let head := s.qHead n
  let keys := (List.range ((tail + 2 ^ 32 - head) % 2 ^ 32)).map (fun i => qKey n ((head + i) % 2 ^ 32))
  let kept := s.sched.enter.filter (fun p => p.1 / 2 ^ 32 != n || keys.contains p.1)
  let new := keys.filter (fun k => !kept.any (fun p => p.1 == k))
  let here := fun (k : Nat) => k / 2 ^ 32 != n || keys.contains k
  { s with sched := { s.sched with
      enter := kept ++ new.map (fun k => (k, s.gtb))
      serials := s.sched.serials.filter (fun p => here p.1) ++ new.zipIdx.map (fun p => (p.1, s.sched.nextSerial + p.2))
      nextSerial := s.sched.nextSerial + new.length
      slots := s.sched.slots.filter (fun p => here p.1) ++ new.map (fun k => (k, s.slotBytes n (k % 2 ^ 32)))
      heads := s.sched.heads.filter (fun p => here p.1) } }

/-- QTAIL (R422): the write of a launch queue's tail. -/
def execQtail (s : State) : Out :=
  match s.takeWrite with
  | none => .next s
  | some (w, s) =>
    let tail := w.val.toNat % 2 ^ 32
    if 64 ≤ w.idx ∨ w.size ≠ 4 ∨ !s.heard w then .next s
    else if doorbellRefused (s.qLogn w.idx) (s.qHead w.idx) tail then .next (s.setReg (qReg w.idx 0x14) 1)
    else .next (((s.enterLaunches w.idx tail).setReg (qReg w.idx 0x0C) (BitVec.ofNat 64 tail)).readHead w.idx)

/-- QSTAT (R421): a 1 written to OVF clears it; index 64 is the invalidate queue's. -/
def execQstat (s : State) : Out :=
  match s.takeWrite with
  | none => .next s
  | some (w, s) =>
    let r := if w.idx = 64 then iqReg 0x14 else qReg w.idx 0x14
    if 64 < w.idx ∨ w.size ≠ 4 ∨ !s.heard w ∨ !bit w.val 0 then .next s else .next (s.setReg r 0)

/-- IQTAIL (R423): the doorbell of the invalidate queue. -/
def execIqtail (s : State) : Out :=
  match s.takeWrite with
  | none => .next s
  | some (w, s) =>
    let tail := w.val.toNat % 2 ^ 32
    if w.size ≠ 4 ∨ !s.heard w then .next s
    else if doorbellRefused s.iqLogn s.iqHead tail then .next (s.setReg (iqReg 0x14) 1)
    else
      let ns := (List.range ((tail + 2 ^ 32 - s.iqHead) % 2 ^ 32)).map (fun i => (s.iqHead + i) % 2 ^ 32)
      let kept := s.iqSlots.filter (fun p => ns.contains p.1)
      let new := ns.filter (fun n => !kept.any (fun p => p.1 == n))
      .next ({ s with iqSlots := kept ++ new.map (fun n => (n, s.iqSlot n)) }.setReg (iqReg 0x0C) (BitVec.ofNat 64 tail)).readIq

/-! ### Page-fault answers (R388) -/

/-- The parked context that an answer names. -/
def State.parkedCtx (s : State) (ctxid : Nat) : Option (Fin 4 × Addr × BitVec 2) :=
  ctxIds.findSome? (fun c => match (s.ctx c).mode, (s.ctx c).wait with
    | .live, .probe va kind _ _ => if fld (s.ctx c).ctxid 0 48 = ctxid then some (c, va, kind) else none
    | _, _ => none)

/-- PFACK (R388): 0 resolved, 1 long service, 2 unresolved; an answer that names no parked context has no effect. -/
def execPfack (s : State) : Out :=
  match s.takeWrite with
  | none => .next s
  | some (w, s) =>
    if w.size ≠ 8 ∨ w.host then .next s
    else match s.parkedCtx (fld w.val 0 48) with
      | none => .next s
      | some (c, va, kind) =>
        match fld w.val 48 2 with
        | 0 => .next (s.trapRestore c)
        | 1 => .next (s.mod c (fun x => { x with wait := match x.wait with
            | .probe _ _ _ logged => .probe va kind true logged
            | w => w }))
        | 2 => .next (s.fatal c cPROBE_UNRESOLVED (s.ctx c).arch.pc 0)
        | _ => .next s

/-- A parked context whose record did not fit appends it when a slot of the ring is free (R387). -/
def State.parkedAppend (s : State) (c : Fin 4) : State :=
  match (s.ctx c).mode, (s.ctx c).wait with
  | .live, .probe va kind long false =>
    if s.pfRoom then (s.pfAppend c va kind).mod c (fun x => { x with wait := .probe va kind long true }) else s
  | _, _ => s

/-! ### Registers with behaviour of their own -/

/-- ERRDROP (R407): a read returns the count of dropped records and clears it; before boot completes it returns zero (R461). -/
def execErrdrop (s : State) : Out :=
  if !s.booted then .next { s with hostIn := leBytes 4 0 }
  else .next { s.setReg regERRDROP 0 with hostIn := leBytes 4 (s.reg regERRDROP).toNat }

/-- A field of THCFG after a write: unchanged where the value lies above the reset value (R451). -/
def thField (old val : W64) (i top : Nat) : W64 :=
  if fld val (16 * i) 16 ≤ top then setFld old (16 * i) 16 (fld val (16 * i) 16) else old

/-- THCFG (R451) of die `idx`. -/
def execThcfg (s : State) : Out :=
  match s.takeWrite with
  | none => .next s
  | some (w, s) =>
    if 6 ≤ w.idx ∨ w.size ≠ 8 ∨ !s.heard w then .next s
    else
      let r := thReg w.idx 0x80
      .next (s.setReg r (thField (thField (thField (s.reg r) w.val 0 0x320) w.val 1 0x360) w.val 2 0x398))

/-- THSTAT (R452) of die `idx`: ones clear THR and WARN. -/
def execThstat (s : State) : Out :=
  match s.takeWrite with
  | none => .next s
  | some (w, s) =>
    let r := thReg w.idx 0x88
    if 6 ≤ w.idx ∨ w.size ≠ 4 ∨ !s.heard w then .next s else .next (s.setReg r (s.reg r &&& ~~~(w.val &&& 3)))

/-- PWRCFG (R455), which the resident kernel writes: BAND 0 stores 1, SETPT stores the nearer bound. -/
def execPwrcfg (s : State) : Out :=
  match s.takeWrite with
  | none => .next s
  | some (w, s) =>
    if w.size ≠ 4 ∨ w.host then .next s
    else .next (s.setReg regPWRCFG (BitVec.ofNat 64 (max 1200 (min 2400 (fld w.val 0 16)) + max 1 (fld w.val 16 8) * 2 ^ 16)))

/-! ### Plain registers (R407, R421, R423) -/

/-- The management registers that a write only stores to, with the bits that they hold. -/
def plainRegs : List (Nat × Nat × Nat) :=
  let all := 2 ^ 64 - 1
  [(regASTBASE, 8, all), (regCOMMBASE, 8, all), (regGRPBASE, 8, all), (regHOSTOFF, 8, all), (regTROOT, 4, 0x83FF), (regDOMTUMB, 4, 0x83FF),
   (regPFRING, 8, all), (regPFHEAD, 4, 2 ^ 32 - 1), (regERRLOG, 8, all), (regERRHEAD, 4, 2 ^ 32 - 1), (regRPLBASE, 8, all),
   (iqReg 0, 8, all), (iqReg 8, 4, 0xFFF00F)]

/-- The registers whose address must name DRAM of the package (R407). -/
def dramBases : List Nat := [regASTBASE, regCOMMBASE, regGRPBASE, regPFRING, regERRLOG, regRPLBASE]

/-- QCFG after a write: a host changes neither OWNER nor CLASS (R421). -/
def qcfgNew (old val : W64) (host : Bool) : W64 :=
  let v := val &&& 0xFFFF0F
  if host then (v &&& ~~~0xF00) ||| (old &&& 0xF00) else v

/-- A write of QBASE or QCFG of a launch queue: its number, and whether it is QCFG. -/
def queueWrite (o size : Nat) : Option (Nat × Bool) :=
  let n := (o - 0x100000) / 0x40
  if o < 0x100000 ∨ 64 ≤ n then none
  else if o = qReg n 0 ∧ size = 8 then some (n, false)
  else if o = qReg n 8 ∧ size = 4 then some (n, true)
  else none

/-- MGMT_REG_WRITE (R407, R421, R423): the offset is `idx`; a write of another size or place, of a read-only register, by the host where
it may not, or of a base that names no DRAM of the package, is ignored. A PFHEAD that frees slots lets parked contexts append. -/
def execMgmtRegWrite (s : State) : Out :=
  match s.takeWrite with
  | none => .next s
  | some (w, s) =>
    if !s.heard w then .next s
    else match queueWrite w.idx w.size with
      | some (n, cfg) =>
        let old := s.reg (qReg n 8)
        if w.host ∧ !bit old 11 then .next s
        else .next (s.setReg w.idx (if cfg then qcfgNew old w.val w.host else w.val))
      | none => match plainRegs.find? (fun r => r.1 == w.idx && r.2.1 == w.size) with
        | none => .next s
        | some r =>
          if w.host ∨ (dramBases.contains w.idx ∧ (paPkg w.val.toNat ≠ s.myPkg ∨ paRegion w.val.toNat ≠ 0 ∨ 2 ^ 56 ≤ w.val.toNat)) then .next s
          else
            let s := (if w.idx = regHOSTOFF then s.moveWindow (w.val &&& BitVec.ofNat 64 r.2.2) else s).setReg w.idx (w.val &&& BitVec.ofNat 64 r.2.2)
            .next (if w.idx = regPFHEAD then ctxIds.foldl State.parkedAppend s else s)

/-! ### Reads -/

/-- The size of each register, by offset. -/
def regSize (o : Nat) : Option Nat :=
  let n := (o - 0x100000) / 0x40
  let d := (o - 0x500000) / 0x100
  let t := o - 0x500000 - 0x100 * d
  if o = regBOOTSTAT then some 4
  else match plainRegs.find? (fun r => r.1 == o) with
    | some r => some r.2.1
    | none =>
      if o = regPFTAIL ∨ o = regERRTAIL ∨ o = regERRDROP ∨ o = regDBGSEL ∨ o = regPWRCFG ∨ o = regPWRNOW then some 4
      else if o = regPFACK then some 8
      else if o = iqReg 0x0C ∨ o = iqReg 0x10 ∨ o = iqReg 0x14 then some 4
      else if 0x100000 ≤ o ∧ n < 64 then
        (if o = qReg n 0 then some 8
         else if o = qReg n 8 ∨ o = qReg n 0x0C ∨ o = qReg n 0x10 ∨ o = qReg n 0x14 then some 4 else none)
      else if 0x500000 ≤ o ∧ d < 6 then
        (if t = 0x80 then some 8 else if t = 0x88 ∨ (t % 4 = 0 ∧ (t < 0x80 ∨ t = 0xC0 ∨ t = 0xC4)) then some 4 else none)
      else none

/-- A read of a register through BAR0 (R407, R445, R461): a read of another size or place returns zero; before boot completes only
BOOTSTAT answers; PFACK reads zero. -/
def State.bar0Read (s : State) (o size : Nat) : List Byte :=
  let zero : List Byte := List.replicate size 0
  if !s.booted ∧ o ≠ regBOOTSTAT then zero
  else if 0x410000 ≤ o ∧ o + size ≤ 0x420000 then (List.range size).map (fun i => s.dbgWindow (o - 0x410000 + i))
  else if regSize o ≠ some size ∨ o = regPFACK then zero
  else leBytes size (s.reg o).toNat

end Sys2Proof.Machine
end

