-- ==== Sys2Proof/Machine/Arbiter.lean ====
section
/-! DEFINITION. What the next step is: the event that the outside has brought about, or the next move of one of the machine's own
units, in an order that the spec leaves free (R286, log 4); and the time that a step takes (R251, R255, log 5). -/

namespace Sys2Proof.Machine

open Sys2Proof

/-! ### The units that fetch -/

/-- The core's move: its context's bundle issues, or the nullifier skips it (R86, R91). -/
def State.coreMove (s : State) : Instr :=
  match s.fetchBundle s.cur s.me.arch.pc with
  | .ok (_, b) => if s.me.arch.rep = 0 ∧ s.me.arch.nullifies b then .bundleSkip else .bundleIssue
  | .error _ => .bundleIssue

/-- The matrix sequencer's move: the end of its call, the word or epilogue instruction that is next, or the choice of a call and
the fault of a word that is not there (R187, R189, R191). -/
def State.sequencerMove (s : State) : Instr :=
  match s.run with
  | none => .callSelect
  | some r =>
    if r.ended then .callComplete
    else match s.nextOf r with
      | .ok i => i
      | .error _ => .callSelect

/-- The move of the hart whose turn it is: HTLBI or HTLBF at its pc. Its other instructions are RISC-V's and not the spec's (log 6). -/
def State.hartMove (s : State) : Option Instr := decodeMgmt (BitVec.ofNat 32 (s.memNat s.hart.pc.toNat 4))

/-- An encoding of the custom-0 opcode that R261 gives no meaning raises the illegal-instruction exception. -/
def State.hartTraps (s : State) : Bool :=
  let w := s.memNat s.hart.pc.toNat 4
  w % 2 ^ 7 == 0x0B && (decodeMgmt (BitVec.ofNat 32 w)).isNone

/-- The hart takes that exception. -/
def State.hartTrap (s : State) : State := { s with hart := s.hart.illegal (BitVec.ofNat 32 (s.memNat s.hart.pc.toNat 4)) }

/-- Hart n is the one that moves. -/
def State.asHart (s : State) (n : Fin 8) : State :=
  let hs := setNth s.harts s.hartNo.val s.hart
  { s with hart := hs.getD n.val {}, hartNo := n, harts := hs }

/-- A move of the hart: its instruction, or its exception; only time passes where it has neither (log 6). -/
def State.hartStep (s : State) : Instr × State := (s.hartMove.getD .gtbTargetReached, if s.hartTraps then s.hartTrap else s)

/-! ### Every move that may come next -/

def engineQueues : List Engine := [.copy, .weight, .coll, .mcast, .sketch, .quiet]

/-- The moves of one command of context c. -/
def cmdMoves (c : Fin 4) (k : Cmd) : List Instr :=
  [.copyElement c k.id, .commandComplete c k.id, .sendPermit c k.id .grant, .chunkReceive c k.id [], .tileStallTimeout (.command c k.id),
   .homeServe (2 ^ 64 + c.val * 2 ^ 16 + k.id.toNat)]

/-- The moves of one access of context c in its queue. -/
def accMoves (c : Fin 4) (a : Acc) : List Instr := [.storePerform c a.id, .loadStep c a.id, .writeRetranslate c a.id]

/-- The moves of context c. -/
def ctxMoves (s : State) (c : Fin 4) : List Instr :=
  let x := s.ctx c
  [.resultLand c, .loadReturn c, .skqryAnswer c, .ssigSignal c, .haspReleaseDelivery c, .releaseComplete c, .weightBlockDeliver c,
   .randomEntryGenerated c, .resume c, .tileStallTimeout (.bundle c), .tlbWalk x.asid (BitVec.ofNat 56 x.arch.pc)] ++
  engineQueues.flatMap (fun e => [.commandStart c e false, .commandStart c e true]) ++
  x.cmds.flatMap (cmdMoves c) ++ x.queue.flatMap (accMoves c) ++
  x.out.map (fun p => .queueEntryVisible c (Fin.ofNat 8 p.q) none) ++
  (match x.wait with
    | .swait n _ _ _ => [.semWaitSatisfied n]
    | _ => [])

/-- The moves of the memory system; a fill or a drop may come at any address (R294). -/
def memMoves (s : State) : List Instr :=
  let any : BitVec 56 := BitVec.ofNat 56 (Config.pick (s.choices + 1))
  s.homeQ.map (fun h => .homeServe h.id) ++ s.bankQ.map (fun r => .bankAccess { bank := Fin.ofNat 48 r.bank }) ++
  [Level.core, Level.cluster, Level.die].flatMap (fun l =>
    [.fillStep l any, .dropStep l any] ++ ((s.station l).filter StByte.dirty).map (fun b => .propagateStep l b.name)) ++
  (s.tiles.filter (fun p => p.2.freeing)).map (fun p => .tileDrainComplete (BitVec.ofNat 8 p.1)) ++
  [TlbRef.compute, .netPort, .storagePort].map .tlbInvalidationApplied

/-- The multicast groups with blocks on their way here, or with an MCST of this core. -/
def State.liveGroups (s : State) : List Nat :=
  s.groups.map Prod.fst ++ ctxIds.flatMap (fun c => ((s.ctx c).cmds.filter (fun k => k.eng == .mcast)).map (fun k => mcGroup k.desc))

/-- The moves of the package around the core. -/
def pkgMoves (s : State) : List Instr :=
  s.launches.flatMap (fun l => [.timeLimit l.lid, .launchEnd l.lid]) ++
  s.liveGroups.flatMap (fun g => [.blockApply (BitVec.ofNat 12 g), .mcstStamp (BitVec.ofNat 12 g) none]) ++
  [.schedulerPass, .ballastAdmit, .chunkSend, .invalidate, .holdTimeout, .sample, .thermalEvaluation, .gtbTargetReached,
   .contextSwitch, .tileStallTimeout .call, .dramRefresh (Config.pick (s.choices + 1))]

/-- Those that go on in a package that is halted: what has been released goes on to its home (R324, R454). -/
def State.haltedMoves (s : State) : List Instr := ctxIds.flatMap (fun c => (s.ctx c).queue.flatMap (accMoves c)) ++ memMoves s

/-- All of them. -/
def State.moves (s : State) : List Instr :=
  if s.halted then s.haltedMoves else
  [s.coreMove, s.sequencerMove] ++ ctxIds.flatMap (ctxMoves s) ++ memMoves s ++ pkgMoves s

/-- The move that a free choice takes: one of these, or one of the harts, any of them (R454). For
which domains the cores are registered is the resident kernel's own, and free at each such move (R352, log 4). -/
def State.picked (s : State) : Instr × State :=
  let t : State := { s with choices := s.choices + 2, sched := { s.sched with barred := Config.barredLaunches s.choices } }
  let n := Config.pick s.choices
  if n % (s.moves.length + 1) = s.moves.length then (t.asHart (Fin.ofNat 8 (Config.pick (s.choices + 1)))).hartStep
  else (s.moves.getD (n % (s.moves.length + 1)) .gtbTargetReached, t)

/-! ### The next step -/

/-- The instruction or event of the next step, and the state in which it takes place; the machine stands still where it is without power
and nothing comes from outside (R461). -/
def State.upNext (s : State) : Except Fault (Instr × State) :=
  match s.turn with
  | .core => .ok (s.coreMove, { s with turn := .any })
  | .sequencer => .ok (s.sequencerMove, { s with turn := .any })
  | .hart => .ok { s with turn := .any }.hartStep
  | .any =>
    match s.agenda with
    | i :: is => .ok (i, { s with agenda := is })
    | [] =>
      if !s.powered then .error .poweredOff else .ok s.picked

/-- A wait on a tile state of the context's bundle or of a command, whose state has appeared, is no longer timed (R274). -/
def State.waitsOver (s : State) (c : Fin 4) (x : Context) : Context :=
  { x with
    cmds := x.cmds.map (fun k => if k.since.isSome && !s.cmdStillWaits k then { k with since := none } else k)
    stallSince := if x.stallSince.isSome && !s.bundleStillWaits c then none else x.stallSince }

/-- The waits on tile states that are over (R274). -/
def State.settleWaits (s : State) : State :=
  if ctxIds.all (fun c => (s.ctx c).stallSince.isNone && (s.ctx c).cmds.all (fun k => k.since.isNone)) ∧ (s.run.bind CallRun.stallSince).isNone then s
  else
    { s with
      c0 := s.waitsOver 0 s.c0, c1 := s.waitsOver 1 s.c1, c2 := s.waitsOver 2 s.c2, c3 := s.waitsOver 3 s.c3
      run := s.run.map (fun r => if r.stallSince.isSome && !s.callStillWaits r then { r with stallSince := none } else r) }

/-- GTB and the cycles of the contexts that a launch owns go on by amounts that the spec leaves open (R251, R255, log 5). -/
def State.laterOn (s : State) : State :=
  let n := (Config.cycleDelta s.times).toNat
  let on := fun (x : Context) => if x.mode = .free then x else { x with cycles := x.cycles + n }
  { s with
    gtb := if s.powered then s.gtb + (Config.gtbDelta s.times).setWidth 64 else s.gtb
    c0 := on s.c0, c1 := on s.c1, c2 := on s.c2, c3 := on s.c3
    away := s.away.map (fun p => (p.1, on p.2))
    times := s.times + 1 }

/-- The time that a step takes: waits on tile states that are over are timed no longer, time goes on, and what it has run out for ends (R274,
R360). -/
def State.passTime (s : State) : State := s.settleWaits.laterOn.endLate

/-! ### Placing an instruction (log 15) -/

/-- A bundle of one slot: its header and its syllables, stop bits as R74 asks. -/
def bundleOf (pos : Nat) (ws : List W32) : List W32 :=
  let n := ws.length
  BitVec.ofNat 32 (2 ^ (14 + pos)) :: ws.zipIdx.map (fun p => if p.2 + 1 = n then p.1 ||| 1 else p.1 &&& 0xFFFFFFFE)

/-- The bytes of syllables in memory order (R2). -/
def sylBytes (ws : List W32) : List Byte := ws.flatMap (fun w => leBytes 4 w.toNat)

/-- The current context fetches at address 0: live, with a launch, its page 0 mapped for execute to page 0 of the package. -/
def State.fetchesAt0 (s : State) : State :=
  let asid := s.me.asid
  let lid := s.me.lid
  let page : TlbEnt := { asid, sz := 0, va := 0, pa := BitVec.ofNat 56 (s.myPkg * 2 ^ 46), r := true, w := false, x := true, wp := false }
  { s.modMe (fun x => { x with
      mode := .live, wait := .run, ckptDone := false, cls := 0
      arch := { x.arch with pc := 0, rep := 0, lbuf := [], hlimit := 0 } }) with
    tlb := page :: s.tlb
    launches := if (s.launchOf lid).isSome then s.launches
      else s.launches ++ [{ lid, queue := 0, desc := [], cls := 0, tstart := 0 }]
    turn := .core }

/-- A bundle at address 0 of the package, where the current context fetches it. -/
def State.placeBundle (s : State) (ws : List W32) : State :=
  let s := s.fetchesAt0
  { s with mem := s.mem.putList (s.myPkg * 2 ^ 46) (sylBytes ws) }

/-- A call that the sequencer runs, at word 0. -/
def call0 (c : Fin 4) (e : Option EpiRun) : CallRun :=
  { ctx := c, call := { routine := 0, m := List.replicate 8 0, rkey := 0, bundle := 0, committed := true }, word := 0
    p := List.replicate 8 0, epi := e }

/-- A row of a DRN at word 0 of epilogue program 0. -/
def row0 : EpiRun :=
  { w := ⟨0, 0, 0, 0, 0, 0⟩, prog := 0, row := 0, row0 := 0, last := 0, word := 0, x := List.replicate 8 (List.replicate 128 0) }

/-- Puts the words of an instruction where the unit that they are for fetches next, and gives that unit the next step. -/
def State.placeAt (s : State) (p : Sys2Proof.Place) (ws : List W32) : State :=
  match p with
  | .slot pos => s.placeBundle (bundleOf pos ws)
  | .word => { s with
      mu := s.mu.put 0 (BitVec.ofNat 64 ((nth ws 1).toNat * 2 ^ 32 + (nth ws 0).toNat))
      run := some (call0 s.cur none), turn := .sequencer }
  | .epi => { s with ep := s.ep.put 0 (nth ws 0), run := some (call0 s.cur (some row0)), turn := .sequencer }
  | .mgmt => { s with mem := s.mem.putList s.hart.pc.toNat (sylBytes ws), turn := .hart }
  | .event => s

end Sys2Proof.Machine
end

