-- ==== Sys2Proof/Machine/Dispatch.lean ====
section
/-! DEFINITION. `exec`: one arm per constructor of `Instr`, each one direct call of that instruction's meaning. -/

namespace Sys2Proof.Machine

open Sys2Proof

def exec (i : Instr) (s : State) : Host.Outcome State Fault Refusal :=
  match i with
  | .resultLand c => Sys2Proof.Machine.execResultLand c s
  | .loadReturn c => Sys2Proof.Machine.execLoadReturn c s
  | .queueEntryVisible c q arr => Sys2Proof.Machine.execQueueEntryVisible c q arr s
  | .skqryAnswer c => Sys2Proof.Machine.execSkqryAnswer c s
  | .semWaitSatisfied n => Sys2Proof.Machine.execSemWaitSatisfied n s
  | .ssigSignal c => Sys2Proof.Machine.execSsigSignal c s
  | .commandStart c e timed => Sys2Proof.Machine.execCommandStart c e timed s
  | .copyElement c id => Sys2Proof.Machine.execCopyElement c id s
  | .commandComplete c id => Sys2Proof.Machine.execCommandComplete c id s
  | .weightBlockDeliver c => Sys2Proof.Machine.execWeightBlockDeliver c s
  | .bankAccess bank => Sys2Proof.Machine.execBankAccess bank s
  | .tileDrainComplete t => Sys2Proof.Machine.execTileDrainComplete t s
  | .tileStallTimeout w => Sys2Proof.Machine.execTileStallTimeout w s
  | .storePerform c id => Sys2Proof.Machine.execStorePerform c id s
  | .propagateStep lvl id => Sys2Proof.Machine.execPropagateStep lvl id s
  | .fillStep lvl pa => Sys2Proof.Machine.execFillStep lvl pa s
  | .dropStep lvl pa => Sys2Proof.Machine.execDropStep lvl pa s
  | .loadStep c id => Sys2Proof.Machine.execLoadStep c id s
  | .releaseComplete c => Sys2Proof.Machine.execReleaseComplete c s
  | .homeServe id => Sys2Proof.Machine.execHomeServe id s
  | .haspReleaseDelivery c => Sys2Proof.Machine.execHaspReleaseDelivery c s
  | .trapRestore c => Sys2Proof.Machine.execTrapRestore c s
  | .parityTrap c p => Sys2Proof.Machine.execParityTrap c p s
  | .debuggerStop c => Sys2Proof.Machine.execDebuggerStop c s
  | .launchEnd lid => Sys2Proof.Machine.execLaunchEnd lid s
  | .timeLimit lid => Sys2Proof.Machine.execTimeLimit lid s
  | .killed lid => Sys2Proof.Machine.execKilled lid s
  | .resume c => Sys2Proof.Machine.execResume c s
  | .tlbWalk asid va => Sys2Proof.Machine.execTlbWalk asid va s
  | .writeRetranslate c id => Sys2Proof.Machine.execWriteRetranslate c id s
  | .mcstStamp g ext => Sys2Proof.Machine.execMcstStamp g ext s
  | .blockApply g => Sys2Proof.Machine.execBlockApply g s
  | .viewChange g v => Sys2Proof.Machine.execViewChange g v s
  | .packageLoss p => Sys2Proof.Machine.execPackageLoss p s
  | .digest c id d => Sys2Proof.Machine.execDigest c id d s
  | .sendPermit c id e => Sys2Proof.Machine.execSendPermit c id e s
  | .chunkReceive c id bytes => Sys2Proof.Machine.execChunkReceive c id bytes s
  | .selfTest u cause => Sys2Proof.Machine.execSelfTest u cause s
  | .selfTestResult u pass => Sys2Proof.Machine.execSelfTestResult u pass s
  | .sensorRefresh die n raw => Sys2Proof.Machine.execSensorRefresh die n raw s
  | .dramRefresh bank => Sys2Proof.Machine.execDramRefresh bank s
  | .activationAlert bank => Sys2Proof.Machine.execActivationAlert bank s
  | .boot fail rollback => Sys2Proof.Machine.execBoot fail rollback s
  | .attestationReport nonce lid => Sys2Proof.Machine.execAttestationReport nonce lid s
  | .hostBar2Access wr off bytes => Sys2Proof.Machine.execHostBar2Access wr off bytes s
  | .snop f => Sys2Proof.Machine.execSnop f s
  | .br f => Sys2Proof.Machine.execBr f s
  | .bri f => Sys2Proof.Machine.execBri f s
  | .callS f => Sys2Proof.Machine.execCallS f s
  | .ret f => Sys2Proof.Machine.execRet f s
  | .loopS f => Sys2Proof.Machine.execLoopS f s
  | .loopsp f => Sys2Proof.Machine.execLoopsp f s
  | .lbrk f => Sys2Proof.Machine.execLbrk f s
  | .glog f => Sys2Proof.Machine.execGlog f s
  | .klog f => Sys2Proof.Machine.execKlog f s
  | .kmovFromK f => Sys2Proof.Machine.execKmovFromK f s
  | .kmovToK f => Sys2Proof.Machine.execKmovToK f s
  | .markS f => Sys2Proof.Machine.execMarkS f s
  | .nodeS f => Sys2Proof.Machine.execNodeS f s
  | .endCtx f => Sys2Proof.Machine.execEndCtx f s
  | .sstep f => Sys2Proof.Machine.execSstep f s
  | .bara f => Sys2Proof.Machine.execBara f s
  | .barw f => Sys2Proof.Machine.execBarw f s
  | .swait f => Sys2Proof.Machine.execSwait f s
  | .ssig f => Sys2Proof.Machine.execSsig f s
  | .ssigClr f => Sys2Proof.Machine.execSsigClr f s
  | .fcrw f => Sys2Proof.Machine.execFcrw f s
  | .fsrr f => Sys2Proof.Machine.execFsrr f s
  | .fsrrClear f => Sys2Proof.Machine.execFsrrClear f s
  | .sysr f => Sys2Proof.Machine.execSysr f s
  | .sysw f => Sys2Proof.Machine.execSysw f s
  | .lsupd f => Sys2Proof.Machine.execLsupd f s
  | .rseek f => Sys2Proof.Machine.execRseek f s
  | .brk f => Sys2Proof.Machine.execBrk f s
  | .semrd f => Sys2Proof.Machine.execSemrd f s
  | .gtbr f => Sys2Proof.Machine.execGtbr f s
  | .waitt f => Sys2Proof.Machine.execWaitt f s
  | .qmask f => Sys2Proof.Machine.execQmask f s
  | .anop f => Sys2Proof.Machine.execAnop f s
  | .add f => Sys2Proof.Machine.execAdd f s
  | .sub f => Sys2Proof.Machine.execSub f s
  | .mul f => Sys2Proof.Machine.execMul f s
  | .mulh f => Sys2Proof.Machine.execMulh f s
  | .div f => Sys2Proof.Machine.execDiv f s
  | .divu f => Sys2Proof.Machine.execDivu f s
  | .andA f => Sys2Proof.Machine.execAndA f s
  | .orA f => Sys2Proof.Machine.execOrA f s
  | .xorA f => Sys2Proof.Machine.execXorA f s
  | .shl f => Sys2Proof.Machine.execShl f s
  | .shr f => Sys2Proof.Machine.execShr f s
  | .sra f => Sys2Proof.Machine.execSra f s
  | .minA f => Sys2Proof.Machine.execMinA f s
  | .maxA f => Sys2Proof.Machine.execMaxA f s
  | .addi f => Sys2Proof.Machine.execAddi f s
  | .li f => Sys2Proof.Machine.execLi f s
  | .lih f => Sys2Proof.Machine.execLih f s
  | .lihChunk1 f => Sys2Proof.Machine.execLihChunk1 f s
  | .cmp f => Sys2Proof.Machine.execCmp f s
  | .cmpImmediate f => Sys2Proof.Machine.execCmpImmediate f s
  | .selA f => Sys2Proof.Machine.execSelA f s
  | .movmToM f => Sys2Proof.Machine.execMovmToM f s
  | .movmFromM f => Sys2Proof.Machine.execMovmFromM f s
  | .movsToS f => Sys2Proof.Machine.execMovsToS f s
  | .movsToG f => Sys2Proof.Machine.execMovsToG f s
  | .lds f => Sys2Proof.Machine.execLds f s
  | .sts f => Sys2Proof.Machine.execSts f s
  | .amo f => Sys2Proof.Machine.execAmo f s
  | .fence f => Sys2Proof.Machine.execFence f s
  | .probe f => Sys2Proof.Machine.execProbe f s
  | .tdef f => Sys2Proof.Machine.execTdef f s
  | .tfree f => Sys2Proof.Machine.execTfree f s
  | .tstat f => Sys2Proof.Machine.execTstat f s
  | .tdesc f => Sys2Proof.Machine.execTdesc f s
  | .bfxcfg f => Sys2Proof.Machine.execBfxcfg f s
  | .ssrcfg f => Sys2Proof.Machine.execSsrcfg f s
  | .ssrclr f => Sys2Proof.Machine.execSsrclr f s
  | .ssrclrSatd f => Sys2Proof.Machine.execSsrclrSatd f s
  | .ssrrd f => Sys2Proof.Machine.execSsrrd f s
  | .ssrwr f => Sys2Proof.Machine.execSsrwr f s
  | .cvts f => Sys2Proof.Machine.execCvts f s
  | .fadds f => Sys2Proof.Machine.execFadds f s
  | .faddsNegated f => Sys2Proof.Machine.execFaddsNegated f s
  | .fmuls f => Sys2Proof.Machine.execFmuls f s
  | .fmas f => Sys2Proof.Machine.execFmas f s
  | .fcmps f => Sys2Proof.Machine.execFcmps f s
  | .mnop f => Sys2Proof.Machine.execMnop f s
  | .mcall f => Sys2Proof.Machine.execMcall f s
  | .mquiet f => Sys2Proof.Machine.execMquiet f s
  | .enop f => Sys2Proof.Machine.execEnop f s
  | .copy f => Sys2Proof.Machine.execCopy f s
  | .tload f => Sys2Proof.Machine.execTload f s
  | .coll f => Sys2Proof.Machine.execColl f s
  | .mcst f => Sys2Proof.Machine.execMcst f s
  | .skadd f => Sys2Proof.Machine.execSkadd f s
  | .skscl f => Sys2Proof.Machine.execSkscl f s
  | .skzero f => Sys2Proof.Machine.execSkzero f s
  | .muload f => Sys2Proof.Machine.execMuload f s
  | .epload f => Sys2Proof.Machine.execEpload f s
  | .equiet f => Sys2Proof.Machine.execEquiet f s
  | .onop f => Sys2Proof.Machine.execOnop f s
  | .ord f => Sys2Proof.Machine.execOrd f s
  | .owr f => Sys2Proof.Machine.execOwr f s
  | .oadd f => Sys2Proof.Machine.execOadd f s
  | .ozero f => Sys2Proof.Machine.execOzero f s
  | .oscl f => Sys2Proof.Machine.execOscl f s
  | .xnop f => Sys2Proof.Machine.execXnop f s
  | .xcp f => Sys2Proof.Machine.execXcp f s
  | .xbc f => Sys2Proof.Machine.execXbc f s
  | .xsum f => Sys2Proof.Machine.execXsum f s
  | .xmax f => Sys2Proof.Machine.execXmax f s
  | .xshf f => Sys2Proof.Machine.execXshf f s
  | .xs2v f => Sys2Proof.Machine.execXs2v f s
  | .xv2s f => Sys2Proof.Machine.execXv2s f s
  | .vnop f => Sys2Proof.Machine.execVnop f s
  | .ldv f => Sys2Proof.Machine.execLdv f s
  | .stv f => Sys2Proof.Machine.execStv f s
  | .ldg f => Sys2Proof.Machine.execLdg f s
  | .stg f => Sys2Proof.Machine.execStg f s
  | .ldt f => Sys2Proof.Machine.execLdt f s
  | .ldx f => Sys2Proof.Machine.execLdx f s
  | .unpk f => Sys2Proof.Machine.execUnpk f s
  | .gath f => Sys2Proof.Machine.execGath f s
  | .scat f => Sys2Proof.Machine.execScat f s
  | .vamo f => Sys2Proof.Machine.execVamo f s
  | .skupd f => Sys2Proof.Machine.execSkupd f s
  | .skqry f => Sys2Proof.Machine.execSkqry f s
  | .pushq f => Sys2Proof.Machine.execPushq f s
  | .unitNone f => Sys2Proof.Machine.execUnitNone f s
  | .iadd f => Sys2Proof.Machine.execIadd f s
  | .isub f => Sys2Proof.Machine.execIsub f s
  | .imul f => Sys2Proof.Machine.execImul f s
  | .imulh f => Sys2Proof.Machine.execImulh f s
  | .triadAnd f => Sys2Proof.Machine.execTriadAnd f s
  | .triadOr f => Sys2Proof.Machine.execTriadOr f s
  | .triadXor f => Sys2Proof.Machine.execTriadXor f s
  | .triadShl f => Sys2Proof.Machine.execTriadShl f s
  | .triadShr f => Sys2Proof.Machine.execTriadShr f s
  | .triadSra f => Sys2Proof.Machine.execTriadSra f s
  | .imin f => Sys2Proof.Machine.execImin f s
  | .imax f => Sys2Proof.Machine.execImax f s
  | .fadd f => Sys2Proof.Machine.execFadd f s
  | .fsub f => Sys2Proof.Machine.execFsub f s
  | .fmul f => Sys2Proof.Machine.execFmul f s
  | .fmin f => Sys2Proof.Machine.execFmin f s
  | .fmax f => Sys2Proof.Machine.execFmax f s
  | .cmplt f => Sys2Proof.Machine.execCmplt f s
  | .cmpeq f => Sys2Proof.Machine.execCmpeq f s
  | .triadSel f => Sys2Proof.Machine.execTriadSel f s
  | .triadCvt f => Sys2Proof.Machine.execTriadCvt f s
  | .triadNrw f => Sys2Proof.Machine.execTriadNrw f s
  | .srnd f => Sys2Proof.Machine.execSrnd f s
  | .triadExp2 f => Sys2Proof.Machine.execTriadExp2 f s
  | .triadLog2 f => Sys2Proof.Machine.execTriadLog2 f s
  | .triadRcp f => Sys2Proof.Machine.execTriadRcp f s
  | .triadRsq f => Sys2Proof.Machine.execTriadRsq f s
  | .perm f => Sys2Proof.Machine.execPerm f s
  | .triadAbs f => Sys2Proof.Machine.execTriadAbs f s
  | .pack f => Sys2Proof.Machine.execPack f s
  | .munop f => Sys2Proof.Machine.execMunop f s
  | .zacc f => Sys2Proof.Machine.execZacc f s
  | .wld f => Sys2Proof.Machine.execWld f s
  | .wstr f => Sys2Proof.Machine.execWstr f s
  | .astr f => Sys2Proof.Machine.execAstr f s
  | .achn f => Sys2Proof.Machine.execAchn f s
  | .runW f => Sys2Proof.Machine.execRunW f s
  | .oprk f => Sys2Proof.Machine.execOprk f s
  | .spsel f => Sys2Proof.Machine.execSpsel f s
  | .drn f => Sys2Proof.Machine.execDrn f s
  | .cksv f => Sys2Proof.Machine.execCksv f s
  | .mlp f => Sys2Proof.Machine.execMlp f s
  | .mbrn f => Sys2Proof.Machine.execMbrn f s
  | .mend f => Sys2Proof.Machine.execMend f s
  | .mwait f => Sys2Proof.Machine.execMwait f s
  | .msig f => Sys2Proof.Machine.execMsig f s
  | .padd f => Sys2Proof.Machine.execPadd f s
  | .pset f => Sys2Proof.Machine.execPset f s
  | .epiDone f => Sys2Proof.Machine.execEpiDone f s
  | .ldb f => Sys2Proof.Machine.execLdb f s
  | .epiAdd f => Sys2Proof.Machine.execEpiAdd f s
  | .epiMul f => Sys2Proof.Machine.execEpiMul f s
  | .epiFma f => Sys2Proof.Machine.execEpiFma f s
  | .epiMax f => Sys2Proof.Machine.execEpiMax f s
  | .epiMin f => Sys2Proof.Machine.execEpiMin f s
  | .relu f => Sys2Proof.Machine.execRelu f s
  | .epiTbl f => Sys2Proof.Machine.execEpiTbl f s
  | .epiExp2 f => Sys2Proof.Machine.execEpiExp2 f s
  | .epiCvt f => Sys2Proof.Machine.execEpiCvt f s
  | .epiNrw f => Sys2Proof.Machine.execEpiNrw f s
  | .rmax f => Sys2Proof.Machine.execRmax f s
  | .rsum f => Sys2Proof.Machine.execRsum f s
  | .wrt f => Sys2Proof.Machine.execWrt f s
  | .epiPush f => Sys2Proof.Machine.execEpiPush f s
  | .scal f => Sys2Proof.Machine.execScal f s
  | .clmp f => Sys2Proof.Machine.execClmp f s
  | .epiSel f => Sys2Proof.Machine.execEpiSel f s
  | .htlbi f => Sys2Proof.Machine.execHtlbi f s
  | .htlbf f => Sys2Proof.Machine.execHtlbf f s
  | .debuggerResume c => Sys2Proof.Machine.execDebuggerResume c s
  | .preemptionOrder c => Sys2Proof.Machine.execPreemptionOrder c s
  | .randomEntryGenerated c => Sys2Proof.Machine.execRandomEntryGenerated c s
  | .tlbInvalidationApplied t => Sys2Proof.Machine.execTlbInvalidationApplied t s
  | .managementCoreAccess wr pa bytes => Sys2Proof.Machine.execManagementCoreAccess wr pa bytes s
  | .wholeCoreSelfTest pass => Sys2Proof.Machine.execWholeCoreSelfTest pass s
  | .linkRetry port => Sys2Proof.Machine.execLinkRetry port s
  | .fabricPathLoss p => Sys2Proof.Machine.execFabricPathLoss p s
  | .bundleIssue => Sys2Proof.Machine.execBundleIssue s
  | .bundleSkip => Sys2Proof.Machine.execBundleSkip s
  | .contextSwitch => Sys2Proof.Machine.execContextSwitch s
  | .callSelect => Sys2Proof.Machine.execCallSelect s
  | .callComplete => Sys2Proof.Machine.execCallComplete s
  | .schedulerPass => Sys2Proof.Machine.execSchedulerPass s
  | .ballastAdmit => Sys2Proof.Machine.execBallastAdmit s
  | .invalidate => Sys2Proof.Machine.execInvalidate s
  | .chunkSend => Sys2Proof.Machine.execChunkSend s
  | .holdRelease => Sys2Proof.Machine.execHoldRelease s
  | .holdTimeout => Sys2Proof.Machine.execHoldTimeout s
  | .sample => Sys2Proof.Machine.execSample s
  | .thermalEvaluation => Sys2Proof.Machine.execThermalEvaluation s
  | .qtail => Sys2Proof.Machine.execQtail s
  | .qstat => Sys2Proof.Machine.execQstat s
  | .iqtail => Sys2Proof.Machine.execIqtail s
  | .pfack => Sys2Proof.Machine.execPfack s
  | .errdrop => Sys2Proof.Machine.execErrdrop s
  | .dbgsel => Sys2Proof.Machine.execDbgsel s
  | .thcfg => Sys2Proof.Machine.execThcfg s
  | .thstat => Sys2Proof.Machine.execThstat s
  | .pwrcfg => Sys2Proof.Machine.execPwrcfg s
  | .mgmtRegWrite => Sys2Proof.Machine.execMgmtRegWrite s
  | .gtbTargetReached => Sys2Proof.Machine.execGtbTargetReached s
  | .powerOff => Sys2Proof.Machine.execPowerOff s

end Sys2Proof.Machine
end

