-- ==== Sys2Proof/Machine/Step.lean ====
section
/-! DEFINITION. One step of the machine: the next instruction or event, and the time it takes. Placing an instruction. -/

namespace Sys2Proof.Machine

open Sys2Proof

/-- One step: a fault only where the machine stands still (Arbiter.lean says which step is next). -/
def step (s : State) : Host.Outcome State Fault Refusal :=
  match s.upNext with
  | .error f => .fault f
  | .ok (i, t) =>
    match exec i t with
    | .next u => .next u.passTime
    | .fault f => .fault f
    | .refused r => .refused r

/-- The state in which the very next step fetches and runs the instruction with bits `w` of the opcode table (log 15): a slot
operation alone in a bundle, an epilogue or management instruction where its unit fetches. -/
def State.withFetchWord (s : State) (nbits w : Nat) : State :=
  match decodeTableWord nbits w with
  | some i => s.placeAt i.place [BitVec.ofNat 32 w]
  | none => s.placeAt (.slot 0) [BitVec.ofNat 32 w]

end Sys2Proof.Machine
end

