-- ==== Sys2Proof/Safety.lean ====
section
/-! DEFINITION. The terms in which claims about the machine are stated: what an instruction's next state keeps, what it adds to a
landing buffer or a holding buffer, the canonical form of memory, and what a run is. -/

namespace Sys2Proof.Machine

open Sys2Proof

/-- The canonical form of memory: addresses strictly rising, no byte listed that an unlisted address reads as (0). -/
def Memory.wf (m : Store 8) : Bool := Store.wf m

/-- The guard of a slot reads true in the context that issues (R89). -/
def Guarded (g : BitVec 4) (s : State) : Prop := s.me.arch.rg g.toNat = true

/-- A landing-buffer entry for a result of this tick that an operation may read from `k` ticks on (R88, R106). -/
def State.entry (s : State) (k pos : Nat) (act : Land) (fl : BitVec 6 := 0) : LandEntry :=
  { due := s.me.tick + (k - 1), pos, act, flags := fl }

/-- The state with entries added to the landing buffer of the context that issues, and nothing else changed. -/
def State.lands (s : State) (es : List LandEntry) : State :=
  s.modMe (fun x => { x with arch := { x.arch with landing := x.arch.landing ++ es } })

/-- An access as the context that issues enters it: with the next identifier and the bundle's address. -/
def State.stamped (s : State) (a : Acc) : Acc := { a with id := s.me.nextId, bundle := s.me.arch.pc }

/-- The state with an access at the tail of the holding buffer of the context that issues (R288, R289). -/
def State.holds (s : State) (a : Acc) : State :=
  s.modMe (fun x => { x with nextId := x.nextId + 1, hold := x.hold ++ [s.stamped a] })

/-- The state with an access at the tail of the queue of the context that issues (R288). -/
def State.queues (s : State) (a : Acc) : State :=
  s.modMe (fun x => { x with nextId := x.nextId + 1, queue := x.queue ++ [s.stamped a] })

/-- The state in which the context that issues waits in the way given, and nothing else has changed. -/
def State.waits (s : State) (w : Wait) : State := s.modMe (fun x => { x with wait := w })

/-- Two register states agree on every register that a program can read: `b` is `a` but for its landing buffer and its latches. -/
structure Arch.SameRegs (a b : Arch) : Prop where
  s : ∀ r, b.rs r = a.rs r
  g : ∀ i, b.rg i = a.rg i
  k : ∀ i, b.rk i = a.rk i
  m : ∀ r, b.rm r = a.rm r
  v : ∀ grp r l, b.rv grp r l = a.rv grp r l
  es : ∀ i, b.es i = a.es i
  esw : ∀ n, b.esw.get n = a.esw.get n
  bx : ∀ i, b.bx.get i = a.bx.get i
  lps : b.lps = a.lps
  fcr : b.fcr = a.fcr
  fsr : b.fsr = a.fsr
  lscale : b.lscale = a.lscale
  lscfg : b.lscfg = a.lscfg
  rkey : b.rkey = a.rkey
  rctr : b.rctr = a.rctr
  trel : b.trel = a.trel
  heap : (b.hbase, b.hlimit, b.hoffs) = (a.hbase, a.hlimit, a.hoffs)
  driftcfg : b.driftcfg = a.driftcfg
  tracecfg : b.tracecfg = a.tracecfg
  pc : b.pc = a.pc
  rep : b.rep = a.rep

/-- Every byte of memory and of the scratchpads, every accumulator word, the stores of the matrix unit, the semaphores, the tile
table, the barriers, the device registers and the management hart are as before. -/
structure SameStorage (s t : State) : Prop where
  mem : ∀ a, t.mem.get a = s.mem.get a
  sp : ∀ a, t.sp.get a = s.sp.get a
  acc : ∀ i, t.acc.get i = s.acc.get i
  mu : ∀ i, t.muWord i = s.muWord i
  ep : ∀ i, t.epWord i = s.epWord i
  semVal : ∀ n, t.semVal.get n = s.semVal.get n
  semLatch : ∀ n, t.semLatch.get n = s.semLatch.get n
  semCode : ∀ n, t.semCode.get n = s.semCode.get n
  tiles : ∀ k, t.tile k = s.tile k
  hasps : t.hasps = s.hasps
  regs : ∀ o, t.reg o = s.reg o
  hart : t.hart = s.hart
  stations : (t.stCore, t.stCluster, t.stDie) = (s.stCore, s.stCluster, s.stDie)

/-- Only memory at home has changed, and with it what is kept about its bytes: the lines written, the ages of copies, what a running DRN
would undo, and failing words that are written whole. -/
structure MemoryOnly (s t : State) : Prop where
  rest : { t with mem := s.mem, wrote := s.wrote, run := s.run, bad := s.bad, stCore := s.stCore, stCluster := s.stCluster, stDie := s.stDie } = s
  bad : ∀ w ∈ t.bad, w ∈ s.bad
  copies : ∀ l, (t.station l).map (fun b => (b.pa, b.val, b.dirty)) = (s.station l).map (fun b => (b.pa, b.val, b.dirty))

/-- The contexts other than the one that issues are as before, and the same one issues. -/
structure SameOthers (s t : State) : Prop where
  cur : t.cur = s.cur
  others : ∀ c, c ≠ s.cur → t.ctx c = s.ctx c

/-- The value of a register form of the A slot at its width: 64 bits, or the low 32 bits with the result sign-extended (R108). -/
def aluResult (f : AF) (s : State) (op : (w : Nat) → BitVec w → BitVec w → BitVec w) : W64 :=
  if f.w = 1 then (op 32 ((s.aA f).setWidth 32) ((s.aB f).setWidth 32)).signExtend 64 else op 64 (s.aA f) (s.aB f)

/-- A triad source is no queue head, or that of a latch the context may read and that has an entry (R65, R147, R260). -/
def State.sourceReady (s : State) (code : Nat) : Prop :=
  32 ≤ code → code < 40 → s.me.share.mayRead (code - 32) = true ∧
    (if code = 32 then s.me.q0gen else (s.me.qHead (code - 32)).isSome) = true

/-- What γ's result writes where it goes to a v register, a k register, or nowhere (R97, R147). -/
def triadLands (f : TF) (m : BitVec 16) (r : List W32) : Land :=
  if f.pos ≠ .gamma then .nothing
  else if f.dest.toNat < 32 then .v f.grp.toNat f.dest.toNat m r
  else if f.dest.toNat < 48 then
    .k (f.dest.toNat - 32) (m.setWidth 128 <<< (16 * f.grp.toNat)) ((nonzeroBits r).setWidth 128 <<< (16 * f.grp.toNat))
  else .nothing

/-- The state after a unit of a triad with the results `r` of its lanes and the registers `a`: the chained value, the bypass register,
the destination and the flags of the lanes in the mask. -/
def triadAfter (f : TF) (s : State) (a : Arch) (r : List (W32 × BitVec 6)) : State :=
  let g := f.grp.toNat
  let v := r.map Prod.fst
  State.lands { s.modMe (fun x => { x with arch := a }) with casc := s.casc.putList (cascIdx g (unitIdx f) 0) v }
    [s.entry 1 (7 + g) (.v g (32 + unitIdx f) 0xFFFF v), s.entry 3 (7 + g) (triadLands f (s.triadMask f) v) (maskFlags (s.triadMask f) r)]

/-- The instructions that read registers and land results in registers, and touch nothing else at their issue. -/
def registerOnly (i : Instr) : Bool :=
  match i with
  | .add _ | .sub _ | .mul _ | .mulh _ | .div _ | .divu _ | .andA _ | .orA _ | .xorA _ | .shl _ | .shr _ | .sra _ | .minA _ | .maxA _ => true
  | .addi _ | .li _ | .lih _ | .lihChunk1 _ | .cmp _ | .cmpImmediate _ | .selA _ | .movmToM _ | .movmFromM _ | .movsToS _ | .movsToG _ => true
  | .cvts _ | .fadds _ | .faddsNegated _ | .fmuls _ | .fmas _ | .fcmps _ => true
  | .glog _ | .klog _ | .kmovFromK _ | .kmovToK _ | .fsrr _ | .fsrrClear _ | .sysr _ | .lsupd _ => true
  | .xcp _ | .xbc _ | .xsum _ | .xmax _ | .xshf _ | .xs2v _ | .xv2s _ | .unpk _ => true
  | .snop _ | .anop _ | .mnop _ | .enop _ | .onop _ | .xnop _ | .vnop _ => true
  | _ => false

/-- The instructions of a bundle's slots, the units of a triad among them (R73). -/
def inSlot (i : Instr) : Bool :=
  match i.place with
  | .slot _ => true
  | _ => false

/-- The guard field of an instruction of a slot; g0 for any other (R93, R94, R96). -/
def guardField (i : Instr) : BitVec 4 :=
  match encode false i with
  | w0 :: _ => if inSlot i then guardOf w0 else 0
  | [] => 0

/-- The outcome of a step: the state that `exec` answers, once the step's time has passed (R251, R255). -/
def thenTime (o : Out) : Out :=
  match o with
  | .next t => .next t.passTime
  | o => o

/-- A repetition in this wait is tried again: none of its slots takes effect (R65, R318). -/
def Wait.retried : Wait → Bool
  | .blocked => true
  | .stall _ => true
  | .probe _ _ _ _ => true
  | _ => false

/-- The slot operations, run one after the other from `s`, all take effect and come to `t` (R86). -/
def RunsAll : List Instr → State → State → Prop
  | [], s, t => t = s
  | i :: is, s, t => ∃ u, exec i s = .next u ∧ u.me.mode = .live ∧ u.me.wait.retried = false ∧ RunsAll is u t

/-- The wait of a context ends, and a checkpoint is due before its next bundle (R316). -/
def State.goesOn (s : State) (c : Fin 4) : State := s.mod c (fun x => { x with wait := .run, ckptDue := true })

/-- A run of `n` steps in which the machine never stands still. -/
def Runs : Nat → State → State → Prop
  | 0, s, t => t = s
  | n + 1, s, t => ∃ u, step s = .next u ∧ Runs n u t

end Sys2Proof.Machine
end

