-- ==== Sys2Proof/Certificates/Slice0/Obligations.lean ====
section
/-! DEFINITION. The statements about the machine, for the provers. -/

open Sys2Proof Sys2Proof.Machine

/-! ### Decoding and encoding -/

/-- Every well-formed instruction that has words is read back from them at its place: alone at a place that holds one instruction, and
as one of the three units at the place of a triad (R72, R73, R93 to R98, R103, R199, R216, R261).
The three units of a triad whose fields pass checks 7 and 8 are read back in cascade order, with the same fields (R96, R98). -/
def Obligations.RoundTrip : Prop :=
  (∀ (i : Instr) (stop : Bool), i.wf = true → i.place ≠ .event →
     i ∈ decodeAt i.place (encode stop i) ∧
       ((∀ n, 7 ≤ n → i.place ≠ .slot n) → decodeAt i.place (encode stop i) = [i])) ∧
  (∀ (f : TF) (stop : Bool), f.unitsOk = true →
     decodeAt f.place (encT f stop) =
       [UPos.alpha, UPos.beta, UPos.gamma].filterMap (fun p => unitInstr ({ f with pos := p } : TF).code { f with pos := p }) ∧
     (decodeAt f.place (encT f stop)).length = 3)

/-- Words that the spec prints: `addi s4, s4, -1` and `cmp.ne g2, s4, 0` of the worked example of R136, and its third bundle, `(g2) br top`;
`htlbi a0, a1` and `htlbf` (R261). -/
def Obligations.PrintedWords : Prop :=
  decodeSlot 1 0x001043C0 0x01FFFFFF = [.addi { w := 0, b := 0, a := 4, d := 4, q := 0, cls := 0, imm := 0xFFFFFF, g := 0, st := false }] ∧
  decodeSlot 1 0x40102480 0x20000001 = [.cmpImmediate { w := 1, b := 0, a := 4, d := 2, q := 1, cls := 0, imm := 0, g := 0, st := false }] ∧
  decodeBundle [0x00004000, 0xFFFFA049] = .ok { pop := 0, rep := 0, ckpt := false, len := 2, slots := [
    { pos := 0, w0 := 0xFFFFA049, w1 := 0, ops := [.br { x := 0xFFFFA, g := 2, st := false }] }] } ∧
  decodeMgmt 0x00B5000B = some (.htlbi { rs2 := 11, rs1 := 10, rd := 0 }) ∧
  decodeMgmt 0x0000100B = some (.htlbf { rs2 := 0, rs1 := 0, rd := 0 })

/-- The decode checks 2 to 8 of R75 on a bundle's syllables, first failure first. ILLEGAL_BUNDLE (0x02): a header with bits 31:29 set, an
empty template without its stop bit, a stop bit that does not agree with the length (R74), a control operation beside rep or sticky (R79), a
NODE or END that does not stand alone (R80). Of what passes these, ILLEGAL_OPCODE (0x03) where a slot reads as no instruction. Of what passes
that too, ILLEGAL_OPERAND (0x14) where a slot has a must-be-zero bit set or a reserved code. All else is a bundle, its fields those of the
header and its slots those of the template, in order.
An opcode that no table of R103 assigns is read as no instruction, in every slot and store. -/
def Obligations.BundleChecks : Prop :=
  (∀ ws : List W32,
     let h := nth ws 0
     let slots := splitSlots (encoded h) (ws.drop 1)
     let transfers := fun (s : Slot) => isControl (opField s.w0) = true ∧ (h.toNat / 4 % 16 ≠ 0 ∨ s.w0.getLsbD 1 = true)
     let alone := fun (s : Slot) => (opField s.w0 = 0x0C ∨ opField s.w0 = 0x0D) ∧ (slots ≠ [s] ∨ h.toNat / 64 % 256 ≠ 0 ∨ h.getLsbD 1 = true)
     let bundle := h.toNat / 2 ^ 29 ≠ 0 ∨ (h.toNat / 2 ^ 14 % 2 ^ 16 = 0 ∧ h.getLsbD 0 = false) ∨
       (∃ i w, ws[i]? = some w ∧ w.getLsbD 0 ≠ decide (i + 1 = ws.length)) ∨ (∃ s ∈ slots, s.pos = 0 ∧ (transfers s ∨ alone s))
     let opcode := ∃ s ∈ slots, s.ops = []
     let operand := ∃ s ∈ slots, ∃ i ∈ s.ops, i.wf = false
     (bundle → decodeBundle ws = .error 0x02) ∧
     (¬ bundle → opcode → decodeBundle ws = .error 0x03) ∧
     (¬ bundle → ¬ opcode → operand → decodeBundle ws = .error 0x14) ∧
     (¬ bundle → ¬ opcode → ¬ operand → decodeBundle ws = .ok { pop := h.extractLsb' 6 8, rep := h.toNat / 4 % 16, ckpt := h.getLsbD 1, len := bundleLen h, slots := slots })) ∧
  (∀ w0 w1 : W32,
     (30 ≤ opField w0 → decodeS w0 = none) ∧ (41 ≤ opField w0 → decodeA w0 w1 = none) ∧ (3 ≤ opField w0 → decodeM w0 = none) ∧
     (11 ≤ opField w0 → decodeE w0 w1 = none) ∧ (6 ≤ opField w0 → decodeO w0 w1 = none) ∧ (8 ≤ opField w0 → decodeX w0 = none) ∧
     (14 ≤ opField w0 → decodeV w0 w1 = none) ∧ (∀ g, (tfOf g .alpha w0 w1).unitsOk = false → decodeT g w0 w1 = []) ∧
     (19 ≤ w0.toNat % 32 → decodeEpi w0 = none) ∧ (∀ w : W64, 18 ≤ w.toNat % 64 → decodeWord w = none) ∧
     (w0.toNat % 128 ≠ 0x0B → decodeMgmt w0 = none))

/-! ### The scalar slots -/

/-- The register forms of the A slot (R108) for every width and operand, with the corner cases of R109: a divisor of zero gives all
ones, −2^(W−1) ÷ −1 gives −2^(W−1); no FSR flag. The result may be read 1, 3 (MUL, MULH) or 8 (DIV, DIVU) ticks on (R106). -/
def Obligations.IntegerResults : Prop :=
  ∀ (f : AF) (s : State), Guarded f.g s →
    let res := fun (k : Nat) (op : (w : Nat) → BitVec w → BitVec w → BitVec w) =>
      (Host.Outcome.next (s.lands [s.entry k 1 (.s f.d.toNat (aluResult f s op))]) : Out)
    exec (.add f) s = res 1 (fun _ a b => a + b) ∧
    exec (.sub f) s = res 1 (fun _ a b => a - b) ∧
    exec (.mul f) s = res 3 (fun _ a b => a * b) ∧
    exec (.mulh f) s = res 3 (fun w a b => ((a.signExtend (2 * w) * b.signExtend (2 * w)) >>> w).setWidth w) ∧
    exec (.div f) s = res 8 (fun w a b => if b = 0 then BitVec.allOnes w else a.sdiv b) ∧
    exec (.divu f) s = res 8 (fun w a b => if b = 0 then BitVec.allOnes w else a / b) ∧
    exec (.andA f) s = res 1 (fun _ a b => a &&& b) ∧
    exec (.orA f) s = res 1 (fun _ a b => a ||| b) ∧
    exec (.xorA f) s = res 1 (fun _ a b => a ^^^ b) ∧
    exec (.shl f) s = res 1 (fun w a b => a <<< (b.toNat % w)) ∧
    exec (.shr f) s = res 1 (fun w a b => a >>> (b.toNat % w)) ∧
    exec (.sra f) s = res 1 (fun w a b => a.sshiftRight (b.toNat % w)) ∧
    exec (.minA f) s = res 1 (fun _ a b => if b.slt a then b else a) ∧
    exec (.maxA f) s = res 1 (fun _ a b => if a.slt b then b else a)

/-- ADDI, LI and the two chunks of LIH (R110): the immediate is imm24 sign-extended, or the running offset of a sticky form (R84),
of which a chunk of LIH takes the low 16 bits (log 58);
LIH keeps the other bits of s[d], read at issue.
SEL reads its guard at issue and picks s[a] or s[b] (R112).
MOVM moves between s and m registers (R114); MOVS reads the guards as a vector whose bit 0 is 1, and writes g1 to g15 (R113). -/
def Obligations.ImmediateResults : Prop :=
  (∀ (f : AF) (s : State), Guarded f.g s →
     let imm : W64 := if f.st then s.aImm f else f.imm.signExtend 64
     let res := fun (v : W64) => (Host.Outcome.next (s.lands [s.entry 1 1 (.s f.d.toNat v)]) : Out)
     exec (.addi f) s = res (if f.w = 1 then ((s.aA f + imm).setWidth 32).signExtend 64 else s.aA f + imm) ∧
     exec (.li f) s = res imm ∧
     exec (.lih f) s = res ((s.aD f &&& ~~~(0x0000_FFFF_FF00_0000 : W64)) ||| ((imm.setWidth 24).setWidth 64 <<< 24)) ∧
     exec (.lihChunk1 f) s = res (((s.aD f).setWidth 48).setWidth 64 ||| ((imm.setWidth 16).setWidth 64 <<< 48))) ∧
  (∀ (f : AF) (s : State), Guarded f.g s →
     exec (.selA f) s = .next (s.lands [s.entry 1 1 (.s f.d.toNat
       (if s.me.arch.rg (f.imm.toNat % 16) = true then s.aA f else s.aB f))])) ∧
  (∀ (f : AF) (s : State), Guarded f.g s →
     exec (.movmToM f) s = .next (s.lands [s.entry 1 1 (.m f.d.toNat (s.aA f))]) ∧
     exec (.movmFromM f) s = .next (s.lands [s.entry 1 1 (.s f.d.toNat (s.me.arch.rm f.a.toNat))]) ∧
     (∃ v, exec (.movsToS f) s = .next (s.lands [s.entry 1 1 (.s f.d.toNat v)]) ∧
       (∀ j, j < 16 → v.getLsbD j = s.me.arch.rg j) ∧ (∀ j, 16 ≤ j → v.getLsbD j = false)) ∧
     exec (.movsToG f) s = .next (s.lands [s.entry 1 1 (.g 0xFFFE ((s.aA f).setWidth 16))]))

/-- CMP (R111) in its register and immediate forms, on 64 bits, and FCMPS (R134) on FP32 operands: which guard value they land, by
qualifier. A guard lands as one bit of the guard vector. -/
def Obligations.CompareResults : Prop :=
  ∀ (f : AF) (s : State), Guarded f.g s →
    let res := fun (k : Nat) (v : Bool) =>
      (Host.Outcome.next (s.lands [s.entry k 1 (.g (BitVec.ofNat 16 (2 ^ f.d.toNat)) (if v then BitVec.ofNat 16 (2 ^ f.d.toNat) else 0))]) : Out)
    let cond := fun (a x : W64) =>
      if f.q = 0 then decide (a = x) else if f.q = 1 then decide (a ≠ x) else if f.q = 2 then decide (a.toInt < x.toInt)
      else if f.q = 3 then decide (a.toInt ≤ x.toInt) else if f.q = 4 then decide (a.toNat < x.toNat)
      else if f.q = 5 then decide (a.toNat ≤ x.toNat) else decide (a &&& x ≠ 0)
    let daz := s.me.arch.fctl.daz
    let u := f32.dec daz (low32 (s.aA f))
    let v := f32.dec daz (low32 (s.aB f))
    exec (.cmp f) s = res 1 (cond (s.aA f) (s.aB f)) ∧
    exec (.cmpImmediate f) s = res 1 (cond (s.aA f) (s.aImm f)) ∧
    exec (.fcmps f) s = res 3
      (if u.isNan || v.isNan then decide (f.q = 1 ∨ 4 ≤ f.q.toNat)
       else if f.q = 0 then decide (u.cmp v = 0) else if f.q = 1 then decide (u.cmp v ≠ 0) else if f.q = 2 then decide (u.cmp v < 0)
       else if f.q = 3 then decide (u.cmp v ≤ 0) else false)

/-- GLOG and KLOG by operation code, bit by bit (R141), on guards read with g0 true and mask registers read with k0 all ones.
KMOV (R142): direction bit 22 picks k[63:0] or k[127:64]; towards a k register the other half is left alone. -/
def Obligations.LogicResults : Prop :=
  (∀ (f : SF) (s : State), Guarded f.g s →
     let op := fun (a b : Bool) =>
       match f.f 24 3 with
       | 0 => a && b
       | 1 => a || b
       | 2 => a != b
       | 3 => a && !b
       | 4 => a || !b
       | 5 => !a
       | 6 => true
       | _ => false
     let a := s.me.arch.rg (f.f 16 4)
     let b := s.me.arch.rg (f.f 20 4)
     let bit := BitVec.ofNat 16 (2 ^ f.f 12 4)
     exec (.glog f) s = .next (s.lands [s.entry 1 0 (.g bit (if op a b then bit else 0))]) ∧
     (∃ v : BitVec 128, exec (.klog f) s = .next (s.lands [s.entry 1 0 (.k (f.f 12 4) (BitVec.allOnes 128) v)]) ∧
       ∀ i, i < 128 → v.getLsbD i = op ((s.me.arch.rk (f.f 16 4)).getLsbD i) ((s.me.arch.rk (f.f 20 4)).getLsbD i))) ∧
  (∀ (f : SF) (s : State), Guarded f.g s →
     let hi := f.x.getLsbD 10
     let k := f.f 18 4
     exec (.kmovFromK f) s = .next (s.lands [s.entry 1 0 (.s f.n ((s.me.arch.rk k).extractLsb' (if hi then 64 else 0) 64))]) ∧
     exec (.kmovToK f) s = .next (s.lands [s.entry 1 0 (.k k
       (if hi then BitVec.allOnes 64 ++ (0 : BitVec 64) else (0 : BitVec 64) ++ BitVec.allOnes 64)
       (if hi then s.me.arch.rs f.n ++ (0 : BitVec 64) else (0 : BitVec 64) ++ s.me.arch.rs f.n))]))

/-- The scalar floating-point operations (R132, R133): one rounding under the FCR in force at issue, the result's low 32 bits in s[d]
and its flags, both due two ticks on; where a random word is needed and none is generated yet, the repetition blocks (R465).
UF is judged on the result rounded with no lower exponent bound, a deduction of the model (log 8); the sign of a zero sum with SRD = 1 is
its choice (log 52). -/
def Obligations.ScalarFloatResults : Prop :=
  ∀ (f : AF) (s : State), Guarded f.g s →
    let c := s.me.arch.fctl
    let w := s.rnd 0
    let a := low32 (s.aA f)
    let b := low32 (s.aB f)
    let res := fun (r : Nat × BitVec 6) => (Host.Outcome.next (s.lands [s.entry 3 1 (.s f.d.toNat (BitVec.ofNat 64 r.1)) r.2]) : Out)
    ((c.srd = true → s.me.q0gen = true) →
      exec (.fadds f) s = res (fAddF f32 c w false a b) ∧
      exec (.faddsNegated f) s = res (fAddF f32 c w true a b) ∧
      exec (.fmuls f) s = res (fMulF f32 c w a b) ∧
      exec (.fmas f) s = res (fMaF c w (f.w.getLsbD 1) (f.w.getLsbD 0) a b (low32 (s.aD f)))) ∧
    ((f.imm.getLsbD 8 = true → s.me.q0gen = true) →
      exec (.cvts f) s = .next (s.lands [s.entry 3 1
        (.s f.d.toNat (cvtsV c (if f.imm.getLsbD 8 then .sr w else c.mode) (f.imm.toNat % 16) (f.imm.toNat / 16 % 16) (s.aA f)).1)
        (cvtsV c (if f.imm.getLsbD 8 then .sr w else c.mode) (f.imm.toNat % 16) (f.imm.toNat / 16 % 16) (s.aA f)).2])) ∧
    (s.me.q0gen = false →
      let blocks := fun (i : Instr) => exec i s = .next (s.waits .blocked)
      (c.srd = true → blocks (.fadds f) ∧ blocks (.faddsNegated f) ∧ blocks (.fmuls f) ∧ blocks (.fmas f)) ∧
      (f.imm.getLsbD 8 = true → blocks (.cvts f)))

/-- FCRW (R144), FSRR and its clear (R145), SYSR (R256), LSUPD (R259): what lands, SYSR's value as `sysGet` gives it and LSUPD's as
`lossUpdate` does, with the guard true wherever the operand is not 0. -/
def Obligations.StatusResults : Prop :=
  ∀ (f : SF) (s : State), Guarded f.g s →
    let res := fun (es : List Land) => (Host.Outcome.next (s.lands (es.map (fun a => s.entry 1 0 a))) : Out)
    ((s.me.arch.rs f.n).toNat < 64 → exec (.fcrw f) s = res [.fcr (s.me.arch.rs f.n)]) ∧
    exec (.fsrr f) s = res [.s f.n s.me.arch.fsr] ∧
    exec (.fsrrClear f) s = res [.s f.n s.me.arch.fsr, .fsrClear ((s.me.arch.rs f.n2).setWidth 6)] ∧
    exec (.sysr f) s = res [.s f.n (sysGet s.me f.n2)] ∧
    (let r := lossUpdate (decide (s.me.arch.rs f.n ≠ 0)) s.me.arch.lscale s.me.arch.lscfg
     exec (.lsupd f) s = res [.sys 3 r.1, .sys 4 r.2.1, .g (BitVec.ofNat 16 (2 ^ f.f 18 4)) (if r.2.2 then BitVec.ofNat 16 (2 ^ f.f 18 4) else 0)]) ∧
    (s.me.arch.rs f.n ≠ 0 → (lossUpdate (decide (s.me.arch.rs f.n ≠ 0)) s.me.arch.lscale s.me.arch.lscfg).2.2 = true)

/-- The S operations that the spec names ILLEGAL_OPERAND for take that fault: a BRI or RET target that is not word aligned, an FCRW of a
value above 63 (R136, R144). The fault is the issue fault of the bundle (R76).
LDS and STS at an address that is not a multiple of the access's width, or at 2^56 or above, fault ILLEGAL_OPERAND (R116). -/
def Obligations.ScalarFaults : Prop :=
  (∀ (f : SF) (s : State), Guarded f.g s → s.me.arch.inLoop = false →
     ((s.me.arch.rs f.n).toNat % 4 ≠ 0 → exec (.bri f) s = .next (s.fatal s.cur 0x14 s.me.arch.pc 0)) ∧
     ((s.me.arch.rs 63).toNat % 4 ≠ 0 → exec (.ret f) s = .next (s.fatal s.cur 0x14 s.me.arch.pc 0)) ∧
     (64 ≤ (s.me.arch.rs f.n).toNat → exec (.fcrw f) s = .next (s.fatal s.cur 0x14 s.me.arch.pc 0))) ∧
  (∀ (f : AF) (s : State), Guarded f.g s →
     let va := (s.aA f + s.aImm f).toNat
     (2 ^ 56 ≤ va ∨ va % 2 ^ f.w.toNat ≠ 0) →
     exec (.lds f) s = .next (s.fatal s.cur 0x14 s.me.arch.pc 0) ∧ exec (.sts f) s = .next (s.fatal s.cur 0x14 s.me.arch.pc 0))

/-- The register-only instructions always answer a next state in which every register, flag, special register, byte of memory and of
the scratchpad, accumulator word, held or queued access is as before: their results are in the landing buffer alone (R88, R89). -/
def Obligations.RegisterOnlyFrame : Prop :=
  ∀ (i : Instr) (s : State), registerOnly i = true →
    ∃ t, exec i s = .next t ∧ s.me.arch.SameRegs t.me.arch ∧ SameStorage s t ∧ SameOthers s t ∧
      t.me.hold = s.me.hold ∧ t.me.queue = s.me.queue ∧ t.me.cmds = s.me.cmds ∧ t.me.calls = s.me.calls ∧
      ∃ es, t.me.arch.landing = s.me.arch.landing ++ es

/-- A slot whose guard is false takes no effect: the whole state is as before (R89), outside an active loop's body, in which R139
makes the control operations fault whatever their guard.
The encoded NOPs of the seven slots have no effect (R81). -/
def Obligations.FalseGuard : Prop :=
  (∀ (i : Instr) (s : State), inSlot i = true → s.me.arch.rg (guardField i).toNat = false → s.me.arch.inLoop = false →
     exec i s = .next s) ∧
  (∀ (a : SF) (b : AF) (c : EF) (d : OF) (e : XF) (f : VF) (s : State),
     exec (.snop a) s = .next s ∧ exec (.anop b) s = .next s ∧ exec (.mnop a) s = .next s ∧ exec (.enop c) s = .next s ∧
     exec (.onop d) s = .next s ∧ exec (.xnop e) s = .next s ∧ exec (.vnop f) s = .next s)

/-! ### Control, synchronisation and system registers -/

/-- BR, BRI, CALL and RET outside every loop body (R136): where the next bundle is, and CALL's link, the address of the next bundle
(header + 4 × L), in s63. -/
def Obligations.Transfers : Prop :=
  ∀ (f : SF) (s : State), Guarded f.g s → s.me.arch.inLoop = false →
    let goes := fun (t : Nat) => s.modMe (fun x => { x with nextPc := some t })
    let target := (BitVec.ofNat 64 s.me.arch.pc + 4 * f.x.signExtend 64).toNat
    let ok := fun (v : W64) => v.toNat % 4 = 0 ∧ v.toNat < 2 ^ 56
    exec (.br f) s = .next (goes target) ∧
    exec (.callS f) s = .next ((goes target).lands [s.entry 1 0 (.s 63 (BitVec.ofNat 64 (s.me.arch.pc + 4 * bundleLen s.me.hdr)))]) ∧
    (ok (s.me.arch.rs f.n) → exec (.bri f) s = .next (goes (s.me.arch.rs f.n).toNat)) ∧
    (ok (s.me.arch.rs 63) → exec (.ret f) s = .next (goes (s.me.arch.rs 63).toNat))

/-- Inside an active loop's body the control operations that R139 names fault ILLEGAL_OPERAND whatever their guard, and so does a LOOP or
LOOPSP that names an active lp register or whose body ends later than the enclosing one. -/
def Obligations.LoopBodyFaults : Prop :=
  ∀ (f : SF) (s : State), s.me.arch.inLoop = true →
    let stop := (Host.Outcome.next (s.fatal s.cur 0x14 s.me.arch.pc 0) : Out)
    let bodyEnd := s.bodyEnd s.cur (f.x.toNat / 2 ^ 11 % 64 + 1) (s.me.arch.pc + 4 * bundleLen s.me.hdr)
    (∀ j l, s.me.arch.loop = some (j, l) → ((s.me.arch.lps.getD (f.x.toNat / 2 ^ 9 % 4) {}).active = true ∨ l.stop < bodyEnd) →
      exec (.loopS f) s = stop ∧ exec (.loopsp f) s = stop) ∧
    exec (.br f) s = stop ∧ exec (.bri f) s = stop ∧ exec (.callS f) s = stop ∧ exec (.ret f) s = stop ∧ exec (.sstep f) s = stop ∧
    exec (.nodeS f) s = stop ∧ exec (.endCtx f) s = stop ∧ exec (.brk f) s = stop

/-- Outside a loop's body, or inside one as R139 allows it, LOOP enters a nest whose counts are not 0, for the product of its counts as
passes; LOOPSP enters its trip count + S − 1 passes and sets the stage predicates of pass 0 (R67, R137, R138). With a count of 0 the body,
each bundle of it checked, is passed over, and LOOPSP clears its stage predicates. LBRK of an idle loop has no effect (R140).
LBRK of an active loop (R140): that loop and those nested in it become idle, loops around it stay, and the bundle after its body is
next. -/
def Obligations.LoopEffects : Prop :=
  (∀ (f : SF) (s : State), Guarded f.g s →
     let ns := (List.range (f.x.toNat / 64 % 8 + 1)).map (fun j => (s.me.arch.rs (f.n + j)).toNat % 2 ^ 32)
     let n := (s.me.arch.rs f.n).toNat % 2 ^ 32
     let st := f.x.toNat / 64 % 8 + 1
     let i := f.x.toNat / 2 ^ 9 % 4
     let first := s.me.arch.pc + 4 * bundleLen s.me.hdr
     let body := f.x.toNat / 2 ^ 11 % 64 + 1
     let stop := s.bodyEnd s.cur body first
     let depth := (s.me.arch.lps.filter LoopReg.active).length
     let enter := fun (l : LoopReg) => s.modMe (fun x => { x with arch := { x.arch with lps := x.arch.lps.set i l } })
     (∀ j l, s.me.arch.loop = some (j, l) → (s.me.arch.lps.getD i {}).active = false ∧ stop ≤ l.stop) →
     ((∀ k ∈ ns, k ≠ 0) → exec (.loopS f) s = .next (enter
       { active := true, levels := ns.map (fun k => (0, k)), passes := ns.foldl (· * ·) 1, start := first, stop := stop, depth := depth })) ∧
     (n ≠ 0 → exec (.loopsp f) s = .next ((enter
       { active := true, sp := true, levels := [(0, n + st - 1)], passes := n + st - 1, trip := n, stages := st, start := first, stop := stop,
         depth := depth }).lands [s.entry 1 99 (.g (stageMask st) (stageVal st n 0))])) ∧
     (∀ t, s.bodyCheck s.cur body first = .ok t →
       let past := s.modMe (fun x => { x with nextPc := some t })
       (0 ∈ ns → exec (.loopS f) s = .next past) ∧ (n = 0 → exec (.loopsp f) s = .next (past.lands [s.entry 1 0 (.g (stageMask st) 0)]))) ∧
     (∀ e va, s.bodyCheck s.cur body first = .error (e, va) →
       let met := s.hit s.me.lid e (s.fetchWord s.cur va)
       (0 ∈ ns → exec (.loopS f) s = .next (met.fatal s.cur e va 0)) ∧ (n = 0 → exec (.loopsp f) s = .next (met.fatal s.cur e va 0)))) ∧
  (∀ (f : SF) (s : State), Guarded f.g s → (s.me.arch.lps.getD (f.x.toNat % 4) {}).active = false → exec (.lbrk f) s = .next s) ∧
  (∀ (f : SF) (s : State), Guarded f.g s →
     let l := s.me.arch.lps.getD (f.x.toNat % 4) {}
     l.active = true →
     ∃ t, exec (.lbrk f) s = .next t ∧ t.me.nextPc = some l.stop ∧
       t.me.arch.lps = s.me.arch.lps.map (fun k => if k.active = true ∧ l.depth ≤ k.depth then {} else k) ∧
       SameStorage s t ∧ SameOthers s t)

/-- SYSW lands its value under the rules of each selector (R144, R145, R256 to R258), a read-only selector nothing (R4), outside a
recording; RSEEK moves the q0 position and begins a record (R260, R402).
Reads at issue (R146, R251, R252): QMASK the valid mask of a latch's head entry (q0: all ones), GTBR the GTB count outside a
recording, SEMRD value, latch and code of a semaphore of the share. -/
def Obligations.SystemWrites : Prop :=
  (∀ (f : SF) (s : State), Guarded f.g s → s.me.rmode = 0 →
     let v := s.me.arch.rs f.n
     let lands := fun (a : Land) => (Host.Outcome.next (s.lands [s.entry 1 0 a]) : Out)
     let faults := exec (.sysw f) s = .next (s.fatal s.cur 0x14 s.me.arch.pc 0)
     let emin := (v.extractLsb' 0 8).toInt
     (f.n2 = 1 → (v.toNat < 64 → exec (.sysw f) s = lands (.fcr v)) ∧ (64 ≤ v.toNat → faults)) ∧
     (f.n2 = 2 → exec (.sysw f) s = lands (.fsrClear (v.setWidth 6))) ∧
     (f.n2 = 3 → let ok := fld v 0 23 = 0 ∧ 1 ≤ fld v 23 9 ∧ fld v 23 9 ≤ 254
       (ok → exec (.sysw f) s = lands (.sys 3 v)) ∧ (¬ ok → faults)) ∧
     (f.n2 = 4 → let ok := -126 ≤ emin ∧ emin ≤ (v.extractLsb' 8 8).toInt
       let old := s.me.arch.lscfg
       (ok → ∃ w : W64, exec (.sysw f) s = lands (.sys 4 w) ∧ w.extractLsb' 0 32 = v.extractLsb' 0 32 ∧ w.getLsbD 34 = old.getLsbD 34 ∧
         (∀ i, i = 32 ∨ i = 33 → w.getLsbD i = (old.getLsbD i && !v.getLsbD i)) ∧ w >>> 35 = 0) ∧ (¬ ok → faults)) ∧
     (f.n2 = 13 → exec (.sysw f) s = lands (.sys 13 (v &&& 0xF0FF_FFFF_FFFF_FFFF))) ∧
     (f.n2 = 14 → ∃ w : W64, exec (.sysw f) s = lands (.sys 14 w) ∧ w.extractLsb' 44 3 = 0 ∧ w.extractLsb' 59 2 = s.me.arch.tracecfg.extractLsb' 59 2 ∧
       ∀ i, (i < 44 ∨ 47 ≤ i) → i ≠ 59 → i ≠ 60 → w.getLsbD i = v.getLsbD i) ∧
     (f.n2 = 5 → exec (.sysw f) s = lands (.sys 5 v)) ∧
     (f.n2 = 6 → exec (.sysw f) s = lands (.sys 6 v)) ∧
     (7 ≤ f.n2 → f.n2 ≤ 12 → exec (.sysw f) s = lands .nothing) ∧
     exec (.rseek f) s = .next ((s.lands [s.entry 1 0 (.sys 6 (v <<< f.n2))]).modMe (fun x => { x with
       arch := { x.arch with recs := x.arch.recs ++ [(x.nextId, x.nextOrder)], recOpen := true } }))) ∧
  (∀ (f : SF) (s : State), Guarded f.g s →
     let q := f.x.toNat / 64 % 8
     let n := f.x.toNat / 64 % 256
     let lands := fun (v : W64) => (Host.Outcome.next (s.lands [s.entry 1 0 (.s f.n v)]) : Out)
     (q = 0 → s.me.q0gen = true → exec (.qmask f) s = lands 0xFFFF) ∧
     (∀ e, q ≠ 0 → s.me.share.mayRead q = true → s.me.qHead q = some e → exec (.qmask f) s = lands (e.mask.setWidth 64)) ∧
     (q ≠ 0 → s.me.share.mayRead q = true → s.me.qHead q = none → exec (.qmask f) s = .next (s.waits .blocked)) ∧
     (s.me.share.mayRead q = false → exec (.qmask f) s = .next (s.fatal s.cur 0x05 s.me.arch.pc 0)) ∧
     (s.me.rmode = 0 → exec (.gtbr f) s = lands s.gtb) ∧
     (s.me.share.hasSem (BitVec.ofNat 8 n) = true → exec (.semrd f) s = lands
       ((s.semVal.get n).setWidth 64 ||| (if s.semLatched (BitVec.ofNat 8 n) then 0x10000 else 0) ||| ((s.semCode.get n).setWidth 64 <<< 24))))

/-- SWAIT that is satisfied subtracts its threshold and goes on, with `.acq` as an acquire over all classes at PKG scope; one that is
not satisfied waits, and one whose semaphore has its latch set, `.soft` apart, faults with the latch's code; SSIG and `ssig.clr` enter the
holding buffer (R225, R252). A semaphore outside the share faults ACCESS_PROT. WAITT goes on where its target has passed and waits
otherwise (R251). -/
def Obligations.WaitsAndSignals : Prop :=
  ∀ (f : SF) (s : State), Guarded f.g s →
    let n := BitVec.ofNat 8 (f.x.toNat % 256)
    let t := f.x.toNat / 256 % 1024
    let acq := f.x.getLsbD 19
    let soft := f.x.getLsbD 18
    let v := s.semVal.get n.toNat
    let taken : State := { s with semVal := s.semVal.put n.toNat (BitVec.ofNat 16 (v.toNat - t)) }
    let target := s.me.arch.rs f.n + (if f.x.getLsbD 6 then s.me.arch.trel else 0)
    (s.me.share.hasSem n = true → (∀ e ∈ s.me.hold, e.kind ≠ .ssig ∧ e.kind ≠ .ssigClr) → (soft = true ∨ s.semLatched n = false) →
      (t ≤ v.toNat → s.swaitBefore s.cur n = false →
        exec (.swait f) s = .next ((if acq then taken.acquire 4 else taken).modMe (fun x => { x with wait := .run, ckptDue := true }))) ∧
      (v.toNat < t → exec (.swait f) s = .next (s.waits (.swait n t acq soft)))) ∧
    (s.me.share.hasSem n = true → (∀ e ∈ s.me.hold, e.kind ≠ .ssig ∧ e.kind ≠ .ssigClr) → soft = false → s.semLatched n = true →
      exec (.swait f) s = .next (s.fatal s.cur (s.semCode.get n.toNat) s.me.arch.pc 0)) ∧
    (s.me.share.hasSem n = false → s.me.hold = [] → exec (.swait f) s = .next (s.fatal s.cur 0x05 s.me.arch.pc 0)) ∧
    (s.me.share.hasSem n = true →
      exec (.ssig f) s = .next (s.holds { id := 0, kind := .ssig, sem := n, inc := t }) ∧
      exec (.ssigClr f) s = .next (s.holds { id := 0, kind := .ssigClr, sem := n, inc := t })) ∧
    (s.me.share.hasSem n = false → exec (.ssig f) s = .next (s.fatal s.cur 0x05 s.me.arch.pc 0) ∧
      exec (.ssigClr f) s = .next (s.fatal s.cur 0x05 s.me.arch.pc 0)) ∧
    exec (.waitt f) s = (if target.toNat ≤ s.gtb.toNat then .next s else .next (s.waits (.waitt target)))

/-- A hasp outside the share faults ACCESS_PROT, hasp0 ILLEGAL_OPERAND. BARA records the arrival, or waits where the context has already arrived in the phase; BARW waits for that phase, or returns at
once; SSTEP, its checkpoint taken and no timed command outstanding, arrives at the launch's hasp0 and waits (R249, R250). -/
def Obligations.Barriers : Prop :=
  ∀ (f : SF) (s : State), Guarded f.g s →
    let h := s.hasp f.n
    let bit := BitVec.ofNat 4 (2 ^ s.cur.val)
    let at' := fun (k : Nat) (h : Hasp) => ({ s with hasps := aput s.hasps k ({ h with arrived := h.arrived ||| bit }.settle s.gtb) } : State)
    let goesOn := fun (s : State) => s.modMe (fun x => { x with wait := .run, ckptDue := true })
    let faults := fun (e : Byte) => exec (.bara f) s = .next (s.fatal s.cur e s.me.arch.pc 0) ∧ exec (.barw f) s = .next (s.fatal s.cur e s.me.arch.pc 0)
    (f.n = 0 → faults 0x14) ∧ (f.n ≠ 0 → s.me.share.hasHasp f.n = false → faults 0x05) ∧
    (f.n ≠ 0 → s.me.share.hasHasp f.n = true →
      (h.arrived.getLsbD s.cur.val = false →
        exec (.bara f) s = .next (goesOn (at' f.n h)) ∧ exec (.barw f) s = .next (goesOn s)) ∧
      (h.arrived.getLsbD s.cur.val = true →
        exec (.bara f) s = .next (s.waits (.bara f.n h.phase)) ∧ exec (.barw f) s = .next (s.waits (.barw f.n h.phase)))) ∧
    (s.me.arch.inLoop = false → s.me.ckptDone = true → (∀ k ∈ s.me.cmds, k.timed = false) →
      let k := 64 + s.me.lid.toNat
      exec (.sstep f) s = .next ((at' k (s.hasp k)).modMe (fun x => { x with wait := .sstepHasp })))

/-- NODE, with an empty landing buffer, waits for the context's commands and calls, its sticky latches cleared and its index recorded;
with a result still due it faults ILLEGAL_NODE (R253). END waits for the commands and calls (R254). The checkpoint of each has been
taken before the bundle (R316). -/
def Obligations.NodesAndEnds : Prop :=
  ∀ (f : SF) (s : State), Guarded f.g s → s.me.arch.inLoop = false → s.me.ckptDone = true →
    let idx := BitVec.ofNat 12 (f.x.toNat / 16 % 4096)
    let live := BitVec.ofNat 4 (f.x.toNat % 16)
    let cleared := fun (a : Arch) => { a with latches := List.replicate 15 {} }
    (s.me.arch.landing = [] → exec (.nodeS f) s = .next (s.modMe (fun x => { x with
      wait := .node idx live, savedNode := idx, savedLive := live, arch := cleared x.arch }))) ∧
    (s.me.arch.landing ≠ [] → exec (.nodeS f) s = .next (s.fatal s.cur 0x11 s.me.arch.pc 0)) ∧
    exec (.endCtx f) s = .next (s.modMe (fun x => { x with wait := .ending, arch := cleared x.arch }))

/-- MARK (R255, R438, R447) outside a recording: with no drift log it changes nothing but the interlock trace that an excessive drift
arms; with one, it appends one record whose count is the log's first word; where that word's page is in a migration window the record waits
(R389). In a replay it compares the signature with the next entry of its kind, by the numbers and places of log 13, the validity flag's at
offset 8 included: the last match is kept by its bundle, a difference is reported, and it ends the launch with REPLAY_DIVERGED or drops the
recording of the launch, by RMODE (R448). That the report is kept in `State.diverged` and that entries are taken kind by kind is the model's
deduction (log 39).
BRK without the breakpoint enable has no effect; with it, the context is restored to its last checkpoint and stops there with the
code, but the first execution after the debugger has resumed it has no effect (R255). -/
def Obligations.Markers : Prop :=
  (∀ (f : SF) (s : State), Guarded f.g s → s.me.rmode = 0 →
     let drift : Int := (s.me.cycles : Int) - ((f.x.toNat * 16 : Nat) : Int)
     let base := s.me.arch.driftcfg.toNat / 2 ^ 12 % 2 ^ 44 * 2 ^ 12
     let arms := s.me.arch.tracecfg.getLsbD 62 = true ∧ 64 * (s.me.arch.driftcfg.toNat % 4096) < drift.natAbs
     (base = 0 → ¬arms → exec (.markS f) s = .next s) ∧
     (base = 0 → arms → exec (.markS f) s = .next (s.modMe (fun x => { x with traceArm := some (2 ^ (fld x.arch.tracecfg 55 4 + 8)) }))) ∧
     (∀ tn, base ≠ 0 → ¬arms → s.me.logWait = [] → s.logTr s.cur base = .ok tn →
       let n := s.memNat tn.pa 8
       let slot := base + 64 + 16 * (n % 2 ^ (fld s.me.arch.driftcfg 60 4 + 4))
       let counted := s.memPut tn.pa (leBytes 8 (n + 1))
       let rec_ := driftRec s.me.arch.pc 1 drift s.me.tick
       (tn.wp = false → (∀ t, s.logTr s.cur slot = .ok t → t.wp = false) → ∀ t, counted.logTr s.cur slot = .ok t →
         exec (.markS f) s = .next (counted.memPut t.pa rec_)) ∧
       (tn.wp = true → ∃ u, exec (.markS f) s = .next u ∧ u.mem = s.mem ∧ u.me = { s.me with logWait := [
         { base := base, logn := fld s.me.arch.driftcfg 60 4 + 4, bytes := rec_, bundle := s.me.arch.pc }] }))) ∧
  (∀ (f : SF) (s : State) (n : Nat) (w : W64), Guarded f.g s → s.me.mode = .live → 2 ≤ s.me.rmode → s.me.arch.driftcfg.toNat / 2 ^ 12 % 2 ^ 44 = 0 →
     s.me.arch.tracecfg.getLsbD 62 = false → s.rplNext s.cur kSIG = some (n, w) →
     let used : State := s.modMe (fun x => { x with rplAt := setNth x.rplAt kSIG (n + 1) })
     let told : State := { used with diverged := s.diverged ++ [{ lid := s.me.lid, bundle := s.me.arch.pc, sig := s.me.sig, recorded := w, last := s.me.lastMark }] }
     (w = s.me.sig → exec (.markS f) s = .next (used.modMe (fun x => { x with lastMark := some s.me.arch.pc }))) ∧
     (w ≠ s.me.sig → s.me.rmode = 2 → exec (.markS f) s = .next (told.fatal s.cur 0x13 s.me.arch.pc 0)) ∧
     (w ≠ s.me.sig → s.me.rmode = 3 → exec (.markS f) s = .next (told.dropRpl s.me.lid))) ∧
  (∀ (f : SF) (s : State), Guarded f.g s → s.me.arch.inLoop = false →
     (s.me.arch.tracecfg.getLsbD 63 = false → exec (.brk f) s = .next s) ∧
     (s.me.arch.tracecfg.getLsbD 63 = true → s.me.brkPassed = true → s.me.brkAt = s.me.arch.pc →
       exec (.brk f) s = .next (s.modMe (fun x => { x with brkPassed := false }))) ∧
     (s.me.arch.tracecfg.getLsbD 63 = true → s.me.brkPassed = false →
       exec (.brk f) s = .next ((s.trapRestore s.cur).modMe (fun x => { x with
         mode := .stopped, brkCode := f.x, brkAt := s.me.arch.pc, brkPassed := true }))))

/-! ### Scalar memory, the tile table and the shaper's registers -/

/-- A scalar access that may go ahead (R116, R386): below 2^56, aligned to its width, translated and allowed, in this package. -/
def Obligations.ScalarLoads : Prop :=
  ∀ (f : AF) (s : State) (t : Tr), Guarded f.g s →
    let n := 2 ^ f.w.toNat
    let va := (s.aA f + s.aImm f).toNat
    va < 2 ^ 56 → va % n = 0 → s.access s.me.arch s.me.asid .read va = .ok t → s.remote t.pa = false →
    ∃ u, exec (.lds f) s = .next u ∧
      (∃ a, u.me.queue = s.me.queue ++ [a] ∧ a.kind = .load ∧ a.id = s.me.nextId ∧ a.addrs = (List.range n).map (fun i => t.pa + i) ∧
        a.cls = f.cls ∧ a.dst = .s f.d.toNat n true) ∧
      (∃ e, u.me.arch.landing = s.me.arch.landing ++ [e] ∧ e.due = s.me.tick + 3 ∧ e.tok = s.me.nextId ∧ e.ready = false) ∧
      s.me.arch.SameRegs u.me.arch ∧ SameStorage s u ∧ SameOthers s u ∧ u.me.hold = s.me.hold

/-- STS (R115, R116, R289): the low bytes of s[d], lowest address first, enter the holding buffer for the address that the operands
give; no byte of memory changes before a checkpoint releases them. A release has taken its checkpoint. -/
def Obligations.ScalarStores : Prop :=
  ∀ (f : AF) (s : State) (t : Tr), Guarded f.g s → (f.q = 2 → s.me.ckptDone = true) →
    let n := 2 ^ f.w.toNat
    let va := (s.aA f + s.aImm f).toNat
    va < 2 ^ 56 → va % n = 0 → s.access s.me.arch s.me.asid .write va = .ok t →
    ∃ u, exec (.sts f) s = .next u ∧
      (∃ a, u.me.hold = s.me.hold ++ [a] ∧ a.kind = .store ∧ a.id = s.me.nextId ∧ a.cls = f.cls ∧
        a.rel = decide (f.q = 2) ∧ a.cells = (List.range n).map (fun i => (t.pa + i, (s.aD f).extractLsb' (8 * i) 8))) ∧
      u.me.arch = s.me.arch ∧ u.me.queue = s.me.queue ∧ SameStorage s u ∧ SameOthers s u

/-- AMO, its checkpoint taken, outside a replay, enters the context's queue once, for the bytes of its width from the place that its address
translates to, its result awaited in s[d] three ticks on; with `.sc` it takes the next ticket of its scope's tumbler (R118 to R121, R301). In
a replay it enters nothing and gives the result that it had (R121). FENCE, with nothing to wait for, goes on: a release leaves the state as it
is, an acquire drops the clean bytes below its scope and never waits; a release that has something to wait for stalls (R122, R297, R298). PROBE of a mapped page lands its size code, with bit 63 where the access is not allowed; of
an unmapped one it parks the context (R123, R124). -/
def Obligations.AtomicsFencesProbes : Prop :=
  ∀ (f : AF) (s : State), Guarded f.g s → s.me.ckptDone = true →
    (∀ t, let va := (s.aA f).toNat
      let n := if f.w = 0 then 4 else 8
      let sc := f.imm.toNat / 2 ^ 4 % 8
      let op := f.imm.toNat % 16
      let entry : Acc := {
        id := s.me.nextId, kind := .amo, cls := f.cls, addrs := (List.range n).map (fun i => t.pa + i), va := BitVec.ofNat 56 va,
        wp := t.wp, rel := decide (f.q = 2 ∨ f.q = 3 ∨ f.q = 4), acq := decide (f.q = 1 ∨ f.q = 3 ∨ f.q = 4), scope := BitVec.ofNat 3 sc, remote := s.remote t.pa,
        op := op, width := n, operand := s.aB f, expect := s.aD f, sr := decide (op = 11), dst := .s f.d.toNat n (decide (op < 10)), bundle := s.me.arch.pc }
      let awaits := fun (u : State) => ∃ e, u.me.arch.landing = s.me.arch.landing ++ [e] ∧ e.due = s.me.tick + 3 ∧ e.tok = s.me.nextId ∧ e.ready = false
      let frame := fun (u : State) => s.me.arch.SameRegs u.me.arch ∧ u.me.hold = s.me.hold ∧ SameStorage s u ∧ SameOthers s u
      va < 2 ^ 56 → va % n = 0 → s.access s.me.arch s.me.asid .both va = .ok t →
      (s.me.replay = [] → f.q ≠ 4 → ∃ u, exec (.amo f) s = .next u ∧ u.me.queue = s.me.queue ++ [entry] ∧ awaits u ∧ frame u) ∧
      (s.me.replay = [] → s.me.rmode = 0 → f.q = 4 → (sc = 4 ∨ sc = 5) → s.tumblerOk sc = true →
        ∃ u, exec (.amo f) s = .next u ∧ u.me.queue = s.me.queue ++ [{ entry with
            tumbler := if sc = 4 then 1 else 2, ticket := ((if sc = 4 then s.pkgTumbler else s.domTumbler) + 1) % 2 ^ 64 }] ∧
          u.pkgTumbler = s.pkgTumbler + (if sc = 4 then 1 else 0) ∧ u.domTumbler = s.domTumbler + (if sc = 4 then 0 else 1) ∧ awaits u ∧ frame u) ∧
      (∀ id r rest, s.me.replay = (id, r) :: rest → (f.q = 4 → s.tumblerOk sc = true) →
        ∃ u e, exec (.amo f) s = .next u ∧ u.me.queue = s.me.queue ∧ u.me.replay = rest ∧ u.me.arch.landing = s.me.arch.landing ++ [e] ∧
          e.due = s.me.tick + 3 ∧ (∀ v, r = some v → e.ready = true ∧ e.act = .s f.d.toNat v) ∧ (r = none → e.ready = false ∧ e.tok = id) ∧ frame u)) ∧
    (s.relPending s.cur s.me.nextId (f.imm.setWidth 16) (f.imm.toNat / 2 ^ 16 % 8) = false →
      (f.q = 2 → exec (.fence f) s = .next s) ∧
      (f.q = 3 → exec (.fence f) s = .next (s.acquire (f.imm.toNat / 2 ^ 16 % 8)))) ∧
    (f.q = 1 → exec (.fence f) s = .next (s.acquire (f.imm.toNat / 2 ^ 16 % 8))) ∧
    (s.relPending s.cur s.me.nextId (f.imm.setWidth 16) (f.imm.toNat / 2 ^ 16 % 8) = true → (f.q = 2 ∨ f.q = 3) →
      exec (.fence f) s = .next (s.waits (.stall 4))) ∧
    (let va := (s.aA f + s.aImm f).toNat
     va < 2 ^ 56 → s.me.repeats = false → s.me.hdr.getLsbD 1 = true → s.walkBad s.me.arch s.me.asid va = none →
      (∀ t, s.translate s.me.arch s.me.asid va = some t →
        exec (.probe f) s = .next ((s.tlbFill s.me.asid va).lands [s.entry 4 1 (.s f.d.toNat (BitVec.ofNat 64 (t.size +
          (if t.allows (if f.w = 0 then .read else if f.w = 1 then .write else .exec) then 0 else 2 ^ 63))))])) ∧
      (s.translate s.me.arch s.me.asid va = none → exec (.probe f) s = .next (s.park (BitVec.ofNat 56 va) f.w)))

/-- TSTAT and TDESC land the entry's fields as it stands (R128). Each TDEF and TFREE takes place once, whatever traps follow (R435): outside
a replay, TDEF of an EMPTY or READY tile defines it; TFREE of a READY tile makes it DRAINING and leaves an EMPTY one as it is; both stall in
FILLING or DRAINING (R126, R127). In a replay each passes by. -/
def Obligations.TileTable : Prop :=
  ∀ (f : AF) (s : State), Guarded f.g s →
    let n := f.imm.toNat % 256
    let k := 256 * s.myX + n
    let t := s.tile k
    s.me.share.hasTile n = true →
    (t.arrived < 2 ^ 24 → t.expected < 2 ^ 24 → t.base < 2 ^ 24 → t.size < 2 ^ 24 →
      (∃ v : W64, exec (.tstat f) s = .next (s.lands [s.entry 1 1 (.s f.d.toNat v)]) ∧ v.extractLsb' 0 2 = t.state ∧ v.extractLsb' 2 2 = t.owner ∧
        (v.extractLsb' 8 24).toNat = t.arrived ∧ (v.extractLsb' 32 24).toNat = t.expected ∧ v.extractLsb' 4 4 = 0 ∧ v.extractLsb' 56 8 = 0) ∧
      (∃ v : W64, exec (.tdesc f) s = .next (s.lands [s.entry 1 1 (.s f.d.toNat v)]) ∧ (v.extractLsb' 0 24).toNat = t.base ∧
        (v.extractLsb' 24 24).toNat = t.size ∧ v.extractLsb' 48 16 = t.tid)) ∧
    let done : Context := { s.me with tileDone := s.me.tileDone + 1 }
    ((t.state = 0 ∨ t.state = 2) → t.reserved = false → s.me.tileSkip = 0 →
      (tdefOk (s.aA f) (s.aB f) = true → s.claimedTile k = false → ∃ u, exec (.tdef f) s = .next u ∧ (u.tile k).base = (s.aA f).toNat ∧
        (u.tile k).size = (s.aB f).toNat % 2 ^ 24 ∧ (u.tile k).expected = (s.aB f).toNat / 2 ^ 24 % 2 ^ 24 ∧ (u.tile k).state = 0 ∧
        (u.tile k).arrived = 0 ∧ (∀ j, j ≠ k → u.tile j = s.tile j) ∧ u.me = done ∧ (∀ a, u.sp.get a = s.sp.get a)) ∧
      (t.state = 0 → exec (.tfree f) s = .next (s.modMe (fun _ => done))) ∧
      (t.state = 2 → ∃ u, exec (.tfree f) s = .next u ∧ (u.tile k).state = 3 ∧ (u.tile k).freeing = true ∧ (∀ j, j ≠ k → u.tile j = s.tile j) ∧
        u.me = done)) ∧
    ((t.state = 1 ∨ t.state = 3) → tdefOk (s.aA f) (s.aB f) = true → s.me.tileSkip = 0 →
      exec (.tdef f) s = .next s.tileStall ∧ exec (.tfree f) s = .next s.tileStall ∧ s.tileStall.me.wait = .stall 1) ∧
    (s.me.tileSkip ≠ 0 → let passed := (Host.Outcome.next (s.modMe (fun _ => { done with tileSkip := s.me.tileSkip - 1 })) : Out)
      (tdefOk (s.aA f) (s.aB f) = true → exec (.tdef f) s = passed) ∧ exec (.tfree f) s = passed)

/-- The configuration of extraction patterns and es registers (R129, R130): what lands at the end of the tick, for a pattern or a
descriptor that is valid; a register that an uncompleted call names faults SHAPER_BUSY (R56). -/
def Obligations.ShaperRegisters : Prop :=
  ∀ (f : AF) (s : State), Guarded f.g s →
    let d : BitVec 128 := s.aB f ++ s.aA f
    let n := (s.aB f).toNat
    let lands := fun (a : Land) => (Host.Outcome.next (s.lands [s.entry 1 1 a]) : Out)
    (bxOk d = true → exec (.bfxcfg f) s = lands (.bx f.d.toNat d)) ∧
    (s.esBusy f.d.toNat = false →
      (d.toNat / 2 ^ 60 = 0 → esOwn d ≠ 3 → esFmt d ≤ 8 → exec (.ssrcfg f) s = lands (.esCfg f.d.toNat (setFld d 57 1 0))) ∧
      exec (.ssrclr f) s = lands (.esClear f.d.toNat true) ∧
      exec (.ssrclrSatd f) s = lands (.esClear f.d.toNat false) ∧
      ((s.aA f).toNat < 384 → exec (.ssrwr f) s = lands (.esWord f.d.toNat (s.aA f).toNat ((s.aB f).setWidth 32)))) ∧
    (s.esBusy f.d.toNat = true → exec (.ssrcfg f) s = .next (s.fatal s.cur 0x10 s.me.arch.pc 0)) ∧
    ((esOwn (s.me.arch.es f.a.toNat) ≠ 2 ∨ s.esBusy f.a.toNat = false) →
      (n < 384 → exec (.ssrrd f) s = lands (.s f.d.toNat ((s.me.arch.esw.get (384 * f.a.toNat + n)).setWidth 64))) ∧
      (n = 384 → exec (.ssrrd f) s = lands (.s f.d.toNat ((s.me.arch.es f.a.toNat).setWidth 64))) ∧
      (n = 385 → exec (.ssrrd f) s = lands (.s f.d.toNat ((s.me.arch.es f.a.toNat).extractLsb' 64 64))))

/-! ### The matrix, engine, accumulator, cross-lane and vector slots -/

/-- MCALL of a launch that owns the stores (R185, R352, R464) adds a provisional call that latches the m registers and RKEY; it blocks
while four calls are outstanding, and faults ACCESS_PROT where the launch does not own the stores. MQUIET goes on where no call is
outstanding and stalls otherwise (R190). -/
def Obligations.MatrixCalls : Prop :=
  ∀ (f : SF) (s : State), Guarded f.g s →
    let n := (s.callsOf s.cur).length
    (s.sched.owner = some s.me.lid → n < 4 → ∃ t k, exec (.mcall f) s = .next t ∧ t.me.calls = s.me.calls ++ [k] ∧
      k.routine = BitVec.ofNat 8 (f.x.toNat % 256) ∧ k.m = (List.range 8).map s.me.arch.rm ∧ k.rkey = s.me.arch.rkey ∧ k.committed = false ∧
      k.bundle = s.me.arch.pc ∧ t.me.arch = s.me.arch ∧ SameStorage s t ∧ SameOthers s t) ∧
    (s.sched.owner = some s.me.lid → 4 ≤ n → exec (.mcall f) s = .next (s.waits .blocked)) ∧
    (s.sched.owner ≠ some s.me.lid → exec (.mcall f) s = .next (s.fatal s.cur 0x05 s.me.arch.pc 0)) ∧
    (n = 0 → exec (.mquiet f) s = .next s) ∧
    (n ≠ 0 → s.me.ckptDone = true → exec (.mquiet f) s = .next (s.waits (.stall 3)))

/-- The engine commands that read a descriptor (R228 to R231, R234): the one whose checks pass joins its engine's queue as a provisional
command with a copy of the 128 bytes, the command number, FCR, RKEY and TREL of its issue, and the command number advances; nothing
else changes. COLL also takes the communicator's next sequence number (R328); MCST has taken its checkpoint (R243). EQUIET reads no
descriptor (R247).
A command whose engine queue is full blocks; one whose descriptor is not 128-byte aligned, or whose virtual channel is 7, faults
ILLEGAL_OPERAND (R229, R230, R409). -/
def Obligations.EngineCommands : Prop :=
  (∀ (f : EF) (s : State), Guarded f.g s → s.tokensOk f = true →
     let a := s.eAddr f
     let keys := byteAddrs (spKey s.myX a) 128
     let d := s.spRead s.cur s.me.nextId keys
     let timed := decide (f.toff ≠ 0xFFFF)
     let room := fun (e : Engine) => (s.me.cmds.filter (fun c => c.eng == e && c.timed == timed)).length < (if e = .quiet then 4 else 16)
     let blocks := fun (i : Instr) (e : Engine) => ¬ room e → exec i s = .next (s.waits .blocked)
     let enters := fun (i : Instr) (e : Engine) (op : Nat) (bs : List Byte) =>
       ∃ t k, exec i s = .next t ∧ t.me.cmds = s.me.cmds ++ [k] ∧ k.eng = e ∧ k.op = op ∧ k.desc = bs ∧ k.ef = f ∧ k.timed = timed ∧
         k.id = s.me.arch.cmdno ∧ k.fcr = s.me.arch.fcr ∧ k.rkey = s.me.arch.rkey ∧ k.trel = s.me.arch.trel ∧ k.committed = false ∧ k.started = false ∧
         t.me.arch.cmdno = s.me.arch.cmdno + 1 ∧ s.me.arch.SameRegs t.me.arch ∧ SameStorage s t ∧ SameOthers s t
     (f.vc ≠ 7 → spRange a 128 = true → a % 128 = 0 → (∀ b ∈ keys, s.onItsWay s.cur true s.me.nextId b = false) →
       s.badAt .sp (keys.filter (fun b => (s.me.ownByte true s.me.nextId b).isNone)) = none →
       (copyCheck d s = .got () → blocks (.copy f) .copy) ∧
       (tloadCheck d s = .got () → blocks (.tload f) .weight) ∧
       (collCheck d s = .got () → blocks (.coll f) .coll) ∧
       (s.me.ckptDone = true → mcstCheck d s = .got () → blocks (.mcst f) .mcast) ∧
       (skaddCheck d s = .got () → blocks (.skadd f) .sketch) ∧
       (sksclCheck d s = .got () → blocks (.skscl f) .sketch) ∧
       (skzeroCheck d s = .got () → blocks (.skzero f) .sketch) ∧
       (loadCheck 8 8192 d s = .got () → blocks (.muload f) .copy) ∧
       (loadCheck 4 512 d s = .got () → blocks (.epload f) .copy) ∧
       (room .coll → collCheck d s = .got () → ∃ t k, exec (.coll f) s = .next t ∧ t.me.cmds = s.me.cmds ++ [k] ∧
         k.coll.seq = (s.me.arch.seqOf (clComm d)).getD 0 ∧ t.me.arch.seqOf (clComm d) = some (k.coll.seq + 1) ∧
         ∀ n, n ≠ clComm d → t.me.arch.seqOf n = s.me.arch.seqOf n) ∧
       (room .copy → copyCheck d s = .got () → enters (.copy f) .copy 0x01 d) ∧
       (room .weight → tloadCheck d s = .got () → enters (.tload f) .weight 0x02 d) ∧
       (room .coll → collCheck d s = .got () → enters (.coll f) .coll 0x03 d) ∧
       (room .mcast → s.me.ckptDone = true → mcstCheck d s = .got () → enters (.mcst f) .mcast 0x04 d) ∧
       (room .sketch → skaddCheck d s = .got () → enters (.skadd f) .sketch 0x05 d) ∧
       (room .sketch → sksclCheck d s = .got () → enters (.skscl f) .sketch 0x06 d) ∧
       (room .sketch → skzeroCheck d s = .got () → enters (.skzero f) .sketch 0x07 d) ∧
       (room .copy → loadCheck 8 8192 d s = .got () → enters (.muload f) .copy 0x08 d) ∧
       (room .copy → loadCheck 4 512 d s = .got () → enters (.epload f) .copy 0x09 d)) ∧
     (f.toff = 0xFFFF → room .quiet → enters (.equiet f) .quiet 0x0A [])) ∧
  (∀ (f : EF) (s : State), Guarded f.g s →
     ((f.vc = 7 ∨ s.eAddr f % 128 ≠ 0) →
       let faults := fun (i : Instr) => exec i s = .next (s.fatal s.cur 0x14 s.me.arch.pc 0)
       faults (.copy f) ∧ faults (.tload f) ∧ faults (.coll f) ∧ (s.me.ckptDone = true → faults (.mcst f)) ∧ faults (.skadd f) ∧ faults (.skscl f) ∧
         faults (.skzero f) ∧ faults (.muload f) ∧ faults (.epload f)) ∧
     (f.toff = 0xFFFF → s.tokensOk f = true → 4 ≤ (s.me.cmds.filter (fun c => c.eng == .quiet && c.timed == false)).length →
       exec (.equiet f) s = .next (s.waits .blocked)))

/-- The O slot on an accumulator tile of the share, rows that exist, no call in the way (R182, R183), for one lane group or all eight:
ORD lands the 16 words of each segment, OWR replaces them by v, OADD adds v to them as FP32 with RNE; every other accumulator word stays.
OZERO clears rows row to row + count − 1; OSCL multiplies each of their words by lane 0 of v; the other rows stay (R183).
No word that is read fails its check. That each write keeps the words it replaces, so that a trap gives them back, is the model's deduction
from R435 (log 37). -/
def Obligations.AccumulatorSegments : Prop :=
  (∀ (f : OF) (s : State), Guarded f.g s → Store.wf s.acc = true →
     let row := s.me.arch.rowOf f.st f.row
     let segs := if f.gs = 8 then (List.range 8).map (fun g => (g, g)) else [(f.gs.toNat, f.seg.toNat)]
     let i := fun (c l : Nat) => accIdx f.acc.toNat row (16 * c) + l
     let v := fun (g l : Nat) => s.me.arch.rv g f.v.toNat l
     let others := fun (t : State) => ∀ j, (∀ p ∈ segs, j < i p.2 0 ∨ i p.2 16 ≤ j) → t.acc.get j = s.acc.get j
     let undoes := fun (t : State) => t.me = { s.me with accUndo := t.me.accUndo }
     let undone := fun (t : State) => ∀ j, (t.acc.putAll t.me.accUndo).get j = (s.acc.putAll s.me.accUndo).get j
     let reads := s.badAt .acc (segs.flatMap (fun p => List.range' (i p.2 0) 16))
     s.me.share.hasAcc f.acc.toNat = true → row + f.cnt.toNat + 1 ≤ 128 →
     (∀ k ∈ s.callsOf s.cur, k.accs.getLsbD f.acc.toNat = true → k.born = s.me.tick) →
     (reads = none → exec (.ord f) s = .next (s.lands (segs.map (fun p =>
       s.entry 3 4 (.v p.1 f.v.toNat 0xFFFF ((List.range 16).map (fun l => s.acc.get (i p.2 l)))))))) ∧
     (∃ t, exec (.owr f) s = .next t ∧ (∀ p ∈ segs, ∀ l, l < 16 → t.acc.get (i p.2 l) = v p.1 l) ∧ others t ∧ undoes t ∧ undone t ∧
       SameOthers s t ∧ t.mem = s.mem ∧ t.sp = s.sp) ∧
     (reads = none → ∃ t, exec (.oadd f) s = .next t ∧ (∀ p ∈ segs, ∀ l, l < 16 → t.acc.get (i p.2 l) = (add32 (s.acc.get (i p.2 l)) (v p.1 l)).1) ∧
       others t ∧ undone t ∧ s.me.arch.SameRegs t.me.arch ∧ SameOthers s t ∧ t.mem = s.mem ∧ t.sp = s.sp)) ∧
  (∀ (f : OF) (s : State), Guarded f.g s → Store.wf s.acc = true →
     let row := s.me.arch.rowOf f.st f.row
     let lo := accIdx f.acc.toNat row 0
     let hi := accIdx f.acc.toNat (row + f.cnt.toNat + 1) 0
     let m := s.me.arch.rv f.gs.toNat f.v.toNat 0
     let undone := fun (t : State) => ∀ j, (t.acc.putAll t.me.accUndo).get j = (s.acc.putAll s.me.accUndo).get j
     s.me.share.hasAcc f.acc.toNat = true → row + f.cnt.toNat + 1 ≤ 128 →
     (∀ k ∈ s.callsOf s.cur, k.accs.getLsbD f.acc.toNat = true → k.born = s.me.tick) →
     (∃ t, exec (.ozero f) s = .next t ∧ (∀ j, t.acc.get j = if lo ≤ j ∧ j < hi then 0 else s.acc.get j) ∧ t.me = { s.me with accUndo := t.me.accUndo } ∧ undone t ∧ SameOthers s t ∧
       t.mem = s.mem ∧ t.sp = s.sp) ∧
     (s.badAt .acc (List.range' lo (128 * (f.cnt.toNat + 1))) = none → ∃ t, exec (.oscl f) s = .next t ∧ (∀ j, t.acc.get j = if lo ≤ j ∧ j < hi then (mul32 (s.acc.get j) m).1 else s.acc.get j) ∧
       undone t ∧ s.me.arch.SameRegs t.me.arch ∧ SameOthers s t ∧ t.mem = s.mem ∧ t.sp = s.sp))

/-- The X slot (R179, R180): copies, broadcasts, rotations and moves across the lane groups land in the lanes of the mask four ticks on,
XSUM and XMAX six ticks on with the reduction of the eight groups.
That the flags are those of the lanes written is the model's deduction (log 30). -/
def Obligations.CrossLane : Prop :=
  ∀ (f : XF) (s : State), Guarded f.g s →
    let mask := fun (g : Nat) => s.me.arch.kgrp f.fn.toNat g
    let src := fun (g : Nat) => (List.range 16).map (fun l => s.me.arch.rv g f.v.toNat l)
    let r := f.fn.toNat % 2 * 64 + f.h.toNat * 8 + f.j.toNat
    let lands := fun (es : List LandEntry) => (Host.Outcome.next (s.lands es) : Out)
    let reduced := fun (op : Nat → Nat → Nat × BitVec 6) => (List.range 16).map (fun l => reduceLane f.j.toNat op (fun g => s.me.arch.rv g f.v.toNat l))
    exec (.xcp f) s = lands [s.entry 4 5 (.v f.h.toNat f.d.toNat (mask f.h.toNat) (src f.j.toNat))] ∧
    exec (.xbc f) s = lands ((List.range 8).map (fun g => s.entry 4 5 (.v g f.d.toNat (mask g) (src f.j.toNat)))) ∧
    exec (.xshf f) s = lands ((List.range 8).map (fun g => s.entry 4 5 (.v g f.d.toNat 0xFFFF ((List.range 16).map (fun l =>
      s.me.arch.rv ((16 * g + l + 128 - r) % 128 / 16) f.v.toNat ((16 * g + l + 128 - r) % 128 % 16)))))) ∧
    exec (.xs2v f) s = lands [s.entry 4 5 (.v f.h.toNat f.d.toNat (mask f.h.toNat) (List.replicate 16 ((s.me.arch.rs f.v.toNat).setWidth 32)))] ∧
    exec (.xv2s f) s = lands [s.entry 4 5 (.s f.d.toNat ((s.me.arch.rv f.j.toNat f.v.toNat f.fn.toNat).setWidth 64))] ∧
    exec (.xsum f) s = lands [s.entry 6 5 (.v f.h.toNat f.d.toNat (mask f.h.toNat) ((reduced (xsumOp f.j.toNat)).map Prod.fst))
      (maskFlags (mask f.h.toNat) (reduced (xsumOp f.j.toNat)))] ∧
    exec (.xmax f) s = lands [s.entry 6 5 (.v f.h.toNat f.d.toNat (mask f.h.toNat) ((reduced (xmaxOp s.me.arch.fctl f.j.toNat)).map Prod.fst))
      (maskFlags (mask f.h.toNat) (reduced (xmaxOp s.me.arch.fctl f.j.toNat)))]

/-- The vector loads (R165 to R174) of one lane group or all eight: each group enters one load of the bytes it names and awaits its
register, changing no byte and no register; UNPK lands the unpacked lanes two ticks on (R173). Where all groups access memory, their
pages are in the TLB. -/
def Obligations.VectorLoads : Prop :=
  ∀ (f : VF) (s : State), Guarded f.g s →
    let a := s.vA f
    let n := tySize f.ty.toNat
    let gs := if f.gs = 8 then List.range 8 else [f.gs.toNat]
    let base := fun (stride g : Nat) => groupAddr f a stride g
    let enters := fun (i : Instr) (k : Nat) (sp : Bool) (bs : Nat → List Nat) (dst : Nat → LoadDst) =>
      ∃ t, exec i s = .next t ∧
        (∃ xs, t.me.queue = s.me.queue ++ xs ∧ xs.map (fun x => (x.id, x.kind, x.sp, x.addrs, x.dst, x.cls)) =
          gs.zipIdx.map (fun p => (s.me.nextId + p.2, AccKind.load, sp, bs p.1, dst p.1, f.cls))) ∧
        (∃ es, t.me.arch.landing = s.me.arch.landing ++ es ∧ es.map (fun e => (e.due, e.tok, e.ready)) =
          gs.zipIdx.map (fun p => (s.me.tick + (k - 1), s.me.nextId + p.2, false))) ∧
        s.me.arch.SameRegs t.me.arch ∧ SameStorage s t ∧ SameOthers s t ∧ t.me.hold = s.me.hold
    let reg := fun (g : Nat) => LoadDst.v g f.v.toNat f.ty.toNat 0xFFFF
    let part := fun (g : Nat) => LoadDst.v g f.v.toNat f.ty.toNat (partMask s f g)
    let near := fun (vas : List Nat) (ts : List Tr) => (f.gs = 8 → s.tlbFills vas = s) ∧
      ∀ t ∈ ts, s.remote t.pa = true → s.me.repeats = false ∧ s.me.ckptDone = true
    (∀ k : Nat → Nat, a.toNat % n = 0 → (∀ g ∈ gs, s.spAddr f.peer (base (16 * n) g) (16 * n) = .ok (k g)) →
      (f.q = 1 → ∃ ks, s.coverAll (s.ownTile s.cur) (gs.flatMap (fun g => byteAddrs (k g) (16 * n))) = some ks ∧ ∀ i ∈ ks, (s.tile i).state = 2) →
      enters (.ldv f) (if f.peer then 12 else 4) true (fun g => byteAddrs (k g) (16 * n)) reg) ∧
    (∀ ts : Nat → List Tr, a.toNat % n = 0 → (∀ g ∈ gs, s.memElts .read (rowAddrs (base (16 * n) g) n) = .ok (ts g) ∧
        near (rowAddrs (base (16 * n) g) n) (ts g)) →
      enters (.ldg f) 8 false (fun g => eltBytes n ((ts g).map Tr.pa)) reg) ∧
    (∀ ks : Nat → List Nat, a.toNat % 16 = 0 → (∀ g ∈ gs, s.spElts f.peer 16 ((List.range 4).map (fun r =>
        groupAddr f (a + BitVec.ofNat 64 (16 * (f.ty.toNat + 1) * r)) 16 g)) = .ok (ks g)) →
      enters (.ldt f) (if f.peer then 12 else 5) true (fun g => eltBytes 16 (ks g)) (fun g => .ldt g f.v.toNat)) ∧
    (∀ k : Nat → Nat, let p := s.me.arch.bx.get (f.ty.toNat % 4)
      let first := fun (g : Nat) => if f.gs = 8 then 64 * g else 0
      (∀ g ∈ gs, s.spAddr f.peer (a + BitVec.ofNat 64 (bxBytes p (first g)).1).toNat (bxBytes p (first g)).2 = .ok (k g)) →
      enters (.ldx f) (if f.peer then 12 else 5) true (fun g => byteAddrs (k g) (bxBytes p (first g)).2) (fun g => .ldx g f.v.toNat p (f.ty.getLsbD 2) (first g))) ∧
    (∀ ks : Nat → List Nat, a.toNat % n = 0 → f.q ≠ 1 → (∀ g ∈ gs, s.spElts f.peer n (laneAddrs s f a n g) = .ok (ks g)) →
      enters (.gath f) (if f.peer then 12 else 6) true (fun g => eltBytes n (ks g)) part) ∧
    (∀ ts : Nat → List Tr, a.toNat % n = 0 → f.q = 1 → (∀ g ∈ gs, s.memElts .read (laneAddrs s f a n g) = .ok (ts g) ∧
        near (laneAddrs s f a n g) (ts g)) →
      enters (.gath f) 8 false (fun g => eltBytes n ((ts g).map Tr.pa)) part) ∧
    exec (.unpk f) s = .next (s.lands [s.entry 3 6 (.v f.gs.toNat (f.imm.toNat / 16 % 32) 0xFFFF
      ((List.range 16).map (fun l => unpkLane f.ty.toNat (f.imm.toNat % 4) (s.me.arch.rv f.gs.toNat f.v.toNat l))))])

/-- The vector stores and atomics (R168 to R175) of one lane group or all eight: each group enters the holding buffer, or the queue for
an atomic on memory, with the cells or lanes it names; no byte of memory or scratchpad and no register changes at issue. Where all groups
access memory, their pages are in the TLB. That a SCAT to another package needs no checkpoint and no single repetition is the model's deduction
(log 50). -/
def Obligations.VectorStores : Prop :=
  ∀ (f : VF) (s : State), Guarded f.g s →
    let a := s.vA f
    let n := tySize f.ty.toNat
    let m := vamoSize f.ty.toNat
    let gs := if f.gs = 8 then List.range 8 else [f.gs.toNat]
    let same := fun (t : State) => t.me.arch = s.me.arch ∧ SameStorage s t ∧ SameOthers s t
    let enters := fun {α : Type} (i : Instr) (view : Acc → α) (want : Nat → α) =>
      ∃ t, exec i s = .next t ∧ (∃ xs, t.me.hold = s.me.hold ++ xs ∧
        xs.map (fun x => (x.id, x.cls, view x)) = gs.zipIdx.map (fun p => (s.me.nextId + p.2, f.cls, want p.1))) ∧
        t.me.queue = s.me.queue ∧ same t
    let low := fun (g : Nat) => (List.range 16).flatMap (fun l => leBytes n (s.me.arch.rv g f.v.toNat l).toNat)
    let near := fun (vas : List Nat) (ts : List Tr) => (f.gs = 8 → s.tlbFills vas = s) ∧
      ∀ t ∈ ts, s.remote t.pa = true → s.me.repeats = false ∧ s.me.ckptDone = true
    (∀ k : Nat → Nat, a.toNat % n = 0 → (∀ g ∈ gs, s.spAddr f.peer (groupAddr f a (16 * n) g) (16 * n) = .ok (k g)) →
      (f.q = 1 → s.fillBusy (gs.flatMap (fun g => byteAddrs (k g) (16 * n))) = false) →
      enters (.stv f) (fun x => (x.kind, x.sp, x.counted, x.cells))
        (fun g => (.store, true, decide (f.q = 1), (byteAddrs (k g) (16 * n)).zip (low g)))) ∧
    (∀ ts : Nat → List Tr, a.toNat % n = 0 → (∀ g ∈ gs, s.memElts .write (rowAddrs (groupAddr f a (16 * n) g) n) = .ok (ts g) ∧
        near (rowAddrs (groupAddr f a (16 * n) g) n) (ts g)) →
      enters (.stg f) (fun x => (x.kind, x.sp, x.cells))
        (fun g => (.store, false, (((ts g).map Tr.pa).zip (s.me.arch.rvs g f.v.toNat)).flatMap (fun p => cellsOf p.1 n p.2.toNat)))) ∧
    (∀ ks : Nat → List Nat, a.toNat % n = 0 → f.q ≠ 1 → (∀ g ∈ gs, s.spElts f.peer n (laneAddrs s f a n g) = .ok (ks g)) →
      enters (.scat f) (fun x => (x.kind, x.sp, x.cells)) (fun g => (.store, true, eltCells n (ks g) (laneVals s f g)))) ∧
    (∀ ts : Nat → List Tr, a.toNat % n = 0 → f.q = 1 → (∀ g ∈ gs, s.memElts .write (laneAddrs s f a n g) = .ok (ts g) ∧
        (f.gs = 8 → s.tlbFills (laneAddrs s f a n g) = s)) →
      enters (.scat f) (fun x => (x.kind, x.sp, x.cells)) (fun g => (.store, false, eltCells n ((ts g).map Tr.pa) (laneVals s f g)))) ∧
    (∀ ks : Nat → List Nat, a.toNat % m = 0 → f.q ≠ 1 → (f.ty = 3 ∨ f.ty = 5 → s.me.q0gen = true) →
      (∀ g ∈ gs, s.spElts f.peer m (laneAddrs s f a m g) = .ok (ks g)) → (f.q = 2 → s.fillBusy (gs.flatMap (fun g => eltBytes m (ks g))) = false) →
      enters (.vamo f) (fun x => (x.kind, x.sp, x.op, x.counted, x.lanes))
        (fun g => (.spAmo, true, f.ty.toNat, decide (f.q = 2), vamoLanes s f g (ks g)))) ∧
    (∀ ts : Nat → List Tr, a.toNat % m = 0 → f.q = 1 → s.me.ckptDone = true → s.me.replay = [] →
      (∀ g ∈ gs, s.memElts .both (laneAddrs s f a m g) = .ok (ts g) ∧ (f.gs = 8 → s.tlbFills (laneAddrs s f a m g) = s)) →
      ∃ t, exec (.vamo f) s = .next t ∧ (∃ xs, t.me.queue = s.me.queue ++ xs ∧ xs.map (fun x => (x.id, x.cls, x.kind, x.op, x.lanes)) =
        gs.zipIdx.map (fun p => (s.me.nextId + p.2, f.cls, AccKind.vamo, f.ty.toNat, vamoLanes s f p.1 ((ts p.1).map Tr.pa)))) ∧
        t.me.hold = s.me.hold ∧ same t)

/-- SKUPD enters one atomic with every valid lane of every group, SKQRY one query and its entries of q1 that nothing sees yet, PUSHQ one
load of the bytes of its groups, and one entry of q(4 + v) for each group, which that load has to supply (R176 to R178, R288, R396, R397). -/
def Obligations.SketchAndQueueOps : Prop :=
  ∀ (f : VF) (s : State), Guarded f.g s → s.me.qs.length = 8 →
    let gs := if f.gs = 8 then List.range 8 else [f.gs.toNat]
    let lane := fun (g r l : Nat) => s.me.arch.rv g r l
    let valid := fun (g r : Nat) => (List.range 16).filter (fun l => decide (lane g r l ≠ 0xFFFFFFFF))
    let len := fun (t : State) (q : Nat) => (t.me.qs.getD q {}).ents.length
    let n := tySize f.ty.toNat
    let q := 4 + f.v.toNat % 4
    (∀ t, sketchAt f s .both = .ok t → (f.q = 1 → s.me.q0gen = true) → s.me.ckptDone = true → s.me.replay = [] →
      ∃ u x, exec (.skupd f) s = .next u ∧ u.me.queue = s.me.queue ++ [x] ∧ x.kind = .skupd ∧ x.addrs = [t.pa] ∧ x.sr = decide (f.q = 1) ∧
        x.lanes.map (fun p => (p.1, p.2.1)) = gs.flatMap (fun g => (valid g (f.v.toNat + 1)).map (fun l =>
          ((lane g (f.v.toNat + 1) l).toNat, lane g f.v.toNat l))) ∧
        s.me.arch.SameRegs u.me.arch ∧ SameStorage s u ∧ SameOthers s u) ∧
    (∀ t, sketchAt f s .read = .ok t → len s 1 + gs.length ≤ 16 →
      ∃ u x, exec (.skqry f) s = .next u ∧ u.me.queue = s.me.queue ++ [x] ∧ x.kind = .skqry ∧ x.addrs = [t.pa] ∧
        x.lanes.map (fun p => (p.1, p.2.1)) = gs.zipIdx.flatMap (fun p => (valid p.1 f.v.toNat).map (fun l =>
          ((lane p.1 f.v.toNat l).toNat, BitVec.ofNat 32 (16 * p.2 + l)))) ∧
        len u 1 = len s 1 + gs.length ∧ s.me.arch.SameRegs u.me.arch ∧ SameStorage s u ∧ SameOthers s u) ∧
    (∀ k : Nat → Nat, (s.vA f).toNat % n = 0 → (∀ g ∈ gs, s.spAddr f.peer (groupAddr f (s.vA f) (16 * n) g) (16 * n) = .ok (k g)) →
      s.me.wait = .run → s.me.share.mayPush q = true → s.me.share.kind q = 1 → len s q + gs.length ≤ 16 →
      ∃ u x e es, exec (.pushq f) s = .next u ∧ u.me.queue = s.me.queue ++ [x] ∧
        x.id = s.me.nextId ∧ x.kind = .load ∧ x.sp = true ∧ x.cls = f.cls ∧ x.addrs = gs.flatMap (fun g => byteAddrs (k g) (16 * n)) ∧
        x.dst = .push q (s.me.qs.getD q {}).pushes gs.length f.ty.toNat ∧
        u.me.arch.landing = s.me.arch.landing ++ [e] ∧ e.due = s.me.tick + 3 ∧ e.tok = s.me.nextId ∧ e.ready = false ∧
        (u.me.qs.getD q {}).ents = (s.me.qs.getD q {}).ents ++ es ∧ es.length = gs.length ∧
        (∀ y ∈ es, y.vis = false ∧ y.due = s.me.tick + 4 ∧ y.tok = s.me.nextId) ∧
        s.me.arch.SameRegs u.me.arch ∧ SameStorage s u ∧ SameOthers s u)

/-! ### Triads -/

/-- A unit of a triad whose sources are there: each lane's result is the chained value for the next unit, is in all 16 lanes of the
unit's bypass register from the next tick (R66, R98), and from γ lands in v[dest] or k[dest − 32] in the lanes of the mask, or nowhere
(R97, R147, R149). Here for every integer, bitwise, selecting and moving operation, on integer lanes of every width (R152, R154 to R157).
Element j of the result of an operation on subelements is the operation's result for element j of the operands, and no other bit of
the lane depends on it (R150). -/
def Obligations.TriadWords : Prop :=
  (∀ (f : TF) (s : State), Guarded f.g s → f.dest.toNat < 48 ∨ 52 ≤ f.dest.toNat → (f.pos = .alpha → s.sourceReady f.srcA.toNat) →
     let g := f.grp.toNat
     let w := typeWidth f.typeAt
     let x := s.unitIn f
     let y := s.triadSrc g (ownSrc f)
     let gives := fun (i : Instr) (r : List (W32 × BitVec 6)) => exec i s = .next (triadAfter f s s.me.arch r)
     let flat := fun (r : List W32) => r.map (fun v => (v, (0 : BitVec 6)))
     let sub := fun (op : Nat → Nat → Nat) => List.zipWith (mapSub w (fun _ a b => (op a b, 0))) x y
     let num := fun (a : Nat) => toSigned w a
     let all := fun (b : Bool) => if b then 2 ^ w - 1 else 0
     gives (.unitNone f) (flat x) ∧
     (s.sourceReady (ownSrc f) →
       gives (.iadd f) (sub (fun a b => a + b)) ∧
       gives (.isub f) (sub (fun a b => a + (2 ^ w - b))) ∧
       gives (.imul f) (sub (fun a b => a * b)) ∧
       gives (.imulh f) (sub (fun a b => ofSigned w (num a * num b / ((2 ^ w : Nat) : Int)))) ∧
       gives (.triadAnd f) (sub (fun a b => a &&& b)) ∧
       gives (.triadOr f) (sub (fun a b => a ||| b)) ∧
       gives (.triadXor f) (sub (fun a b => a ^^^ b)) ∧
       gives (.triadShl f) (sub (fun a b => a <<< (b % w))) ∧
       gives (.triadShr f) (sub (fun a b => a >>> (b % w))) ∧
       gives (.triadSra f) (sub (fun a b => ofSigned w (num a / ((2 ^ (b % w) : Nat) : Int)))) ∧
       gives (.imin f) (sub (fun a b => if num b < num a then b else a)) ∧
       gives (.imax f) (sub (fun a b => if num a < num b then b else a)) ∧
       gives (.perm f) (flat (y.map (fun b => nth x (b.toNat % 16)))) ∧
       gives (.triadSel f) (flat ((x.zip y).zipIdx.map (fun p => if (s.me.arch.kgrp (8 + f.sel.toNat) g).getLsbD p.2 then p.1.1 else p.1.2))) ∧
       gives (.pack f) (flat (List.zipWith (packV f.sel.toNat) x y)) ∧
       (f.typeAt < 3 → gives (.cmplt f) (sub (fun a b => all (decide (num a < num b)))) ∧
         gives (.cmpeq f) (sub (fun a b => all (decide (num a = num b)))) ∧
         gives (.triadAbs f) (List.zipWith (mapSub w (fun _ a _ =>
           if num a = -((2 ^ (w - 1) : Nat) : Int) then (2 ^ (w - 1) - 1, fSAT) else ((num a).natAbs, 0))) x y)))) ∧
  (∀ (w : Nat) (op : Nat → Nat → Nat → Nat × BitVec 6) (x y : W32), w = 8 ∨ w = 16 ∨ w = 32 → ∀ j, j < 32 / w →
     fld (mapSub w op x y).1 (w * j) w = (op j (fld x (w * j) w) (fld y (w * j) w)).1 % 2 ^ w ∧
     (mapSub w op x y).2 &&& (op j (fld x (w * j) w) (fld y (w * j) w)).2 = (op j (fld x (w * j) w) (fld y (w * j) w)).2)

/-- The float, comparing and converting units (R153, R154, R158, R159, R163, R465) on float lanes of every format, the fused γ (R153)
and NRW on an es register that the triads own (R160 to R162): each result, with the flags of the lanes in the mask.
UF is as the model deduces it (log 8). -/
def Obligations.TriadFloats : Prop :=
  ∀ (f : TF) (s : State), Guarded f.g s → f.dest.toNat < 48 ∨ 52 ≤ f.dest.toNat → (f.pos = .alpha → s.sourceReady f.srcA.toNat) →
    s.sourceReady (ownSrc f) →
    let g := f.grp.toNat
    let t := f.typeAt
    let w := typeWidth t
    let x := s.unitIn f
    let y := s.triadSrc g (ownSrc f)
    let c := s.me.arch.fctl
    let gives := fun (i : Instr) (r : List (W32 × BitVec 6)) => exec i s = .next (triadAfter f s s.me.arch r)
    let lanes := fun (op : W32 → W32 → W32 × BitVec 6) => List.zipWith op x y
    let word := fun (r : Nat × BitVec 6) => ((BitVec.ofNat 32 r.1, r.2) : W32 × BitVec 6)
    gives (.triadCvt f) (lanes (cvtLane c t f.sel.toNat)) ∧
    gives (.srnd f) (lanes (fun a b =>
      let r := convV c (.sr b) t f.sel.toNat a.toNat
      word (r.1, if (typeFmt f.sel.toNat).isNone && r.2 &&& fSAT != 0 then r.2 ||| fNV else r.2))) ∧
    gives (.triadExp2 f) (lanes (fun a _ => exp2F c.daz c.ftz a)) ∧
    gives (.triadLog2 f) (lanes (fun a _ => log2F c.daz c.ftz a)) ∧
    gives (.triadRcp f) (lanes (fun a _ => rcpF c.daz c.ftz a)) ∧
    gives (.triadRsq f) (lanes (fun a _ => rsqF c.daz c.ftz a)) ∧
    (let i := fld f.sel 0 2
     esOwn (s.me.arch.es i) = 1 →
      let r := nrwLanes s.me.arch i g (s.triadMask f) x y
      exec (.triadNrw f) s = .next (triadAfter f s r.1 r.2)) ∧
    (∀ m, typeFmt t = some m →
      let num := fun (a : Nat) => m.dec c.daz a
      let sub := fun (op : Nat → Nat → Nat) => List.zipWith (mapSub w (fun _ a b => (op a b, 0))) x y
      let rounds := fun (x y : List W32) (op : W32 → Nat → Nat → Nat × BitVec 6) =>
        (x.zip y).zipIdx.map (fun p => mapSub w (fun j a b => op (s.laneRnd f p.2 j) a b) p.1.1 p.1.2)
      let both := fun (a b : Nat) => !(num a).isNan && !(num b).isNan
      let all := fun (b : Bool) => if b then 2 ^ w - 1 else 0
      gives (.fmin f) (sub (fMinMax m c.daz c.ftz false)) ∧
      gives (.fmax f) (sub (fMinMax m c.daz c.ftz true)) ∧
      gives (.cmplt f) (sub (fun a b => all (both a b && decide ((num a).cmp (num b) < 0)))) ∧
      gives (.cmpeq f) (sub (fun a b => all (both a b && decide ((num a).cmp (num b) = 0)))) ∧
      gives (.triadAbs f) (sub (fun a _ => absFlt m c.daz c.ftz a)) ∧
      ((c.srd = true → s.me.q0gen = true) →
        gives (.fmul f) (rounds x y (fun r a b => ((fMulF m c r a b).1, if f.fuse then 0 else (fMulF m c r a b).2))) ∧
        (fusedHere f = false → gives (.fadd f) (rounds x y (fun r a b => fAddF m c r false a b)) ∧
          gives (.fsub f) (rounds x y (fun r a b => fAddF m c r true a b))) ∧
        (fusedHere f = true →
          let sum := fun (neg : Bool) => ((s.chained g 0).zip (s.triadSrc g f.srcC.toNat)).zip y |>.zipIdx.map (fun p =>
            mapSub w (fun j a b =>
              let d := num (fld p.1.2 (w * j) w)
              let pr := (num a).mul (num b)
              let q := pr.1.add c.zneg (if neg then d.neg else d)
              let r := m.round (c.deflt (s.laneRnd f p.2 j)) c.satn c.ftz q.1
              (r.1, pr.2 ||| q.2 ||| r.2)) p.1.1.1 p.1.1.2)
          gives (.fadd f) (sum false) ∧ gives (.fsub f) (sum true))))

/-- A triad source that is a queue head of a latch the context may not read faults ACCESS_PROT, and blocks where the latch has no entry
(R65, R147); a result for q4 to q7 is pushed with the mask once the unit has otherwise done its work (R97, R148). -/
def Obligations.TriadQueues : Prop :=
  ∀ (f : TF) (s : State), Guarded f.g s → ∀ n i, unitInstr n f = some i →
    let queue := fun (c : Nat) => 32 ≤ c ∧ c < 40
    let closed := fun (c : Nat) => s.me.share.mayRead (c - 32) = false
    let own := ownSrc f
    let m := s.triadMask f
    (f.pos = .alpha → queue f.srcA.toNat → closed f.srcA.toNat → exec i s = .next (s.fatal s.cur 0x05 s.me.arch.pc 0)) ∧
    (f.pos = .alpha → queue f.srcA.toNat → ¬ closed f.srcA.toNat → ¬ s.sourceReady f.srcA.toNat → exec i s = .next (s.waits .blocked)) ∧
    (f.pos ≠ .alpha → n ≠ 0 → queue own → ¬ closed own → ¬ s.sourceReady own → exec i s = .next (s.waits .blocked)) ∧
    (∀ i', unitInstr n ({ f with dest := 63 } : TF) = some i' → f.pos = .gamma → 48 ≤ f.dest.toNat → f.dest.toNat < 52 →
      s.sourceReady own → s.me.arch.fctl.srd = false → (∀ j, j < 4 → esOwn (s.me.arch.es j) = 1) → Store.wf s.casc = true →
      ∃ t, exec i' s = .next t ∧ exec i s = .next (t.pushQ (f.dest.toNat - 44) 3
        ⟨m, (List.range 16).map (fun l => if m.getLsbD l then t.casc.get (cascIdx f.grp.toNat 2 l) else 0)⟩))

/-! ### Microprogram words, epilogue instructions, the management hart -/

/-- The flow and parameter words (R201, R202, R203): the next word or the target, the parameter register that changes, the semaphore that
changes, the source that is named; nothing else.
A word of a running call whose must-be-zero fields or codes are not as the spec assigns them faults ILLEGAL_OPERAND, with the call's
identity; so does an epilogue instruction of a running DRN (R191, R199, R216). -/
def Obligations.WordFlow : Prop :=
  (∀ (f : WF) (s : State) (r : CallRun), s.run = some r → r.epi = none → r.ended = false →
     let goes := fun (s : State) (r : CallRun) => (Host.Outcome.next { s with run := some { r with word := r.word + 1, stallSince := none, mismatch := 0, claimed := [] } } : Out)
     let jumps := fun (r : CallRun) => (Host.Outcome.next { s with run := some { r with word := f.imm.toNat % 8192, stallSince := none } } : Out)
     let p := fun (i : Nat) => nth r.p (i % 8)
     let sets := fun (i : Nat) (v : W64) => { r with p := r.p.set (i % 8) v }
     let n := f.f3
     let k := f.f4.toNat % 16
     let imm : W64 := f.imm.signExtend 64
     let c := p f.f0.toNat - 1
     let a := p f.f0.toNat
     let b := p f.f1.toNat
     let q := f.f2.toNat % 8
     let taken := if q = 0 then decide (a = b) else if q = 1 then decide (a ≠ b) else if q = 2 then decide (a.toInt < b.toInt)
       else if q = 3 then decide (b.toInt ≤ a.toInt) else if q = 4 then decide (a.toNat < b.toNat) else decide (b.toNat ≤ a.toNat)
     let src : Src := { tload := f.f0.getLsbD 3, preg := f.f0.toNat % 8, fmt := f.f1.setWidth 4, sreg := f.f2.toNat % 8, stride := f.imm.toNat }
     let mine := (s.ctx r.ctx).share.hasSem n = true
     let v := (s.semVal.get n.toNat).toNat
     (Instr.wf (.munop f) = true → exec (.munop f) s = goes s r) ∧
     (Instr.wf (.mend f) = true → exec (.mend f) s = .next { s with run := some { r with ended := true } }) ∧
     (Instr.wf (.mlp f) = true → exec (.mlp f) s = if c = 0 then goes s (sets f.f0.toNat c) else jumps (sets f.f0.toNat c)) ∧
     (Instr.wf (.mbrn f) = true → exec (.mbrn f) s = if taken then jumps r else goes s r) ∧
     (Instr.wf (.padd f) = true → exec (.padd f) s = goes s (sets f.f0.toNat (p f.f1.toNat + imm))) ∧
     (Instr.wf (.pset f) = true → exec (.pset f) s = goes s (sets f.f0.toNat
       (if f.f4 = 0 then imm
        else if f.f4 = 1 then (a &&& ~~~(0x0000_FFFF_FF00_0000 : W64)) ||| ((f.imm.setWidth 64) <<< 24)
        else (a.setWidth 48).setWidth 64 ||| (((f.imm.setWidth 16).setWidth 64) <<< 48)))) ∧
     (Instr.wf (.wstr f) = true → exec (.wstr f) s = goes s { r with wsrc := some src }) ∧
     (Instr.wf (.astr f) = true → exec (.astr f) s = goes s { r with asrc := some src, useChain := false }) ∧
     (Instr.wf (.mwait f) = true → mine → s.semLatched n = false → s.swaitAny n = false →
       exec (.mwait f) s = if k ≤ v then goes { s with semVal := s.semVal.put n.toNat (BitVec.ofNat 16 (v - k)) } r else .next s) ∧
     (Instr.wf (.msig f) = true → mine → v + k ≤ 65535 →
       exec (.msig f) s = goes { s with semVal := s.semVal.put n.toNat (BitVec.ofNat 16 (v + k)) } r)) ∧
  (∀ (i : Instr) (s : State) (r : CallRun), s.run = some r → i.wf = false → s.arrayFenced = false →
     let faults := exec i s = .next { s.fatal r.ctx 0x14 r.call.bundle (callIdent r.call.routine r.word) with run := none }
     (i.place = .word → r.epi = none → r.ended = false → faults) ∧
     (i.place = .epi → r.epi ≠ none → faults))

/-- The words that fill a weight bank, clear accumulator rows, begin a drain, narrow rows for the chain, and store the checksum counts (R204,
R205, R206, R210, R212, R214). -/
def Obligations.WordStores : Prop :=
  ∀ (f : WF) (s : State) (r : CallRun), s.run = some r → r.epi = none → r.ended = false →
    let moved := fun (t : State) (r' : CallRun) => t.run = some { r' with word := r.word + 1, stallSince := none, mismatch := 0, claimed := [] }
    let x := s.ctx r.ctx
    let t := f.f0.toNat % 8
    let b := f.f0.toNat % 2
    let k := f.f3.toNat + 256 * (f.f4.toNat % 2) + 1
    let p := fun (i : Nat) => nth r.p (i % 8)
    let imm : W64 := f.imm.signExtend 64
    let put := fun (bk : Bank) => if b = 0 then { r with wb0 := bk } else { r with wb1 := bk }
    let bank := if b = 0 then r.wb0 else r.wb1
    let rows := f.f4.toNat + 1
    let mine := x.share.hasAcc t = true
    let es := x.arch.es (f.f1.toNat % 4)
    let off := (p f.f0.toNat + imm).toNat
    (Instr.wf (.zacc f) = true → mine → Store.wf s.acc = true → ∃ u, exec (.zacc f) s = .next u ∧ moved u r ∧
      (∀ j, u.acc.get j = if accIdx t f.f3.toNat 0 ≤ j ∧ j < accIdx t (f.f3.toNat + rows) 0 then 0 else s.acc.get j) ∧
      { u with acc := s.acc, run := s.run, bad := s.bad } = s ∧ u.bad = s.mended .acc (List.range' (accIdx t f.f3.toNat 0) (128 * rows))) ∧
    (Instr.wf (.wld f) = true → ∀ src blk rest, r.wsrc = some src → src.tload = true → k ≤ kPass src.fmt.toNat → f.imm = 0 →
      x.wbuf = blk :: rest → blk.fmt = src.fmt → blk.k = k →
      ∃ u, exec (.wld f) s = .next u ∧ moved u (put (bankOfBlock blk)) ∧ (u.ctx r.ctx).wbuf = rest ∧ u.acc = s.acc ∧ u.sp = s.sp ∧ u.mem = s.mem) ∧
    (Instr.wf (.wld f) = true → ∀ src u bs sc, r.wsrc = some src → src.tload = false → k ≤ kPass src.fmt.toNat →
      readRows s r src 128 k (nth r.p src.preg + imm) = .got (u, bs, sc) →
      ∃ v, exec (.wld f) s = .next v ∧ moved v (put { full := true, fmt := src.fmt, rows := bs, scales := sc }) ∧ { v with run := u.run } = u) ∧
    (Instr.wf (.spsel f) = true → bank.full = true → bank.rows.length % 2 = 0 → class8 bank.fmt.toNat = true →
      ∀ m, s.readReady r.ctx (p (f.f0.toNat / 8) + imm).toNat (32 * bank.rows.length) = .got m →
      (∀ g n, g < bank.rows.length / 2 → n < 128 → (metaIdx m g n).1 < (metaIdx m g n).2) →
      ∃ u, exec (.spsel f) s = .next u ∧ moved u (put { bank with hasMeta := true, mdata := m }) ∧ { u with run := s.run } = s) ∧
    (Instr.wf (.achn f) = true → mine → esOwn es = 2 → ∀ cf, chainFmt (esFmt es) = some cf → (cf < 8 ∨ esAxisCol es = false) →
      s.badAt .acc (List.range' (accIdx t f.f3.toNat 0) (128 * rows)) = none →
      let cols := f.imm.toNat % 128 + 1
      let o := chainRows s r t (f.f1.toNat % 4) cols rows f.f3.toNat (x.arch.tileStart (f.f1.toNat % 4) f.f3.toNat rows cols)
      ∃ u, exec (.achn f) s = .next u ∧ (u.ctx r.ctx).arch = o.2.2.1 ∧ u.acc = s.acc ∧
        moved u { r with chain := some { fmtCode := cf, cols, rows := o.1, scales := o.2.1, tile := t }, useChain := true, nAchn := r.nAchn + 1, flags := r.flags ||| o.2.2.2 }) ∧
    (Instr.wf (.drn f) = true → mine → s.badAt .acc (List.range' (accIdx t f.f3.toNat 0) 128) = none → ∃ u e, exec (.drn f) s = .next u ∧ u.run = some { r with epi := some e, stallSince := none } ∧
      e.row = f.f3.toNat ∧ e.row0 = f.f3.toNat ∧ e.last = f.f3.toNat + f.f4.toNat ∧ e.word = 0 ∧
      e.prog = (if f.f1.getLsbD 3 then f.f1.toNat % 8 else fld (nth r.call.m 7) 24 3) ∧
      e.x.headD [] = (List.range 128).map (fun n => s.acc.get (accIdx t f.f3.toNat n)) ∧ u.acc = s.acc ∧ u.sp = s.sp ∧ u.mem = s.mem) ∧
    (Instr.wf (.cksv f) = true → ∀ c, s.coverAll (s.ownTile r.ctx) (byteAddrs (spKey s.myX off) 16) = some [c] → off + 16 ≤ 0x180000 →
      s.spFenced (byteAddrs (spKey s.myX off) 16) = false →
      ∃ u, exec (.cksv f) s = .next u ∧ u.sp = s.sp.putAll ((List.range' (spKey s.myX off) 16).zip
          (leBytes 4 (min r.verif (2 ^ 32 - 1)) ++ leBytes 4 (min r.reexec (2 ^ 32 - 1)) ++ List.replicate 8 0)) ∧
        moved u (if f.f0.getLsbD 3 then { r with verif := 0, reexec := 0 } else r) ∧ u.acc = s.acc ∧ u.mem = s.mem)

/-- RUN and OPRK (R37 to R39, R207 to R209) once every row is readable and no word read fails its check: each accumulator word of the rows named becomes the sum of its old
value and its products, group by group in increasing k; every other accumulator word stays. -/
def Obligations.WordProducts : Prop :=
  ∀ (f : WF) (s : State) (r : CallRun), s.run = some r → r.epi = none → r.ended = false → s.arrayFenced = false → Store.wf s.acc = true →
    let t := f.f0.toNat % 8
    (s.ctx r.ctx).share.hasAcc t = true →
    let bk := if f.f0.getLsbD 3 then r.wb1 else r.wb0
    let sparse := f.f0.getLsbD 4
    let k := bk.rows.length
    let w := (bk.rows.zip bk.scales).map (fun p => rowVals bk.fmt.toNat p.1 p.2 128)
    (∀ (a : ASource) (av : Nat → List FV), Instr.wf (.runW f) = true → r.aSource = some a → bk.full = true → (sparse = true → bk.hasMeta = true) →
      (a.fmt = 3 ↔ bk.fmt = 3) → (∀ c, a = .chain c → f.imm.toNat < 128 ∧ f.imm.toNat + f.f4.toNat + 1 ≤ c.rows.length ∧ c.tile ≠ t) →
      s.badAt .acc (List.range' (accIdx t f.f3.toNat 0) (128 * (f.f4.toNat + 1))) = none →
      (∀ i, i ≤ f.f4.toNat → aRow s r a f.imm i (if sparse then 2 * k else k) = .got (s, av i)) →
      ∃ u, exec (.runW f) s = .next u ∧
        (∀ i n, i ≤ f.f4.toNat → n < 128 → u.acc.get (accIdx t (f.f3.toNat + i) n) =
          (accWord (decide (a.fmt = 0) && decide (bk.fmt = 0)) (decide (bk.fmt = 3)) (s.acc.get (accIdx t (f.f3.toNat + i) n))
            (runPairs bk w sparse (av i) n)).1) ∧
        (∀ j, (j < accIdx t f.f3.toNat 0 ∨ accIdx t (f.f3.toNat + f.f4.toNat + 1) 0 ≤ j) → u.acc.get j = s.acc.get j) ∧
        { u with acc := s.acc, run := s.run, bad := s.bad } = s ∧ u.run.map (fun r' => (r'.word, r'.p)) = some (r.word + 1, r.p)) ∧
    (∀ sa sw ar asc br bsc, Instr.wf (.oprk f) = true → r.aSource = some (.sp sa) → r.wsrc = some sw → sw.tload = false → (sa.fmt = 3 ↔ sw.fmt = 3) →
      s.badAt .acc (List.range' (accIdx t 0 0) (128 * 128)) = none →
      let n := f.f3.toNat + 256 * (f.f4.toNat % 2) + 1
      readRows s r sa 128 n (nth r.p sa.preg) = .got (s, ar, asc) → readRows s r sw 128 n (nth r.p sw.preg) = .got (s, br, bsc) →
      let av := (ar.zip asc).map (fun p => rowVals sa.fmt.toNat p.1 p.2 128)
      let bv := (br.zip bsc).map (fun p => rowVals sw.fmt.toNat p.1 p.2 128)
      ∃ u, exec (.oprk f) s = .next u ∧
        (∀ i j, i < 128 → j < 128 → u.acc.get (accIdx t i j) =
          (accWord (decide (sa.fmt = 0) && decide (sw.fmt = 0)) (decide (sw.fmt = 3)) (s.acc.get (accIdx t i j))
            ((av.zip bv).map (fun q => (q.1.getD i (.fin false 0 0), q.2.getD j (.fin false 0 0))))).1) ∧
        (∀ j, (j < accIdx t 0 0 ∨ accIdx t 128 0 ≤ j) → u.acc.get j = s.acc.get j) ∧
        { u with acc := s.acc, run := s.run, bad := s.bad } = s ∧ u.run.map (fun r' => (r'.word, r'.p)) = some (r.word + 1, r.p))

/-- The epilogue instructions on the 128 lanes of a row (R218 to R221): xd takes the results lane by lane, the call's flags grow by theirs,
the program goes on at its next instruction; nothing else changes.
UF is as the model deduces it (log 8). -/
def Obligations.EpilogueLanes : Prop :=
  ∀ (f : PF) (s : State) (r : CallRun) (e : EpiRun), s.run = some r → r.epi = some e →
    let a := e.x.getD f.a.toNat []
    let b := e.x.getD f.b.toNat []
    let c := e.x.getD f.c.toNat []
    let gives := fun (i : Instr) (v : List (W32 × BitVec 6)) => i.wf = true →
      let e' := { e with word := e.word + 1, x := e.x.set f.d.toNat (v.map Prod.fst) }
      exec i s = .next { s with run := some { r with flags := v.foldl (fun o p => o ||| p.2) r.flags, stallSince := none, epi := some e' } }
    let flat := fun (v : List W32) => v.map (fun w => (w, (0 : BitVec 6)))
    let hi := fun (u v : W32) => BitVec.ofNat 32 (fMinMax f32 false false true u.toNat v.toNat)
    let lo := fun (u v : W32) => BitVec.ofNat 32 (fMinMax f32 false false false u.toNat v.toNat)
    let abc := fun (op : W32 → W32 → W32 → W32) => flat (List.zipWith (fun u p => op u p.1 p.2) a (b.zip c))
    let scale : W32 := (nth r.p (f.f.toNat % 8)).setWidth 32
    gives (.epiAdd f) (List.zipWith add32 a b) ∧
    gives (.epiMul f) (List.zipWith mul32 a b) ∧
    gives (.epiFma f) (List.zipWith (fun u p => fma32V (dec32 u) (dec32 p.1) (dec32 p.2)) a (b.zip c)) ∧
    gives (.epiMax f) (flat (List.zipWith hi a b)) ∧
    gives (.epiMin f) (flat (List.zipWith lo a b)) ∧
    gives (.relu f) (flat (a.map reluV)) ∧
    (s.badAt .ep (List.range' (64 * (f.f.toNat % 8)) 64) = none →
      gives (.epiTbl f) (a.map (tblV ((List.range 64).map (fun i => s.ep.get (64 * (f.f.toNat % 8) + i)))))) ∧
    gives (.epiExp2 f) (a.map (exp2F false false)) ∧
    gives (.epiCvt f) (a.map (epiCvtV (f.f.toNat % 8))) ∧
    gives (.scal f) (a.map (fun u => mul32 u scale)) ∧
    gives (.clmp f) (abc (fun u v w => lo (hi u v) w)) ∧
    gives (.epiSel f) (abc (fun u v w => if w ≠ 0 then u else v)) ∧
    gives (.rmax f) (List.replicate 128 (tree (fun u v => (hi u v, 0)) a)) ∧
    gives (.rsum f) (List.replicate 128 (tree add32 a))

/-- The epilogue instructions that reach past the row (R212, R217, R220, R222 to R224): LDB loads lanes from scratchpad, NRW narrows through
an es register that the sequencer owns, WRT writes the row's bytes and then its scale
records, which wait alone where their page takes no writes (R389), PUSH appends eight entries to q2, DONE goes to the next row or ends
the DRN. That the entries of a PUSH are seen at once is the model's deduction (log 34). -/
def Obligations.EpilogueEffects : Prop :=
  ∀ (f : PF) (s : State) (r : CallRun) (e : EpiRun), s.run = some r → r.epi = some e →
    let moved := fun (u : State) (r' : CallRun) (e' : EpiRun) =>
      u.run = some { r' with epi := some { e' with word := e.word + 1 }, stallSince := none }
    let x := s.ctx r.ctx
    let a := e.x.getD f.a.toNat []
    let p := fun (i : Nat) => nth r.p (i % 8)
    let mode := f.f.toNat % 4
    let es := x.arch.es (f.f.toNat % 4)
    let t := e.w.f0.toNat % 8
    let nextOk := e.row < e.last → s.badAt .acc (List.range' (accIdx t (e.row + 1) 0) 128) = none
    (Instr.wf (.epiDone f) = true → e.w.f1.getLsbD 4 = false → nextOk →
      exec (.epiDone f) s = .next { s with run := some (if e.row < e.last then
        { r with epi := some { e with row := e.row + 1, word := 0, x := e.x.set 0 ((List.range 128).map (fun n => s.acc.get (accIdx t (e.row + 1) n))) }, stallSince := none }
        else { r with epi := none, nDrn := r.nDrn + 1, word := r.word + 1, stallSince := none, mismatch := 0, claimed := [] }) }) ∧
    (Instr.wf (.epiDone f) = true → e.w.f1.getLsbD 4 = true → nextOk → Store.wf s.acc = true → ∃ u, exec (.epiDone f) s = .next u ∧
      (∀ j, u.acc.get j = if accIdx t e.row 0 ≤ j ∧ j < accIdx t (e.row + 1) 0 then 0 else s.acc.get j) ∧
      { u with acc := s.acc, run := s.run, bad := s.bad } = s) ∧
    (Instr.wf (.ldb f) = true →
      let base := (p f.a.toNat + BitVec.ofNat 64 (4 * (f.f.toNat / 4 % 8192))).toNat
      let off := if mode = 2 then (base + 4 * (e.row - e.row0)) % 2 ^ 64 else base
      ∀ bs, s.readReady r.ctx off (if mode = 0 then 512 else if mode = 1 then 256 else 4) = .got bs →
      let lane := fun (n : Nat) => BitVec.ofNat 32 (if mode = 0 then ofLe ((bs.drop (4 * n)).take 4)
        else if mode = 1 then (widenF bf16 (ofLe ((bs.drop (2 * n)).take 2))).toNat else ofLe bs)
      ∃ u, exec (.ldb f) s = .next u ∧ moved u r { e with x := e.x.set f.d.toNat ((List.range 128).map lane) } ∧ { u with run := s.run } = s) ∧
    (Instr.wf (.epiNrw f) = true → esOwn es = 2 → ((targetOf (esFmt es)).kbM = none ∨ esAxisCol es = false) →
      let o := shapeRow x.arch (f.f.toNat % 4) e.row a (callRnd r e.row r.nDrn 0xE0)
      ∃ u, exec (.epiNrw f) s = .next u ∧ (u.ctx r.ctx).arch = o.a ∧ u.sp = s.sp ∧ u.acc = s.acc ∧ u.mem = s.mem ∧
        moved u { r with flags := r.flags ||| o.flags } { e with x := e.x.set f.d.toNat (o.ys.zipIdx.map (fun q =>
          shapeLane (targetOf (esFmt es)).kbM.isSome q.1 (o.recs.getD (q.2 / 16) 0))) }) ∧
    (Instr.wf (.wrt f) = true →
      let off := (p (e.w.f0.toNat / 8) + BitVec.ofNat 64 ((e.row - e.row0) * e.w.imm.toNat + 64 * (f.f.toNat / 128 % 256))).toNat
      let d := x.arch.es (f.f.toNat / 4 % 4)
      let m := ((targetOf (esFmt d)).kbM).getD 0
      let cells := (wrtBytes mode m a).zipIdx.map (fun q => (spKey s.myX off + q.2, q.1))
      ∀ v, off + cells.length ≤ 0x180000 → (if e.pushed = 0 then s.fillWrite r.ctx cells = .got v else v = s) →
      let recs := scaleCells v r.ctx (p (f.f.toNat / 16)).toNat (2 * (m + 1)) ((List.range 8).map (fun b => (off + b * (2 * (m + 1)), fld (nth a (16 * b)) 16 16)))
      let at' := fun (u : State) (word pushed : Nat) =>
        u.run.map (fun r' => r'.epi.map (fun e' => (e'.word, e'.pushed, e'.x))) = some (some (word, pushed, e.x))
      (∀ mc, (if mode = 3 then esOwn d = 2 ∧ (targetOf (esFmt d)).kbM ≠ none ∧ recs = .got mc else mc = []) → v.tornAt .l2 (mc.map Prod.fst) = none →
        ∃ u, exec (.wrt f) s = .next u ∧ u.sp = v.sp ∧ u.tiles = v.tiles ∧ u.mem = v.mem.putAll mc ∧ u.acc = s.acc ∧ at' u (e.word + 1) 0) ∧
      (mode = 3 → esOwn d = 2 → (targetOf (esFmt d)).kbM ≠ none → recs = .wait →
        ∃ u, exec (.wrt f) s = .next u ∧ u.sp = v.sp ∧ u.tiles = v.tiles ∧ u.mem = v.mem ∧ u.acc = s.acc ∧ at' u e.word 1)) ∧
    (Instr.wf (.epiPush f) = true → e.pushed = 0 → x.qs.length = 8 → (x.qs.getD 2 {}).ents.length ≤ 8 →
      ∃ u es, exec (.epiPush f) s = .next u ∧ ((u.ctx r.ctx).qs.getD 2 {}).ents = (x.qs.getD 2 {}).ents ++ es ∧
        es.map (fun q => (q.e.mask, q.e.lanes, q.vis)) = (List.range 8).map (fun g => ((0xFFFF : BitVec 16), (a.drop (16 * g)).take 16, true)) ∧
        moved u r { e with pushed := 0 } ∧ u.sp = s.sp ∧ u.acc = s.acc ∧ u.mem = s.mem)

/-- HTLBI posts its invalidation and goes on, HTLBF goes on once the hart's invalidations are complete and waits until then; in user mode,
or with a register field or reserved bits that are not zero, both raise the illegal-instruction exception (R261, R390). The exception's
entry into machine mode is the model's presumption of the RISC-V privileged architecture (log 6). -/
def Obligations.HartInvalidations : Prop :=
  ∀ (f : RF) (s : State),
    let h := s.hart
    let v1 := h.xr f.rs1.toNat
    let v2 := h.xr f.rs2.toNat
    let done := s.invalDone false
    let trap := fun (w : W32) (t : State) => t.hart.priv = 3 ∧ t.hart.mepc = h.pc ∧ t.hart.mcause = 2 ∧ t.hart.mtval = w.setWidth 64 ∧
      t.hart.pc = h.mtvec &&& ~~~3 ∧ fld t.hart.mstatus 11 2 = h.priv.toNat ∧ fld t.hart.mstatus 7 1 = fld h.mstatus 3 1 ∧
      fld t.hart.mstatus 3 1 = 0 ∧ t.hart.x = h.x ∧ { t with hart := s.hart } = s
    (h.priv ≠ 0 → f.rd = 0 → fld v2 40 6 = 0 → ∃ t, exec (.htlbi f) s = .next t ∧
      t.hart = { h with pc := h.pc + 4 } ∧ (∃ i, t.invals = s.invals ++ [i] ∧ i.va = v1.setWidth 56 ∧ i.asid = (v2 >>> 48).setWidth 16 ∧
        i.level = fld v2 46 2 ∧ i.count = fld v2 0 40 ∧ i.host = false ∧ i.hart = s.hartNo.val) ∧ t.mem = s.mem ∧ t.tlb = s.tlb ∧ SameOthers s t ∧ t.me = s.me) ∧
    (h.priv ≠ 0 → f.rd = 0 → f.rs1 = 0 → f.rs2 = 0 →
      (done = true → ∃ t, exec (.htlbf f) s = .next t ∧ t.hart = { h with pc := h.pc + 4, flushing := false } ∧ (∀ i ∈ t.invals, i.host = true ∨ i.hart ≠ s.hartNo.val) ∧ t.me = s.me) ∧
      (done = false → exec (.htlbf f) s = .next { s with hart := { h with flushing := true } })) ∧
    ((h.priv = 0 ∨ f.rd ≠ 0 ∨ fld v2 40 6 ≠ 0) → ∃ t, exec (.htlbi f) s = .next t ∧ trap (nth (encode false (.htlbi f)) 0) t) ∧
    ((h.priv = 0 ∨ f.rd ≠ 0 ∨ f.rs1 ≠ 0 ∨ f.rs2 ≠ 0) → ∃ t, exec (.htlbf f) s = .next t ∧ trap (nth (encode false (.htlbf f)) 0) t)

/-! ### Ticks, steps, faults, checkpoints and traps -/

/-- The issue of a bundle whose slots, re-issued latches among them, only read registers and land results (R63, R81 to R83, R86 to R88,
R318): it always completes. The repetition's results join the landing buffer, no register has changed but RCTR where q0 is popped, each popped
latch is one entry shorter, the latches are as the repetition has used them, the bundle's next repetition or the next bundle follows, and the
context waits for the end of the tick. A bundle that fails a check of R75 faults and names itself (R76), and a
failing word that its fetch has met starts a self-test (R429); that each repetition fetches and decodes its bundle again is the model's choice
(log 56). What may not issue does not.
The end of a tick (R86, R88, R107, R319): its results land, it waits where one still awaits its load, and the bundle or repetition
that follows is next; the entries that are due later stay, and a register that one due entry names takes that entry's value. The nullifier's
skip goes to the next bundle (R91). The core switches to a ready context of the best class, where its context cannot go on (R318). -/
def Obligations.TickEnds : Prop :=
  (∀ s : State,
    let x := s.me
    let pc := x.arch.pc
    let rep := x.arch.rep
    (x.mayIssue = false ∨ s.issueBarred = true ∨ s.yields = true → exec .bundleIssue s = .next s) ∧
    (x.mayIssue = true → s.issueBarred = false → s.yields = false →
      (∀ e, s.fetchBundle s.cur pc = .error e → exec .bundleIssue s = .next ((s.hit x.lid e (s.fetchWord s.cur pc)).fatal s.cur e pc 0)) ∧
      (∀ (ws : List W32) (b : Bundle), s.fetchBundle s.cur pc = .ok (ws, b) → (rep = 0 → x.arch.nullifies b = false) → x.stopReq = false →
        x.hold.length ≤ 352 → x.nextPc = none → x.traceLeft = 0 → x.traceArm = none → b.pop.getLsbD 3 = false →
        (∀ q, q < 8 → b.pop.getLsbD q = true → x.share.mayRead q = true ∧ x.hasHead q = true) →
        let latches := stepLatches b rep x.arch.latches
        let ops := tickOps b latches
        (∀ i ∈ ops, registerOnly i = true) →
        (x.q0gen = true ∨ (x.arch.fcr.getLsbD 4 = false ∧ ∀ i ∈ ops, ∀ f, i ≠ .cvts f)) →
        ∃ t es, exec .bundleIssue s = .next t ∧ t.me.mode = .live ∧ t.me.wait = .landing ∧ t.me.pend = .run ∧ t.me.hdr = nth ws 0 ∧ t.me.tick = x.tick ∧
          t.me.succ = (if rep < b.rep then pc else pc + 4 * b.len) ∧ t.me.succRep = (if rep < b.rep then rep + 1 else 0) ∧
          ({ x.arch with rctr := if b.pop.getLsbD 0 then x.arch.rctr + 32 else x.arch.rctr } : Arch).SameRegs t.me.arch ∧
          t.me.arch.latches = latches ∧ t.me.arch.landing = x.arch.landing ++ es ∧
          (∀ q, 0 < q → q < 8 → t.me.qLen q = if b.pop.getLsbD q then x.qLen q - 1 else x.qLen q) ∧
          (b.pop.getLsbD 0 = true → t.me.q0gen = false) ∧ t.me.queue ++ t.me.hold = x.queue ++ x.hold ∧
          t.cur = s.cur ∧ (∀ d, d ≠ s.cur → { t.ctx d with traceCause := (s.ctx d).traceCause } = s.ctx d) ∧ SameStorage s t))) ∧
  (∀ (s : State) (c : Fin 4), (s.ctx c).mode = .live →
    let x := s.ctx c
    let due := fun (e : LandEntry) => e ∈ x.arch.landing ∧ e.due ≤ x.tick
    let ends := fun (i : Instr) => x.pend = .run → Store.wf x.arch.s = true → x.arch.pendingDue x.tick = false →
      ∃ t, exec i s = .next t ∧ (t.ctx c).tick = x.tick + 1 ∧ (t.ctx c).wait = .run ∧ (t.ctx c).arch.rep = x.succRep ∧
        (x.succRep ≠ 0 ∨ x.arch.inLoop = false → (t.ctx c).arch.pc = x.succ) ∧
        (t.ctx c).arch.landing = x.arch.landing.filter (fun e => decide (x.tick < e.due)) ∧
        (∀ r, (∀ e v, due e → e.act ≠ .s r v) → (t.ctx c).arch.rs r = x.arch.rs r) ∧
        (∀ e r v, due e → e.act = .s r v → (∀ e' v', due e' → e'.act = .s r v' → v' = v) → (t.ctx c).arch.rs r = v) ∧
        (∀ d, d ≠ c → t.ctx d = s.ctx d) ∧ SameStorage s t
    (x.wait = .landing → ends (.resultLand c)) ∧
    (x.wait = .returning → ends (.loadReturn c)) ∧
    (x.wait = .landing → x.arch.pendingDue x.tick = true →
      exec (.resultLand c) s = .next (s.mod c (fun x => { x with wait := .returning, traceCause := 2, arch := x.arch.landFlags x.tick })))) ∧
  (∀ (s : State) (ws : List W32) (b : Bundle), s.me.mayIssue = true → s.issueBarred = false → s.yields = false → s.fetchBundle s.cur s.me.arch.pc = .ok (ws, b) →
    s.me.arch.rep = 0 → s.me.arch.nullifies b = true → s.me.arch.inLoop = false →
    ∃ t, exec .bundleSkip s = .next t ∧ t.me.arch.pc = s.me.arch.pc + 4 * b.len ∧ t.me.arch.rep = 0 ∧ t.me.wait = .run ∧
      t.me.arch.landing = s.me.arch.landing ∧ t.me.tick = s.me.tick ∧ (∀ r, t.me.arch.rs r = s.me.arch.rs r) ∧ SameStorage s t ∧ SameOthers s t) ∧
  (∀ s : State, (∀ c idx live, (s.ctx c).wait ≠ .nodePeers idx live) →
    (exec .contextSwitch s = .next (if s.switches then { s with cur := s.nextCtx.getD s.cur } else s)) ∧
    (∀ c, s.nextCtx = some c → c ≠ s.cur ∧ s.readyCtx c = true ∧ ∀ d, d ≠ s.cur → s.readyCtx d = true → (s.ctx c).cls ≤ (s.ctx d).cls) ∧
    (s.nextCtx = none → ∀ d, d ≠ s.cur → s.readyCtx d = false))

/-- What a step runs: the event that the outside brings about; the HTLBI or HTLBF at the hart's pc; the word or epilogue instruction that
the sequencer has reached; the bundle at the current context's pc, whose slot operations run one after the other on the state after its
checkpoint, and whose results then wait for the end of the tick (R73, R86, R187, R217, R261). Each step takes the time of log 5; which unit
moves next is the model's field (log 14). -/
def Obligations.StepRunsDecoded : Prop :=
  (∀ (s : State) (i : Instr) (is : List Instr), s.turn = .any → s.agenda = i :: is → step s = thenTime (exec i { s with agenda := is })) ∧
  (∀ (s : State) (i : Instr), s.turn = .hart → decodeMgmt (BitVec.ofNat 32 (ofLe (s.mem.getList s.hart.pc.toNat 4))) = some i →
    step s = thenTime (exec i { s with turn := .any })) ∧
  (∀ (s : State) (i : Instr) (r : CallRun), s.turn = .sequencer → s.run = some r → r.ended = false →
    (match r.epi with
      | some e => e.word < 64 ∧ s.badAt .ep [64 * e.prog + e.word] = none ∧ decodeEpi (s.epWord (64 * e.prog + e.word)) = some i
      | none => r.word < 8192 ∧ s.badAt .mu [r.word] = none ∧ decodeWord (s.muWord r.word) = some i) →
    step s = thenTime (exec i { s with turn := .any })) ∧
  (∀ (s t : State) (ws : List W32) (b : Bundle), s.turn = .core →
    let u : State := { s with turn := .any }
    u.me.mayIssue = true → u.issueBarred = false → u.yields = false → u.fetchBundle u.cur u.me.arch.pc = .ok (ws, b) →
    (u.me.arch.rep = 0 → u.me.arch.nullifies b = false) → u.me.stopReq = false → u.me.hold.length ≤ 352 → b.pop.getLsbD 3 = false →
    let rep := u.me.arch.rep
    let pc := u.me.arch.pc
    let v := u.modMe (fun x => { x with hdr := nth ws 0, arch := x.arch.buffer pc ws })
    let latched := fun (s : State) => s.modMe (fun x => { x with arch := { x.arch with latches := stepLatches b rep x.arch.latches } })
    let ops := tickOps b (latched v).me.arch.latches
    let w := if takesCkpt (latched v) b ops then v.checkpoint v.cur else v
    (∀ q, q < 8 → b.pop.getLsbD q = true → w.me.share.mayRead q = true ∧ w.me.hasHead q = true) →
    let w1 : State := { latched (w.modMe (fun x => { x with wait := .run, ckptDone := true })) with casc := [] }
    (∀ i ∈ ops, ∀ t', exec i w1 = .next t' → t'.me.mode = .live → t'.me.wait ≠ .blocked) → RunsAll ops w1 t →
    let lf := loopFields w.me.arch (guardOfBundle ws)
    step s = .next (t.issued b pc rep lf).passTime ∧ exec .bundleIssue u = .next (t.issued b pc rep lf))

/-- g0 and k0 are hard-wired (R13): whatever lands, g0 reads true and k0 all ones; CMP into g0 and KMOV into k0 complete and change no
guard and no mask register. -/
def Obligations.HardwiredRegisters : Prop :=
  (∀ (a : Arch) (l : Land), (a.apply l).rg 0 = true ∧ (a.apply l).rk 0 = BitVec.allOnes 128) ∧
  (∀ (a : Arch) (mask val : BitVec 16) (i : Nat), 0 < i → i < 16 →
    (a.apply (.g mask val)).rg i = if mask.getLsbD i then val.getLsbD i else a.rg i) ∧
  (∀ (a : Arch) (r : Nat) (mask val : BitVec 128) (i : Nat), Store.wf a.k = true → i ≠ 0 →
    (a.apply (.k r mask val)).rk i = if r = i then (a.rk i &&& ~~~mask) ||| (val &&& mask) else a.rk i) ∧
  (∀ (f : AF) (s : State), Guarded f.g s → f.d = 0 → ∃ t e, exec (.cmp f) s = .next t ∧ t.me.arch.landing = s.me.arch.landing ++ [e] ∧
    ∀ (a : Arch) i, (a.apply e.act).rg i = a.rg i ∧ (a.apply e.act).s = a.s) ∧
  (∀ (f : SF) (s : State), Guarded f.g s → f.f 18 4 = 0 → ∃ t e, exec (.kmovToK f) s = .next t ∧
    t.me.arch.landing = s.me.arch.landing ++ [e] ∧ ∀ a : Arch, a.apply e.act = a)

/-- A fatal fault ends the launch (R324 to R326): the first one is recorded with its code, coordinate, bundle, command and GTB; every
context of the launch ends and loses what it holds; the contexts of other launches are as before, and so is memory where no DRN is cut
off. A later fault of the launch changes nothing, but that the record names the lowest context of those that fault at one GTB count. -/
def Obligations.FirstFatalFault : Prop :=
  ∀ (s : State) (c : Fin 4) (code : Byte) (bundle : Nat) (cmd : W32) (l : Launch), s.launchOf (s.ctx c).lid = some l →
    let t := s.fatal c code bundle cmd
    let lid := (s.ctx c).lid
    (l.fault = none →
      (∃ l', t.launchOf lid = some l' ∧ l'.fault = some { code, coord := (s.ctx c).coord28, bundle, cmd, gtb := s.gtb }) ∧
      (∀ d, (s.ctx d).lid = lid → (s.ctx d).mode ≠ .free → (t.ctx d).mode = .ended ∧
        ((s.ctx d).mode ≠ .ended → (t.ctx d).hold = [] ∧ (∀ a ∈ (t.ctx d).queue, a ∈ (s.ctx d).queue ∧ a.kind ≠ .load) ∧ (t.ctx d).calls = [])) ∧
      (∀ d, (s.ctx d).lid ≠ lid → t.ctx d = s.ctx d) ∧ t.cur = s.cur ∧
      (s.run = none → t.mem = s.mem ∧ t.sp = s.sp ∧ t.acc = s.acc)) ∧
    (∀ old, l.fault = some old →
      let r : FaultRec := { code, coord := (s.ctx c).coord28, bundle, cmd, gtb := s.gtb }
      t = if code ≠ 0x0F ∧ code ≠ 0x12 ∧ old.code ≠ 0x0F ∧ old.code ≠ 0x12 ∧ s.gtb = old.gtb ∧ r.place < old.place
        then s.modLaunch lid (fun l => { l with fault := some r }) else s)

/-- A checkpoint (R315) releases the holding buffer, commits the provisional commands and calls and sets the shadow; a recoverable trap
(R320) returns the context to its shadow, without the accesses it held and the commands and calls that were provisional, and gives the accumulators back what the O slot had
overwritten since (the model's deduction, log 37); memory, scratchpad and the other contexts are as before. The atomics that have been served and
the TDEFs and TFREEs that have taken place since the checkpoint are not made again (R121, R435). PARITY_TRAP logs the error (R433) and takes the
same trap, or ends the launch where the shadow is bad as well (R427). -/
def Obligations.CheckpointsAndTraps : Prop :=
  ∀ (s : State) (c : Fin 4), Store.wf s.mreg = true →
    let x := s.ctx c
    let others := fun (t : State) => (∀ d, d ≠ c → t.ctx d = s.ctx d) ∧ SameStorage s t ∧ t.launches = s.launches
    let logged := fun (n : State) =>
      let base := s.reg 0x1048
      let tail := (s.reg 0x1050).toNat
      let full := fld (s.reg 0x1050 - s.reg 0x1054) 0 32 = 1024
      let parity : Test := { u := { kind := .regBank, index := 0 }, cause := .parity, lid := x.lid, gtb := s.gtb, count := 1 }
      (base = 0 ∨ full → (n.reg 0x1058).toNat = min ((s.reg 0x1058).toNat + 1) (2 ^ 32 - 1) ∧ n.mem = s.mem) ∧
        (base ≠ 0 → ¬ full → (n.reg 0x1050).toNat = (tail + 1) % 2 ^ 32 ∧
          n.mem = s.mem.putList (base.toNat + 32 * (tail % 1024)) (s.testRecord parity 0 0xFF))
    (let t := s.checkpoint c
     let y := t.ctx c
     y.arch = x.arch ∧ x.arch.SameRegs y.shadow ∧ y.queue = x.queue ++ x.hold ∧ y.hold = [] ∧ y.calls.length = x.calls.length ∧
      (∀ k ∈ y.calls, k.committed = true) ∧ y.cmds.map Cmd.id = x.cmds.map Cmd.id ∧ (∀ k ∈ y.cmds, k.committed = true) ∧ others t) ∧
    (x.mode = .live → x.wait.idle = true → x.wait ≠ .sstepHasp → x.ckptDue = false →
      let restored := fun (t : State) =>
        let y := t.ctx c
        (∀ d, d ≠ c → t.ctx d = s.ctx d) ∧ t.launches = s.launches ∧ t.acc = s.acc.putAll x.accUndo ∧ y.accUndo = [] ∧ y.hold = [] ∧ y.wait = .run ∧ y.mode = .live ∧ y.calls = x.calls.filter Call.committed ∧ y.cmds = x.cmds.filter Cmd.committed ∧
          y.replay = x.atoms ++ x.replay ∧ y.tileSkip = x.tileDone + x.tileSkip ∧
          ((∀ i, i < 4 → esOwn (x.shadow.es i) ≠ 2) → x.shadow.SameRegs y.arch)
      (∃ t, exec (.trapRestore c) s = .next t ∧ restored t ∧ SameStorage { s with acc := t.acc } t) ∧
      (s.ticking = false → ∃ n : State, logged n ∧ exec (.parityTrap c { shadowBad := true }) s = .next (n.fatal c 0x0D x.shadow.pc 0) ∧
        ∃ t, exec (.parityTrap c { shadowBad := false }) s = .next t ∧ restored t ∧ t.mem = n.mem ∧ t.mreg = n.mreg ∧ t.tests = s.tests ∧
          t.sp = s.sp ∧ t.tiles = s.tiles)) ∧
    (x.mode = .live → (∀ p ∈ s.away, p.1 ≠ c) → exec (.debuggerStop c) s = .next (s.mod c (fun x => { x with stopReq := true }))) ∧
    (x.mode = .stopped → exec (.debuggerResume c) s = .next (s.mod c (fun x => { x with mode := .live }))) ∧
    (x.mode = .live → ∃ t, exec (.preemptionOrder c) s = .next t ∧
      (∀ d, t.ctx d = if (s.ctx d).lid = x.lid ∧ (s.ctx d).mode.runs = true then { s.ctx d with preReq := true } else s.ctx d) ∧ SameStorage s t)

/-- The ends of waits: a semaphore wait that can be satisfied takes its threshold, the lowest context first (R225, R226); a barrier's
release reaches the contexts that wait, with TREL for an SSTEP (R249, R250, R309); a GTB target is reached (R251); q0's head is
generated (R260). That a release from members elsewhere comes once the members here have arrived, at a count not before the last arrival here,
is the model's choice (log 35). -/
def Obligations.WaitEnds : Prop :=
  ∀ (s : State) (c : Fin 4), (s.ctx c).mode = .live →
    let x := s.ctx c
    let key := fun (n : Nat) => if n = 0 then 64 + x.lid.toNat else n
    (∀ n t acq soft, x.wait = .swait n t acq soft → (∀ d, d < c → ∀ t' a' s', (s.ctx d).wait ≠ .swait n t' a' s') →
      (soft = true ∨ s.semLatched n = false) → t ≤ (s.semVal.get n.toNat).toNat →
      let taken : State := { s with semVal := s.semVal.put n.toNat (BitVec.ofNat 16 ((s.semVal.get n.toNat).toNat - t)) }
      exec (.semWaitSatisfied n) s = .next ((if acq then taken.acquire 4 else taken).goesOn c)) ∧
    (∀ n t acq, x.wait = .swait n t acq false → (∀ d, d < c → ∀ t' a' s', (s.ctx d).wait ≠ .swait n t' a' s') → s.semLatched n = true →
      exec (.semWaitSatisfied n) s = .next (s.fatal c (s.semCode.get n.toNat) x.lastPc 0)) ∧
    (∀ n ph, (s.hasp (key n)).far = false →
      (x.wait = .barw n ph → exec (.haspReleaseDelivery c) s = .next (if (s.hasp (key n)).phase = ph then s else s.goesOn c)) ∧
      (x.wait = .bara n ph → exec (.haspReleaseDelivery c) s = .next (if (s.hasp (key n)).phase = ph then s else (s.arrive c (key n)).goesOn c))) ∧
    (x.wait = .sstepHasp →
      let h := s.hasp (key 0)
      (h.far = false → h.has c = false →
        exec (.haspReleaseDelivery c) s = .next ((s.mod c (fun x => { x with arch := { x.arch with trel := h.rel } })).goesOn c)) ∧
      (h.far = true → h.full = true → ∃ t, exec (.haspReleaseDelivery c) s = .next t ∧ (t.ctx c).wait = .run ∧ (t.ctx c).ckptDue = true ∧
        (s.gtb - (t.ctx c).arch.trel).toNat ≤ 64 ∧ (s.gtb - (t.ctx c).arch.trel).toNat ≤ (s.gtb - h.last).toNat ∧ (t.hasp (key 0)).rel = (t.ctx c).arch.trel ∧
        (t.hasp (key 0)).arrived = 0 ∧ (t.hasp (key 0)).phase = h.phase + 1)) ∧
    (∃ t, exec .gtbTargetReached s = .next t ∧ SameStorage s t ∧ (t.ctx c = match x.wait with
      | .waitt g => if g.toNat ≤ s.gtb.toNat then { x with wait := .run } else x
      | _ => x)) ∧
    exec (.randomEntryGenerated c) s = .next (s.mod c (fun x => { x with q0gen := true }))

/-- Signals and queue entries: a released SSIG signals once every store before it has performed, and faults ILLEGAL_OPERAND with its
bundle where the value would pass 65,535; `ssig.clr` clears latch and code (R225, R252). A release that has nothing left to wait for goes
on (R297). A neighbour's entry joins the tail of its latch, an entry of this core leaves (R148); a SKQRY's entry is seen once all its
counters are there (R177). -/
def Obligations.SignalsAndEntries : Prop :=
  ∀ (s : State) (c : Fin 4), (s.ctx c).mode = .live →
    let x := s.ctx c
    let leaves := fun (a : Acc) => s.mod c (fun x => { x with queue := x.queue.filter (fun b => b.id != a.id) })
    (∀ a, x.queue.find? (fun a => a.kind == .ssig || a.kind == .ssigClr) = some a → s.relPending c a.id 0xFFFF 5 = false →
      let v := (s.semVal.get a.sem.toNat).toNat
      (a.kind = .ssig → v + a.inc ≤ 65535 →
        exec (.ssigSignal c) s = .next { leaves a with semVal := s.semVal.put a.sem.toNat (BitVec.ofNat 16 (v + a.inc)) }) ∧
      (a.kind = .ssig → 65535 < v + a.inc → exec (.ssigSignal c) s = .next ((leaves a).fatal c 0x14 a.bundle 0)) ∧
      (a.kind = .ssigClr → exec (.ssigSignal c) s = .next
        { leaves a with semLatch := s.semLatch.put a.sem.toNat 0, semCode := s.semCode.put a.sem.toNat 0 })) ∧
    (x.wait = .stall 4 → ({ s with cur := c }.issueBundle.ctx c).wait ≠ .stall 4 →
      exec (.releaseComplete c) s = .next (s.mod c (fun x => { x with wait := .run }))) ∧
    (∀ (q : Fin 8) (e : QEntry), 4 ≤ q.val → x.share.mayRead q.val = true → 2 ≤ x.share.kind q.val → x.qLen q.val < 16 → x.qs.length = 8 →
      ∃ t n, exec (.queueEntryVisible c q (some e)) s = .next t ∧ ((t.ctx c).qs.getD q.val {}).ents = (x.qs.getD q.val {}).ents ++ [n] ∧
        n.e = e ∧ n.vis = true ∧ (t.ctx c).arch = x.arch ∧ SameStorage s t) ∧
    (∀ (q : Fin 8) (p : Pushed) rest, x.out = p :: rest → p.q = q.val → p.tok = 0 →
      exec (.queueEntryVisible c q none) s = .next (s.mod c (fun x => { x with out := rest }))) ∧
    (∀ e es n, x.qs.length = 8 → (x.qs.getD 1 {}).ents = e :: es → e.vis = false → e.need = some n → n ≤ e.ans.length →
      ∃ t e', exec (.skqryAnswer c) s = .next t ∧ ((t.ctx c).qs.getD 1 {}).ents = e' :: es ∧ e'.vis = true ∧ e'.e.mask = e.e.mask ∧
        e'.e.lanes = (List.range 16).map (fun l => if e.e.mask.getLsbD l then
          skMedian e.fexp ((e.ans.filter (fun p => p.1 == l)).map Prod.snd) else 0) ∧ (t.ctx c).arch = x.arch ∧ SameStorage s t)

/-! ### The ordering machine and the banks -/

/-- The steps of the ordering machine (R292 to R295) for entries that may take them: a store's perform step makes its bytes what the
lowest station reads and no other byte, and home only through the propagate steps; a scratchpad store goes to the banks, an atomic to its
home queue; fills change no byte that a load reads, and drops no dirty one; a load step gives the load its value.
Service at home and at the banks (R118, R265, R266, R300): an AMO that its slice may serve replaces the bytes of its word by the new
value and lands the old one, and changes no other byte of memory; a request that has reached its bank writes its bytes and no other. No
word that is read fails its check, and no unit that is needed is under test.
That a store waits which would split another's unit, that units which have replaced bytes of each other's stores go on together, or that a load
waits whose bytes come from stores of different ages, is as log 36 deduces it. -/
def Obligations.OrderingSteps : Prop :=
  (∀ (s : State) (c : Fin 4),
     let x := s.ctx c
     let homeOk := ∀ w ∈ s.bad, w.space ≠ .l1 ∧ w.space ≠ .l2 ∧ w.space ≠ .dram
     let unitsOf := fun (l : List StByte) (id : Nat) => movesWith l (l.filter (fun b => b.dirty && b.name == id))
     let seen := fun (l : List StByte) => l.map (fun b => (b.pa, b.val, b.dirty))
     let left := fun (t : State) (a : Acc) => (t.ctx c).queue = x.queue.filter (fun b => b.id != a.id) ∧ (t.ctx c).arch = x.arch ∧
       (∀ d, d ≠ c → t.ctx d = s.ctx d)
     (∀ (id : Nat) (a : Acc), x.queue.find? (fun a => a.id == id) = some a → s.headOf c a = true →
       (a.wp = false → s.relHolds c a = false → s.sameByteBefore c a = false →
         (a.kind = .store → a.sp = false → (∀ p ∈ a.cells, s.remote p.1 = false) → a.route = 0 → a.rel = false → (a.cells.map Prod.fst).Nodup →
           s.underTest .l1 = false → s.l1Torn (a.cells.map Prod.fst) = none → s.heldBelow s.entryLevel (a.bytesAt c a.cells) = false →
           let lvl := if s.fused then Level.cluster else Level.core
           ∃ t, exec (.storePerform c id) s = .next t ∧ left t a ∧ t.mem = s.mem ∧ (∀ l, l ≠ lvl → t.station l = s.station l) ∧
             (∀ p ∈ a.cells, ∃ b ∈ t.station lvl, b.pa = p.1 ∧ b.val = p.2 ∧ b.dirty = true) ∧
             (s.fused = false → (∀ p ∈ a.cells, t.readFrom 0 p.1 = p.2) ∧ (∀ pa, (∀ p ∈ a.cells, p.1 ≠ pa) → t.readFrom 0 pa = s.readFrom 0 pa))) ∧
         (a.kind = .store → a.sp = true → ∃ t rs, exec (.storePerform c id) s = .next t ∧ left t a ∧ t.bankQ = s.bankQ ++ rs ∧
           rs.flatMap (fun r => r.acc.cells) = a.cells ∧ (∀ r ∈ rs, r.ctx = c ∧ r.acc.id = a.id) ∧ t.sp = s.sp ∧ t.mem = s.mem) ∧
         (a.kind = .amo → homeOk → s.flushable a.lines = true → ∃ t, exec (.storePerform c id) s = .next t ∧ left t a ∧
           t.homeQ = s.homeQ ++ [{ id := s.nextHome, ctx := c, acc := a }] ∧ t.nextHome = s.nextHome + 1)) ∧
       (a.kind = .load → (∀ b ∈ a.addrs, s.onItsWay c a.sp a.id b = false ∧ x.ownOf a b = none ∧ (a.sp = true ∨ s.remote b = false)) →
         a.route = 0 → a.acq = false → s.readsWhole c a = true → s.loadFenced c a = false → s.loadBad c a = none →
         let bs := a.addrs.map (fun b => if a.sp then s.sp.get b else s.readFrom 0 b)
         ∃ t, exec (.loadStep c id) s = .next t ∧ (t.ctx c).queue = x.queue.filter (fun b => b.id != a.id) ∧
           (t.ctx c).arch.landing = x.arch.landing.map (fun e => if e.tok = a.id ∧ e.ready = false then { e with ready := true, act := a.dst.lands bs } else e) ∧
           x.arch.SameRegs (t.ctx c).arch ∧ SameStorage s t ∧ (∀ d, d ≠ c → t.ctx d = s.ctx d))) ∧
     (∀ id b, b ∈ s.stCore → b.dirty = true → b.name = id → s.heldBelow 2 (unitsOf s.stCore id) = false →
       s.underTest .l1 = false → homeOk → (s.stCore.map StByte.pa).Nodup →
       ∃ t, exec (.propagateStep .core id) s = .next t ∧ (∃ b' ∈ t.stCluster, b'.dirty = true ∧ b'.pa = b.pa ∧ b'.val = b.val ∧ b'.name = id) ∧
         t.readFrom 0 b.pa = b.val ∧ t.mem = s.mem ∧ t.stDie = s.stDie) ∧
     (∀ id, (∃ b ∈ s.stDie, b.dirty = true ∧ b.name = id) → let bs := unitsOf s.stDie id
       s.heldBelow 4 bs = false → s.homeHeld (bs.map StByte.pa) = false → homeOk → (s.stDie.map StByte.pa).Nodup → Memory.wf s.mem = true →
       ∃ t, exec (.propagateStep .die id) s = .next t ∧ seen t.stCore = seen s.stCore ∧ seen t.stCluster = seen s.stCluster ∧
         (∀ b ∈ s.stDie, b.dirty = true → b.name = id → b ∈ bs) ∧ (∀ b ∈ bs, t.mem.get b.pa = b.val) ∧
         (∀ pa, (∀ b ∈ bs, b.pa ≠ pa) → t.mem.get pa = s.mem.get pa)) ∧
     (∀ lvl (pa : BitVec 56), ∃ t, exec (.fillStep lvl pa) s = .next t ∧ SameStorage s { t with stCore := s.stCore, stCluster := s.stCluster, stDie := s.stDie } ∧
       (∀ a, t.readFrom 0 a = s.readFrom 0 a) ∧
       (s.remote pa.toNat = false → paRegion pa.toNat = 0 → s.strmOn pa.toNat = false →
         (lvl = .die → s.homeFenced pa.toNat = false → ∃ b ∈ t.stDie, b.pa = pa.toNat) ∧
         (lvl = .cluster → (s.fused = false ∨ s.underTest .l1 = false) → (∃ b ∈ s.stDie, b.pa = pa.toNat) → ∃ b ∈ t.stCluster, b.pa = pa.toNat) ∧
         (lvl = .core → s.fused = false → s.underTest .l1 = false → (∃ b ∈ s.stCluster, b.pa = pa.toNat) → ∃ b ∈ t.stCore, b.pa = pa.toNat))) ∧
     (∀ lvl (pa : BitVec 56), ∃ t, exec (.dropStep lvl pa) s = .next t ∧ t.mem = s.mem ∧
       (∀ b, b ∈ t.station lvl ↔ b ∈ s.station lvl ∧ (b.dirty = true ∨ b.pa ≠ pa.toNat)) ∧
       (∀ l, l ≠ lvl → t.station l = s.station l) ∧ (∀ d, t.ctx d = s.ctx d))) ∧
  (∀ s : State,
     (∀ (h : HomeOp) (pa : Nat), h.id < 2 ^ 64 → s.homeQ.find? (fun g => g.id == h.id) = some h → s.mayServe h = true →
       s.homeHeld h.bytes = false → s.homeBad h = none → Memory.wf s.mem = true → h.acc.kind = .amo → 0 < h.acc.width →
       h.acc.addrs = byteAddrs pa h.acc.width → h.acc.sr = false → h.acc.acq = false →
       let n := h.acc.width
       let old := s.memNat pa n
       let new := amoNew h.acc.op n 0 old h.acc.operand.toNat h.acc.expect.toNat
       ∃ t, exec (.homeServe h.id) s = .next t ∧ t.homeQ = s.homeQ.filter (fun g => g.id != h.id) ∧
         (∀ i, i < n → t.mem.get (pa + i) = BitVec.ofNat 8 (new / 256 ^ i)) ∧
         (∀ a, (a < pa ∨ pa + n ≤ a) → t.mem.get a = s.mem.get a) ∧
         (t.ctx h.ctx).arch.landing = (s.ctx h.ctx).arch.landing.map (fun e =>
           if e.tok = h.acc.id ∧ e.ready = false then { e with ready := true, act := h.acc.dst.lands (leBytes n old) } else e) ∧
         (s.ctx h.ctx).arch.SameRegs (t.ctx h.ctx).arch ∧ (∀ d, d ≠ h.ctx → t.ctx d = s.ctx d) ∧ t.sp = s.sp ∧ t.tiles = s.tiles) ∧
     (∀ (b : Fin 48) (r : BankReq), s.bankNext b.val = [r] → s.unitFenced .spBank b.val = false → s.bankBad r = none →
       r.acc.kind = .store → r.acc.counted = false → (r.acc.cells.map Prod.fst).Nodup → Store.wf s.sp = true →
       ∃ t, exec (.bankAccess { bank := b }) s = .next t ∧ (∀ q, q ∈ t.bankQ ↔ q ∈ s.bankQ ∧ q ≠ r) ∧ (∀ p ∈ r.acc.cells, t.sp.get p.1 = p.2) ∧
         (∀ k, (∀ p ∈ r.acc.cells, p.1 ≠ k) → t.sp.get k = s.sp.get k) ∧ { t with sp := s.sp, bankQ := s.bankQ, run := s.run, bad := s.bad } = s) ∧
     (∀ (b : Fin 48) (p : PeerReq), s.peerOk b.val p = true →
       ∃ t, exec (.bankAccess { bank := b, peer := some (.request p) }) s = .next t ∧ (∃ r ∈ t.bankQ, r.peer = some p ∧ r.bank = b.val ∧ 8 ≤ r.rank) ∧ SameStorage s t ∧
         (∀ c, t.ctx c = s.ctx c)))

/-! ### Engines, calls, collectives and groups -/

/-- Engine commands as they run (R225, R231, R232, R236 to R240, R245, R246, R393). A command that may start takes its wait and starts, or
faults where the wait's latch is set; a sketch command reads its target's header as it starts, and has every counter before it; an element of a
plain COPY moves its bytes and no other; MULOAD and EPLOAD fill the next word; a weight block joins the buffer of its context. A COLL counts
the chunks that it receives from its start (R405). No word that is
read fails its check, and no bank, slice or row that is reached holds it back. -/
def Obligations.EngineStarts : Prop :=
  ∀ (s : State) (c : Fin 4),
    let x := s.ctx c
    let mapCmd := fun (t : State) (k : Cmd) (f : Cmd → Cmd) => (t.ctx c).cmds = x.cmds.map (fun j => if j.order = k.order then f j else j)
    let others := fun (t : State) => ∀ d, d ≠ c → t.ctx d = s.ctx d
    (∀ (e : Engine) (timed : Bool) (k : Cmd), e ≠ .sketch → x.cmds.find? (fun k => k.eng == e && k.timed == timed && !k.started) = some k →
      (e = .coll → ∀ j ∈ x.cmds, j.eng = .coll → j.started = true → j.coll.members ≠ []) → k.committed = true →
      (timed = true → k.trel.toNat + k.ef.toff.toNat ≤ s.gtb.toNat) → s.commitDone c k = true → s.copyTiles k = true →
      (k.ef.thr = 0 ∨ s.semLatched k.ef.wsem = false) → Store.wf s.semVal = true → k.ef.thr.toNat ≤ (s.semVal.get k.ef.wsem.toNat).toNat → s.myTurn c k = true →
      ∃ t, exec (.commandStart c e timed) s = .next t ∧
        mapCmd t k (fun j => { j with
          started := true, since := none, finished := decide (j.total = 0), coll := if j.eng = .coll then { j.coll with left := s.collChunks c j } else j.coll }) ∧
        others t ∧ t.mem = s.mem ∧ t.sp = s.sp ∧
        (∀ m, t.semVal.get m = if m = k.ef.wsem.toNat then BitVec.ofNat 16 ((s.semVal.get m).toNat - k.ef.thr.toNat) else s.semVal.get m) ∧
        (k.op ≠ 1 → t.tiles = s.tiles)) ∧
    (∀ (e : Engine) (timed : Bool) (k : Cmd), x.cmds.find? (fun k => k.eng == e && k.timed == timed && !k.started) = some k →
      (e = .coll → ∀ j ∈ x.cmds, j.eng = .coll → j.started = true → j.coll.members ≠ []) →
      k.committed = true → (timed = true → k.trel.toNat + k.ef.toff.toNat ≤ s.gtb.toNat) → s.commitDone c k = true →
      s.copyTiles k = true → k.ef.thr ≠ 0 → s.semLatched k.ef.wsem = true →
      exec (.commandStart c e timed) s = .next (s.cmdFault c k (s.semCode.get k.ef.wsem.toNat))) ∧
    (∀ (timed : Bool) (k : Cmd) (h : SkHead) (pa : Nat), x.cmds.find? (fun k => k.eng == .sketch && k.timed == timed && !k.started) = some k →
      k.committed = true → (timed = true → k.trel.toNat + k.ef.toff.toNat ≤ s.gtb.toNat) → s.commitDone c k = true →
      k.op ≠ 1 → k.op ≠ 2 → k.op ≠ 5 → k.op ≠ 8 → k.op ≠ 9 → k.ef.thr = 0 → s.cmdHead c .both (skDst k.desc) = .ok (h, pa) →
      ∃ t, exec (.commandStart c .sketch timed) s = .next t ∧ others t ∧ SameStorage s t ∧
        mapCmd t k (fun j => { j with
          started := true, since := none, finished := decide (j.total = 0), coll := if j.eng = .coll then { j.coll with left := s.collChunks c j } else j.coll
          todo := List.range (h.d * 2 ^ h.k), heads := [h], srcCount := 0 })) ∧
    (∀ (id : BitVec 16) (k : Cmd), x.cmds.find? (fun k => k.id == id) = some k → k.started = true → k.finished = false →
      (∀ src dst : Sys2Proof.Machine.Place, k.op = 1 → cpAcc k.desc = 0 → cpFlag k.desc 3 = false → k.old = [] → dst.wp = false → Store.wf s.sp = true → Memory.wf s.mem = true →
        s.placeFenced src = false → s.placeFenced dst = false → s.placeBad src false = none → s.placeBad dst true = none →
        let n := 2 ^ cpEsz k.desc
        let o := cpOffs k.desc k.pos
        s.place c (cpFlag k.desc 0) (cpFlag k.desc 5) .read (dn k.desc 0 8 + o.1) n = .ok src →
        s.place c (cpFlag k.desc 1) (cpFlag k.desc 6) .write (dn k.desc 8 8 + o.2) n = .ok dst →
        ∃ t, exec (.copyElement c id) s = .next t ∧ others t ∧ (t.ctx c).arch = x.arch ∧
          (∀ i, i < n → (if dst.sp then t.sp else t.mem).get (dst.addrs.getD i 0) = (if src.sp then s.sp else s.mem).get (src.addrs.getD i 0)) ∧
          (∀ a, (dst.sp = false ∨ a ∉ dst.addrs) → t.sp.get a = s.sp.get a) ∧ (∀ a, (dst.sp = true ∨ a ∉ dst.addrs) → t.mem.get a = s.mem.get a) ∧
          (t.ctx c).cmds.map (fun j => (j.order, j.pos, j.finished)) = x.cmds.map (fun j =>
            if j.order = k.order then (j.order, j.pos + 1, decide (j.pos + 1 = j.total)) else (j.order, j.pos, j.finished))) ∧
      (∀ p : Sys2Proof.Machine.Place, k.op = 8 ∨ k.op = 9 → Store.wf s.mu = true → Store.wf s.ep = true → s.placeFenced p = false → s.placeBad p false = none →
        let n := if k.op = 8 then 8 else 4
        let v := ofLe (p.addrs.map (fun a => if p.sp then s.sp.get a else s.mem.get a))
        let at' := ldFirst k.desc + k.pos
        s.place c (ldSp k.desc) false .read (ldSrc k.desc + n * k.pos : Nat) n = .ok p →
        ∃ t, exec (.copyElement c id) s = .next t ∧ others t ∧ t.mem = s.mem ∧ t.sp = s.sp ∧
          (∀ i, t.muWord i = if k.op = 8 ∧ i = at' then BitVec.ofNat 64 v else s.muWord i) ∧
          (∀ i, t.epWord i = if k.op = 9 ∧ i = at' then BitVec.ofNat 32 v else s.epWord i))) ∧
    (∀ (k : Cmd) (raw : List Byte), x.cmds.find? (fun k => k.eng == .weight && !k.finished) = some k → k.started = true → x.wbuf.length < 2 →
      let fmt := dn k.desc 0x60 1
      let rows := dn k.desc 0x62 2 + 1
      let va := ((((dn k.desc 0 8 : Nat) : Int) + (cpOffs k.desc k.pos).1) % (2 ^ 64 : Int)).toNat
      s.streamHeld c ((rawSize fmt rows + 127) / 128) va = false → s.units c ((rawSize fmt rows + 127) / 128) va = .ok raw →
      ∃ t, exec (.weightBlockDeliver c) s = .next t ∧ others t ∧ SameStorage s t ∧ (t.ctx c).arch = x.arch ∧
        (t.ctx c).wbuf = x.wbuf ++ [{ fmt := BitVec.ofNat 4 fmt, k := rows, bytes := raw.take (rawSize fmt rows) }] ∧
        mapCmd t k (fun j => { j with pos := j.pos + 1, finished := decide (j.pos + 1 = j.total) }))

/-- The ends of commands and calls (R127, R187, R189, R233, R238, R247, R274): completion raises the flags, signals and takes the command off
its queue; a call that is selected starts at its entry word with its m registers as parameters, and completes in the same way; a TFREE's tile
becomes EMPTY; a wait for a tile state that has lasted for TLIM, the time of a self-test left out, faults TILE_STALL_TIMEOUT.
That the flags of a completion are raised in the shadow as well, and that a command's fault reports bundle 0 beside its identifier, is the
model's deduction (log 37). -/
def Obligations.CompletionSteps : Prop :=
  ∀ (s : State) (c : Fin 4),
    let x := s.ctx c
    let others := fun (t : State) => ∀ d, d ≠ c → t.ctx d = s.ctx d
    let signalled := fun (t : State) (n : BitVec 8) (inc : Nat) => ∀ m, (t.semVal.get m) =
      if inc ≠ 0 ∧ m = n.toNat then BitVec.ofNat 16 ((s.semVal.get m).toNat + inc) else s.semVal.get m
    (∀ (id : BitVec 16) (k : Cmd), x.cmds.find? (fun k => k.id == id) = some k → (k.eng ≠ .quiet → k.finished = true) →
      (k.eng = .quiet → k.started = true ∧ s.quietDone c k = true) → (k.eng = .coll → s.allCommitted k = true) →
      (k.eng = .sketch → s.satDue c k = false) → x.wait = .run → Store.wf s.semVal = true →
      let v := (s.semVal.get k.ef.sig.toNat).toNat
      (k.ef.inc = 0 ∨ v + k.ef.inc.toNat ≤ 65535 →
        ∃ t, exec (.commandComplete c id) s = .next t ∧ (t.ctx c).cmds = x.cmds.filter (fun j => j.order != k.order) ∧
          (t.ctx c).arch.fsr = x.arch.fsr ||| k.flags.setWidth 64 ∧ (t.ctx c).shadow.fsr = x.shadow.fsr ||| k.flags.setWidth 64 ∧ signalled t k.ef.sig k.ef.inc.toNat ∧ others t ∧ t.mem = s.mem ∧ t.sp = s.sp ∧
          (k.op ≠ 1 → k.eng ≠ .coll → t.tiles = s.tiles) ∧
          (k.op = 1 → k.eng ≠ .coll → k.started = true → cpFlag k.desc 2 = true → cpCount k.desc ≠ 0 →
            (s.tile (s.tileKey (cpStile k.desc))).state = 3 → (s.tile (s.tileKey (cpStile k.desc))).freeing = false →
            (t.tile (s.tileKey (cpStile k.desc))).state = if cpFlag k.desc 4 then 0 else 2)) ∧
      (k.ef.inc ≠ 0 → 65535 < v + k.ef.inc.toNat → ∃ t : State, (t.ctx c).cmds = x.cmds.filter (fun j => j.order != k.order) ∧
        exec (.commandComplete c id) s = .next (t.fatal c 0x14 0 (cmdIdent k.op k.id)))) ∧
    (∀ (k : Call) (rest : List Call) (e : Nat), s.run = none → s.selectCtx = some c → x.calls = k :: rest → callWaitFault s x k = none → callStartFault s x k = none →
      s.badAt .mu [k.routine.toNat] = none → s.entryOf k.routine.toNat = some e →
      let n := fld (nth k.m 7) 0 8
      let thr := fld (nth k.m 7) 8 4
      k.committed = true ∧ (thr ≠ 0 → Store.wf s.semVal = true → thr ≤ (s.semVal.get n).toNat) ∧
      ∃ t, exec .callSelect s = .next t ∧ (t.ctx c).calls = rest ∧ t.lastCallCtx = c ∧ t.run = some { ctx := c, call := k, word := e, p := k.m } ∧
        others t ∧ t.mem = s.mem ∧ t.sp = s.sp ∧ t.acc = s.acc ∧
        (Store.wf s.semVal = true → ∀ m, t.semVal.get m = if thr ≠ 0 ∧ m = n then BitVec.ofNat 16 ((s.semVal.get m).toNat - thr) else s.semVal.get m)) ∧
    (∀ r : CallRun, s.run = some r → r.ctx = c → r.ended = true → x.wait = .run → Store.wf s.semVal = true →
      let n := BitVec.ofNat 8 (fld (nth r.call.m 7) 12 8)
      let inc := fld (nth r.call.m 7) 20 4
      (inc = 0 ∨ (s.semVal.get n.toNat).toNat + inc ≤ 65535) →
      ∃ t, exec .callComplete s = .next t ∧ t.run = none ∧ (t.ctx c).arch.fsr = x.arch.fsr ||| r.flags.setWidth 64 ∧ signalled t n inc ∧ others t ∧
        t.mem = s.mem ∧ t.sp = s.sp ∧ t.acc = s.acc) ∧
    (∀ n : BitVec 8,
      let t := s.tile (s.tileKey n.toNat)
      t.state = 3 → t.freeing = true → s.freeHeld t (s.tileKey n.toNat) = false →
      ∃ u, exec (.tileDrainComplete n) s = .next u ∧ u.tile (s.tileKey n.toNat) = { t with state := 0, freeing := false } ∧
        (∀ k, k ≠ s.tileKey n.toNat → u.tile k = s.tile k) ∧ (∀ d, u.ctx d = s.ctx d) ∧ u.mem = s.mem ∧ u.sp = s.sp) ∧
    (∀ g : W64, s.tileLimit c ≠ 0 → s.tileLimit c ≤ s.stallClock - g.toNat →
      (x.mode = .live → x.wait = .stall 1 → x.stallSince = some g → ({ s with cur := c }.issueBundle.ctx c).wait = .stall 1 →
        exec (.tileStallTimeout (.bundle c)) s = .next (s.fatal c 0x08 x.arch.pc 0)) ∧
      (∀ id k, x.cmd id = some k → k.since = some g → s.cmdStillWaits k = true →
        exec (.tileStallTimeout (.command c id)) s = .next (s.cmdFault c k 0x08)) ∧
      (∀ r, s.run = some r → r.ctx = c → r.stallSince = some g → s.callStillWaits r = true →
        exec (.tileStallTimeout .call) s = .next (s.callFault r 0x08)))

/-- The steps of a collective (R333 to R342, R404), for members on other cores and a wire on which nothing waits. A COLL begins: it reads
its communicator and reserves its chunk tiles. Digests gather, and one that differs ends the launch with COLL_MISMATCH. A permit or an
acknowledgement arrives; a permit is granted, with the member's own value counted into the chunk tile where the step adds. A
chunk leaves on a permit for it, fewer than MAXF + 1 being unacknowledged, and the turn goes on while permits are held for the communicator. A
chunk that arrives is combined in its tile, or is put in its place. No word that is read or changed in part fails its check, and no bank that is
reached is under test.
That permits are held by peer and step, and that what members on this core send goes over the wire, is the model's choice (log 29).
Which value of a source byte that has been stored to since the issue the engine sees is free (log 59). -/
def Obligations.CollectiveSteps : Prop :=
  ∀ (s : State) (c : Fin 4) (id : BitVec 16) (k : Cmd), (s.ctx c).cmd id = some k → k.eng = .coll → ((s.ctx c).cmds.map Cmd.order).Nodup → s.wire = [] →
    let x := s.ctx c
    let cmdMap := fun (t : State) (f : Cmd → Cmd) =>
      (t.ctx c).cmds = x.cmds.map (fun j => if j.order = k.order then f j else j) ∧ (t.ctx c).arch = x.arch ∧ ∀ d, d ≠ c → t.ctx d = s.ctx d
    let collMap := fun (t : State) (f : CollRun → CollRun) => cmdMap t (fun j => { j with coll := f j.coll })
    let seen := fun (seen' : List (Nat × Byte)) (keys : List Nat) =>
      (k.coll.step ≠ 0 → seen' = k.coll.seen) ∧
      (∀ p ∈ seen', p ∈ k.coll.seen ∨ p.2 = s.sp.get (spKey s.myX p.1) ∨ p ∈ k.coll.src) ∧
      (k.coll.step = 0 → ∀ e ∈ keys, ∀ o ∈ byteAddrs (k.srcOff e) (clSize k.desc), (∀ p ∈ k.coll.seen, p.1 / 4 ≠ o / 4) → ∃ b, (o, b) ∈ seen')
    let reading := fun (seen' : List (Nat × Byte)) => ({ k with coll := { k.coll with seen := seen' } } : Cmd)
    let next := k.coll.recvd + k.coll.granted
    (∀ (m : Comm) (rank : Nat), x.cmds.find? (fun j => j.eng == .coll && Engine.coll == .coll && j.timed == k.timed && j.started && !j.finished && j.coll.members.isEmpty) = some k →
      (∀ j ∈ x.cmds, j.eng = .coll → clComm j.desc = clComm k.desc → k.order ≤ j.order) →
      (∀ n ∈ s.chunkTiles k, (s.tile n).state = 0 ∧ (s.tile n).reserved = false) → s.comm (clComm k.desc) = some m →
      (s.commMembers m).findIdx? (· == x.rankCoord) = some rank →
      let begun := fun (j : Cmd) => ({ j with since := none, coll := { j.coll with
        rank := rank, members := s.commMembers m, maxf := m.maxf, weight := m.weight, prio := m.prio, vc := m.vc, left := recvTotal k.desc (meshCoord k.desc rank) } } : Cmd)
      (begun k).mismatched = false → (s.lostPkgs ++ s.lostPaths).any (begun k).waitsOn = false → (begun k).exchanged = false →
      (∀ r, r < (s.commMembers m).length → r ≠ rank → s.hosts ((begun k).member r) = false) →
      ∃ t, exec (.commandStart c .coll k.timed) s = .next t ∧ cmdMap t begun ∧ t.mem = s.mem ∧ t.sp = s.sp ∧
        (∀ n, t.tile n = if n ∈ s.chunkTiles k then { s.tile n with reserved := true } else s.tile n)) ∧
    (∀ (r : BitVec 16) (d : W64), s.hosts (s.memberOf k r.toNat) = false →
      let told := fun (q : CollRun) => ({ q with got := q.got ++ [(r.toNat, d)] } : CollRun)
      ((k.coll.members = [] ∨ (d = k.digest ∧ ({ k with coll := told k.coll } : Cmd).exchanged = false)) →
        ∃ t, exec (.digest c id ⟨r, d⟩) s = .next t ∧ collMap t told ∧ SameStorage s t) ∧
      (k.coll.members ≠ [] → d ≠ k.digest → (∀ q, q < k.coll.members.length → q ≠ k.coll.rank → s.hosts (k.member q) = false) →
        ∃ t : State, exec (.digest c id ⟨r, d⟩) s = .next (t.cmdFault c k 0x09) ∧ t.launches = s.launches ∧
          ∀ e, t.ctx e = { s.ctx e with cmds := (s.ctx e).cmds.map (fun j =>
            let q := if e = c ∧ j.order = k.order then told j.coll else j.coll
            { j with coll := if j.eng = .coll ∧ clComm j.desc = clComm k.desc ∧ q.seq = k.coll.seq then { q with left := 0 } else q }) })) ∧
    (k.finished = false →
      (∀ (r : BitVec 16) (i : Nat), s.hosts (s.memberOf k r.toNat) = false →
        (∃ t, exec (.sendPermit c id (.permit r i)) s = .next t ∧ collMap t (fun q => { q with permits := q.permits ++ [(r.toNat, i)] }) ∧ SameStorage s t) ∧
        (∃ t, exec (.sendPermit c id (.ack r)) s = .next t ∧ collMap t (fun q => { q with unacked := q.unacked.erase r.toNat }) ∧ SameStorage s t)) ∧
      (∀ h, k.started = true → k.recvs[next]? = some h → k.coll.entered = true → s.withheld c = false → s.hosts (k.member (k.recvPeer k.coll.step h)) = false →
        (k.reduces = false → s.destFree k h.keys = true →
          ∃ t, exec (.sendPermit c id .grant) s = .next t ∧ collMap t (fun q => { q with granted := q.granted + 1 }) ∧ SameStorage s t) ∧
        (k.reduces = true →
          let ct := s.chunkTile k next
          let keys := s.chunkKeys k ct h
          let w := clSize k.desc * h.keys.length / 4
          let adds := clRop k.desc ≠ 2 ∧ clRop k.desc ≠ 3
          s.chunkPlace k ct h = true → s.spFenced (s.ownReads k h.keys ++ if adds then keys else []) = false →
          s.badAt .sp (s.ownReads k h.keys) = none → (adds → s.tornAt .sp keys = none) →
          ∀ v, (adds → (s.setTile ct { s.tile ct with expected := 2 * w }).counted c keys = .ok v) → (¬ adds → v = s) →
            ∃ t seen', exec (.sendPermit c id .grant) s = .next t ∧ seen seen' h.keys ∧
              collMap t (fun q => { q with granted := q.granted + 1, seen := seen' }) ∧ t.tiles = v.tiles ∧ t.mem = s.mem ∧
              t.sp = if adds then s.sp.putAll (keys.zip (eltsBytes (clSize k.desc) (h.keys.map (reading seen').ownElem))) else s.sp))) ∧
    (∀ h, s.nextSender = some (c, k) → k.sends[k.coll.sent]? = some h → k.coll.sent + 1 < k.sends.length → s.spFenced (s.chunkReads k h) = false →
      s.badAt .sp (s.chunkReads k h) = none →
      let n := (clComm k.desc).toNat
      let p := (k.sendPeer k.coll.step h, k.coll.step)
      let left := if n = s.collTurn.1 ∧ 0 < s.collTurn.2 then s.collTurn.2 - 1 else k.coll.weight - 1
      let own := decide (k.coll.sent < k.ownSends)
      p ∈ k.coll.permits ∧ (k.coll.unacked.filter (fun r => r == p.1)).length < k.coll.maxf ∧ k.coll.entered = true ∧ k.finished = false ∧
      ∃ t seen', exec .chunkSend s = .next t ∧ seen seen' (if own then h.keys else []) ∧ (own = false → seen' = k.coll.seen) ∧
        collMap t (fun q => { q with sent := q.sent + 1, permits := q.permits.erase p, unacked := q.unacked ++ [p.1], seen := seen' }) ∧
        t.mem = s.mem ∧ t.sp = s.sp ∧ t.collTurn = (n, if ∃ d, ∃ j ∈ (t.ctx d).cmds, j.eng = .coll ∧ clComm j.desc = clComm k.desc ∧ j.coll.permits ≠ [] then left else 0) ∧
        (∀ m, t.tile m = if k.reduces = true ∧ own = false ∧ m = s.chunkTile k (k.coll.sent - k.ownSends) then { s.tile m with state := 0 } else s.tile m) ∧
        t.wire = if s.hosts (k.member p.1) then
            [{ comm := clComm k.desc, seq := k.coll.seq, dst := k.member p.1, src := k.coll.rank, what := .chunk k.coll.step (s.chunkData (reading seen') h) }]
          else []) ∧
    (∀ (h : Chunk) (a : Nat) (kind : CollKind) (bytes : List Byte), k.recvs[k.coll.recvd]? = some h → k.stepKind = some (a, kind) → k.coll.entered = true →
      k.finished = false → k.coll.granted ≠ 0 → s.hosts (k.member (k.recvPeer k.coll.step h)) = false →
      bytes.length = clSize k.desc * h.keys.length → k.coll.recvd + 1 < k.recvs.length →
      let n := clSize k.desc
      let arr := bytesElts n bytes h.keys.length
      let ct := s.chunkTile k k.coll.recvd
      let keys := s.chunkKeys k ct h
      let placed := fun (q : CollRun) => ({ q with recvd := q.recvd + 1, granted := q.granted - 1, left := q.left - 1, next := q.next ++ h.keys.zip arr } : CollRun)
      (k.reduces = false → k.lastStep = false → ∃ t, exec (.chunkReceive c id bytes) s = .next t ∧ collMap t placed ∧ SameStorage s t) ∧
      (∀ u, k.reduces = false → k.lastStep = true → s.spFenced (s.destKeysOf k h.keys) = false → s.tornAt .sp (s.destKeysOf k h.keys) = none →
        s.counted c (s.destCount k (h.keys.zip arr)) = .ok u →
        ∃ t, exec (.chunkReceive c id bytes) s = .next t ∧ collMap t placed ∧ t.sp = s.sp.putAll (s.destCells k (h.keys.zip arr)) ∧ t.tiles = u.tiles ∧
          t.mem = s.mem) ∧
      (∀ u, k.reduces = true → h.s + 1 ≠ clAx k.desc a → s.spFenced keys = false → (k.adds = true → s.badAt .sp keys = none) →
        (k.adds = false → s.tornAt .sp keys = none) →
        (if k.adds then s else s.setTile ct { s.tile ct with expected := clSize k.desc * h.keys.length / 4 }).counted c keys = .ok u →
        u.chunkCovers keys (fun e => e.state == 2) = true →
        let sums := (h.keys.zip (arr.zip (s.ownChunk k ct h))).map (fun p => collCombine k (collWord k p.1 a h.s) p.2.1 p.2.2)
        ∃ t, exec (.chunkReceive c id bytes) s = .next t ∧ t.sp = s.sp.putAll (keys.zip (eltsBytes n (sums.map Prod.fst))) ∧ t.tiles = u.tiles ∧
          t.mem = s.mem ∧ cmdMap t (fun j => { j with
            flags := if sums.any Prod.snd then j.flags ||| fSAT else j.flags
            coll := { j.coll with recvd := j.coll.recvd + 1, granted := j.coll.granted - 1, left := j.coll.left - 1 } })))

/-- Multicast groups and lost peers (R243, R244, R303, R341, R408, R414 to R418, R424). A block takes the group's next number, until
2^48 − 1, where the entry is valid and the sequencer is its package; a loss that no view change has settled stops the group. The block with
the lowest number is applied line by line, then counted in the header, then its notice is pushed; its issuer is acknowledged with the
header. A view change goes on behind the agreed numbers, applies what some survivor holds and skips the rest, whose issuers fail. A COLL that
waits on a lost package ends its launch, and so does an access towards it. No line that a step writes lies in a slice or row that holds it back.
That a block's bytes are read at the stamp, that one step writes one line, that APPLIED and LASTSEQ are read from and written to the header in
memory, and that the notice is a step of its own are the model's choices (log 27).
Which context's block comes first, whether an entry on another package is valid, and who belongs to a group sequenced elsewhere are free
(log 4); how a new group is told is log 61. -/
def Obligations.GroupSteps : Prop :=
  ∀ (s : State) (g : BitVec 12),
    let n := g.toNat
    let x := s.curGroup n
    let e := (s.reg 0x1010).toNat + 64 * n
    let apart := fun (a len : Nat) => a + len ≤ e ∨ e + 64 ≤ a
    let numbered := fun (t : State) (m : McSub) => t.group n = { x with next := x.next + 1, subs := x.subs ++ [m] } ∧ m.seq = some x.next ∧ m.lines = 0 ∧
      m.counted = false
    (∀ b : McBlock, s.groupOk n = true → x.next ≠ 0 → s.groupLost n = false → (s.seqHere n = true → s.groupFlag n 1 = true) →
      ∃ t m, exec (.mcstStamp g (some b)) s = .next t ∧ numbered t m ∧ m.blk = b ∧ m.ext = true ∧
        (∀ j, j ≠ n → t.group j = s.group j) ∧ { t with groups := s.groups } = s) ∧
    (∀ (c : Fin 4) (k : Cmd),
      let cs := ctxIds.filterMap (fun c => (s.toStamp c n).map (fun k => (c, k)))
      cs[Config.pick s.choices % cs.length]? = some (c, k) → s.groupLost n = false →
      (x.next ≠ 0 → s.groupOk n = true → s.seqHere n = true → s.groupFlag n 1 = true →
        s.spFenced (byteAddrs (spKey s.myX (mcSrc k.desc)) (mcLen k.desc)) = false →
        s.badAt .sp (byteAddrs (spKey s.myX (mcSrc k.desc)) (mcLen k.desc)) = none →
        ∃ t m, exec (.mcstStamp g none) s = .next t ∧ numbered t m ∧ m.ext = false ∧ m.ctx = c ∧ m.cmd = k.id ∧
          m.blk.bytes = s.spBytes (spKey s.myX (mcSrc k.desc)) (mcLen k.desc) ∧ { t with groups := s.groups, choices := s.choices } = s) ∧
      (x.next = 0 → ∃ t : State, exec (.mcstStamp g none) s = .next (t.cmdFault c k 0x14) ∧ { t with choices := s.choices } = s) ∧
      (x.next ≠ 0 → (s.groupOk n = false ∨ (s.seqHere n = true ∧ s.groupFlag n 1 = false)) →
        ∃ t : State, exec (.mcstStamp g none) s = .next (t.cmdFault c k 0x05) ∧ { t with choices := s.choices } = s)) ∧
    (s.groupLost n = true → exec (.mcstStamp g none) s = .next s ∧ exec (.blockApply g) s = .next s ∧ ∀ b, exec (.mcstStamp g (some b)) s = .next s) ∧
    (∀ (b : McSub) (q : BitVec 48), x.first = some b → b.seq = some q → s.groupFlag n 2 = true → s.groupLost n = false → (∀ p, x.skipTo = some p → q ≤ p) →
      s.blockHeld n = false → Memory.wf s.mem = true →
      let w := s.winBase n
      let others := x.subs.filter (fun y => y.seq != some q)
      let sub := fun (t : State) (f : McSub → McSub) => t.group n = { x with subs := x.subs.map (fun y => if y.seq = some q then f y else y) }
      (b.counted = false → (b.lines = 0 → s.deferred n = false) →
        (let a := w + 64 + b.blk.offs.toNat + 64 * b.lines
         let l := (b.blk.bytes.drop (64 * b.lines)).take 64
         64 * b.lines < b.blk.bytes.length → apart a l.length →
          ∃ t, exec (.blockApply g) s = .next t ∧ t.mem = s.mem.putList a l ∧ sub t (fun y => { y with lines := y.lines + 1 }) ∧ (∀ d, t.ctx d = s.ctx d) ∧ t.sp = s.sp) ∧
        (b.blk.bytes.length ≤ 64 * b.lines → (b.blk.notice = true → s.noticeAhead n = false) → apart w 18 →
          let m := s.mem.putList w (leBytes 8 (s.memNat w 8 + 1) ++ leBytes 8 q.toNat ++ leBytes 2 (s.groupView n))
          (b.ext = true → ∃ t, exec (.blockApply g) s = .next t ∧ t.mem = m ∧ (∀ d, t.ctx d = s.ctx d) ∧ t.sp = s.sp ∧
            (b.blk.notice = false → t.group n = { x with subs := others }) ∧ (b.blk.notice = true → sub t (fun y => { y with counted := true }))) ∧
          (∀ k, b.ext = false → (s.ctx b.ctx).cmds.find? (fun k => k.eng == .mcast && k.id == b.cmd && !k.finished) = some k →
            ∃ t, exec (.blockApply g) s = .next t ∧ t.mem = m ∧
              (t.ctx b.ctx).cmds = (s.ctx b.ctx).cmds.map (fun j => if j.order = k.order then { j with finished := true } else j) ∧
              t.sp = if mcFlag k.desc 1 then s.sp.putList (spKey s.myX (mcSeqa k.desc)) (leBytes 8 q.toNat) else s.sp))) ∧
      (∀ c, b.counted = true → s.deferred n = false → s.noticeTo n = .slot c →
        ∃ t, exec (.blockApply g) s = .next t ∧ t.mem = s.mem ∧ t.sp = s.sp ∧ t.group n = { x with subs := others } ∧ (∀ d, d ≠ c → t.ctx d = s.ctx d) ∧
          t.ctx c = (s.ctx c).push 3 { e := { mask := 0xFFFF, lanes := noticeLanes n (s.groupView n) q b.blk }, vis := true, due := 0, tok := 0, born := 0 })) ∧
    (∀ v : ViewInfo, s.groupOk n = true → (∀ b k, s.groupLost n = true → x.subs.filter (fun b => !b.ext && !s.holdsFull n v b) = [b] →
        (s.ctx b.ctx).cmds.find? (fun k => k.eng == .mcast && k.id == b.cmd && !k.finished) = some k →
        ∃ t : State, exec (.viewChange g v) s = .next (t.failMcst b.ctx k 0x0B) ∧ ∀ d, t.ctx d = s.ctx d) ∧
      ((∀ b ∈ x.subs, b.ext = false → s.holdsFull n v b = true) → (∀ c, ∀ k ∈ (s.ctx c).cmds, k.eng = .mcast → k.started = true → k.finished = false → mcGroup k.desc ≠ n) →
      let agreed := max v.c.toNat (s.localTop n (x.subs.filter (s.holdsFull n v)))
      let top := max (max agreed v.s.toNat) (s.localTop n x.subs)
      let m := if v.seqHere then (s.mem.putList (e + 0x20) (leBytes 8 v.mlist.toNat)).putList v.mlist.toNat (v.members.flatMap (fun p => leBytes 2 p.toNat)) else s.mem
      let flags := nfld (dn (s.groupEnt n) 0 1) 0 1 + (if v.seqHere then 2 else 0) + nfld (dn (s.groupEnt n) 0 1) 2 1 * 4
      ∃ t, exec (.viewChange g v) s = .next t ∧ (∀ d, t.ctx d = s.ctx d) ∧ t.sp = s.sp ∧
        t.group n = { next := BitVec.ofNat 48 (top + 1), subs := if s.groupFlag n 2 then s.viewBlocks n agreed v else [], base := x.base, view := x.view + 1
                      skipTo := some (BitVec.ofNat 48 top), gone := s.lostPkgs } ∧
        t.mem = m.putList e ([BitVec.ofNat 8 flags, 0] ++ leBytes 2 (s.groupView n + 1) ++ leBytes 2 v.nmemb.toNat ++ leBytes 2 v.seqPkg.toNat))) ∧
    (∀ p : BitVec 10,
      let waits := fun (k : Cmd) => k.waitsOn p = true
      let ended := fun (i : Instr) (c : Fin 4) (code : Byte) =>
        ∃ t l', exec i s = .next t ∧ t.launchOf (s.ctx c).lid = some l' ∧ l'.fault.map FaultRec.code = some code ∧ (t.ctx c).mode = .ended
      ((∀ c, ∀ k ∈ (s.ctx c).cmds, ¬ waits k) → (∀ q ∈ s.away, ∀ k ∈ q.2.cmds, ¬ waits k) →
        exec (.fabricPathLoss p) s = .next { s with lostPaths := p :: s.lostPaths } ∧
        (p.toNat ≠ s.myPkg → (∀ c, ∀ k ∈ (s.ctx c).cmds, k.eng = .mcast → k.started = true → k.finished = true) →
          (∀ c, ∀ k ∈ (s.ctx c).cmds, s.elemTo c p k = false) → (∀ c, ∀ a ∈ (s.ctx c).queue, a.to p = false) →
          (∀ h ∈ s.homeQ, h.acc.to p = false) → exec (.packageLoss p) s = .next { s with lostPkgs := p :: s.lostPkgs, routes := s.routes + 1 }) ∧
        (∀ c l, p.toNat ≠ s.myPkg → s.launchOf (s.ctx c).lid = some l → l.fault = none → (s.ctx c).mode ≠ .free →
          (∃ a ∈ (s.ctx c).queue, a.to p = true ∧ a.id < 2 ^ 200) → ended (.packageLoss p) c 0x0D)) ∧
      (∀ c l, s.launchOf (s.ctx c).lid = some l → l.fault = none → (∃ k ∈ (s.ctx c).cmds, waits k) → (s.ctx c).mode ≠ .free →
        ended (.fabricPathLoss p) c 0x0A))

/-! ### Launches, translation, the platform and its registers -/

/-- Launches (R350, R355 to R362, R374, R375, R443, R468): the candidate of a pass starts, or reserves what it needs while the first launch
that fits beside it starts; ballast starts while power is low. What starts has its contexts in their start state and a start count at least 64
ahead, after the flush that is due. A launch that has settled ends, its slots are free and its queue goes on, but in a package that is halted
(R454); the time limit, also at its end, and a kill end a launch that runs, and a kill of a queued launch is kept until it is its queue's head. A
launch that was pre-empted returns with the registers of its save area, stopped where a debugger has asked for it, after the flush of another
domain's bytes (R358). No word fails its check where a flush writes back.
That at most one launch starts in a pass is the model's choice (log 21). How far ahead the start count lies is free (log 5); what cores
elsewhere add to the counts of a record is free (log 1). -/
def Obligations.LaunchSteps : Prop :=
  ∀ s : State,
    let starts := fun (t : State) (n : Nat) (d : List Byte) (pc : Nat) => ∃ l, t.launches = s.launches ++ [l] ∧ l.lid = ldLid d ∧ l.queue = n ∧
      l.desc = d ∧ l.fault = none ∧ s.gtb.toNat + 64 ≤ l.tstart.toNat ∧
      (s.places d = true → ∀ j : Fin 4, j.val < ldSlots d → (t.ctx j).mode = .starting l.tstart ∧ (t.ctx j).lid = ldLid d ∧ (t.ctx j).arch.pc = pc ∧
        (t.ctx j).arch.rep = 0 ∧ (∀ r, (t.ctx j).arch.rs r = if r = 0 then BitVec.ofNat 64 (dn d 0x28 8) else 0) ∧
        (∀ i, 0 < i → (t.ctx j).arch.rg i = false) ∧ (∀ i, i ≠ 0 → (t.ctx j).arch.rk i = 0) ∧ (∀ r, (t.ctx j).arch.rm r = 0) ∧
        (∀ grp r l, (t.ctx j).arch.rv grp r l = 0) ∧ (t.ctx j).arch.fsr = 0 ∧ (t.ctx j).arch.trel = l.tstart ∧ (t.ctx j).arch.landing = [] ∧
        (t.ctx j).shadow = (t.ctx j).arch ∧ (t.ctx j).hold = [] ∧ (t.ctx j).queue = [] ∧ (t.ctx j).cmds = [] ∧ (t.ctx j).calls = []) ∧
      (∀ j : Fin 4, (s.places d = false ∨ ldSlots d ≤ j.val) → t.ctx j = s.ctx j)
    let flushed := fun (u : State) (n : Nat) (d : List Byte) => if u.needsFlush n d then u.flushAll else u
    let flushes := fun (d : List Byte) (n : Nat) => s.needsFlush n d = true → s.bad = []
    (s.booted = true → s.halted = false → s.powered = true → s.gtb.toNat < 2 ^ 63 →
      let u : State := { s with choices := s.choices + 1, sched := { s.sched with reserved := none } }
      (∀ n d rest mu ep pc, (∀ m, m < 64 → s.writeOff m = s) → u.readyHeads.filter (fun p => dn p.2 4 1 != 7) = (n, d) :: rest → u.fits d = true →
        flushes d n → (flushed u n d).startReads d = .ok (mu, ep, pc) → ∃ t, exec .schedulerPass s = .next t ∧ starts t n d pc ∧ t.sched.lastQueue = n) ∧
      ((∀ m, m < 64 → s.writeOff m = s) → u.readyHeads.filter (fun p => dn p.2 4 1 != 7) = [] → exec .schedulerPass s = .next u) ∧
      (∀ n d rest, (∀ m, m < 64 → s.writeOff m = s) → u.readyHeads.filter (fun p => dn p.2 4 1 != 7) = (n, d) :: rest → u.fits d = false →
        (∀ l ∈ s.launches, l.cls ≠ 7) →
        let v : State := { s with choices := s.choices + 2, sched := { s.sched with reserved := some d } }
        let next := rest.find? (fun p => v.fits p.2 && !v.isReserved p.2)
        (next = none → exec .schedulerPass s = .next v) ∧
        (∀ m e mu ep pc, next = some (m, e) → flushes e m → (flushed v m e).startReads e = .ok (mu, ep, pc) →
          ∃ t, exec .schedulerPass s = .next t ∧ starts t m e pc ∧ t.sched.lastQueue = m ∧ t.sched.reserved = some d)) ∧
      ((∀ l ∈ s.launches, l.cls ≠ 7) → s.setPoint + s.powerBand < s.powerNow → exec .ballastAdmit s = .next { s with choices := s.choices + 1 }) ∧
      (s.setPoint ≤ s.powerNow + s.powerBand → s.powerNow ≤ s.setPoint + s.powerBand → exec .ballastAdmit s = .next s) ∧
      (∀ n d mu ep pc, s.powerNow + s.powerBand < s.setPoint → (∀ g, s.sched.lastAdmit = some g → 156250 ≤ (s.gtb - g).toNat) →
        s.readyHeads.find? (fun p => dn p.2 4 1 == 7 && s.fits p.2 && !s.isReserved p.2) = some (n, d) →
        flushes d n → (flushed s n d).startReads d = .ok (mu, ep, pc) → ∃ t, exec .ballastAdmit s = .next t ∧ starts t n d pc ∧ t.sched.lastAdmit = some s.gtb)) ∧
    ((s.booted = false ∨ s.halted = true ∨ s.powered = false) → exec .schedulerPass s = .next s ∧ exec .ballastAdmit s = .next s) ∧
    (∀ (lid : BitVec 32) (l : Launch), s.launchOf lid = some l →
      (s.halted = true → exec (.launchEnd lid) s = .next s) ∧
      (s.halted = false → s.mayEnd l = true → (l.fault = none → s.timeUp l = false) → s.recordParks l.desc = false → (ldFlag l.desc 1 = true → s.bad = []) →
        Store.wf s.mreg = true → ∃ t, exec (.launchEnd lid) s = .next t ∧ t.launchOf lid = none ∧
        (∀ m, m ≠ lid → t.launchOf m = s.launchOf m) ∧ (∀ c, (s.ctx c).lid = lid → (t.ctx c).mode = .free) ∧
        (∀ c, (s.ctx c).lid ≠ lid → t.ctx c = s.ctx c) ∧ t.qHead l.queue = (s.qHead l.queue + 1) % 2 ^ 32 ∧
        (∃ e, t.sched.ended.head? = some e ∧ e.lid = lid ∧ e.code = (l.fault.map FaultRec.code).getD 0 ∧ e.queue = l.queue)) ∧
      (l.fault = none →
        let ends := fun (i : Instr) (code : Byte) => ∃ t l', exec i s = .next t ∧ t.launchOf lid = some l' ∧
          l'.fault = some { code, coord := 0, bundle := 0, cmd := 0, gtb := s.gtb } ∧
          (∀ c, (s.ctx c).lid = lid → (s.ctx c).mode ≠ .free → (t.ctx c).mode = .ended) ∧ (∀ c, (s.ctx c).lid ≠ lid → t.ctx c = s.ctx c)
        (dn l.desc 0x7C 4 ≠ 0 → l.tstart.toNat + 1024 * dn l.desc 0x7C 4 ≤ s.gtb.toNat →
          ends (.timeLimit lid) 0x0F ∧ (s.halted = false → ends (.launchEnd lid) 0x0F)) ∧ ends (.killed lid) 0x12) ∧
      ((dn l.desc 0x7C 4 = 0 ∨ s.gtb.toNat < l.tstart.toNat + 1024 * dn l.desc 0x7C 4) → exec (.timeLimit lid) s = .next s)) ∧
    (∀ lid : BitVec 32, s.launchOf lid = none → exec (.timeLimit lid) s = .next s ∧ exec (.launchEnd lid) s = .next s ∧
      (s.queuedAs lid = none → exec (.killed lid) s = .next s) ∧
      (∀ n k, s.queuedAs lid = some (n, k) → k ≠ s.qHead n →
        exec (.killed lid) s = .next { s with sched := { s.sched with killed := lid :: s.sched.killed } })) ∧
    (∀ c : Fin 4, s.away.find? (fun p => p.1 == c) = none → exec (.resume c) s = .next s) ∧
    (∀ (c : Fin 4) (x : Context) (l : Launch) (b : List Byte), s.away.find? (fun p => p.1 == c) = some (c, x) → s.launchOf x.lid = some l →
      s.away.filter (fun p => p.2.lid == x.lid) = [(c, x)] → x.mode = .preempted → x.colls = [] → s.wire = [] → (s.ctx c).mode = .free → l.cls ≠ 7 →
      s.beside x.lid l.desc [x.share] = true → s.isReserved l.desc = false → s.gtb.toNat < 2 ^ 63 →
      (s.sched.cdom ≠ ldCdom l.desc → s.bad = []) →
      let u := ({ s.takeBack l.desc with times := s.times + 1, away := s.away.filter (fun p => p.2.lid != x.lid) } : State).setCtx c
        { x with nextId := max x.nextId (s.ctx c).nextId }
      u.vaRead x.arch x.asid (u.saveAddr c) 65536 = .ok b → saveOk b = true → dn b 4 2 = 0 →
      ∃ t g, exec (.resume c) s = .next t ∧ t.away = s.away.filter (fun p => p.2.lid != x.lid) ∧
        (t.ctx c).mode = (if x.stopReq then .stopped else .starting g) ∧ s.gtb.toNat + 64 ≤ g.toNat ∧ (t.ctx c).arch.pc = dn b 8 8 ∧
        (∀ r, r < 16 → (t.ctx c).arch.rs r = BitVec.ofNat 64 (dn b (0x40 + 8 * r) 8)) ∧ (∀ r, 16 ≤ r → (t.ctx c).arch.rs r = 0) ∧
        (t.ctx c).lid = x.lid ∧ (∀ d, d ≠ c → t.ctx d = s.ctx d) ∧ t.sched.cdom = ldCdom l.desc ∧ t.fused = ldFlag l.desc 0)

/-- Translation and accesses from outside (R261, R384, R385, R389, R391, R420): a walk fills the TLB with the entry that it finds, of which
the newest 2,112 stay (log 12), or has the failing word tested that it reads; an invalidation removes the entries that it names, its level
hint restricting them (log 26), and is pending until every TLB has applied it (log 46); a parked write takes its new addresses, or ends the
launch, the lanes before the one that fails keeping their effect (R174); the
head of the invalidate queue is posted, and DONE is written when it is complete, or at once where it is rejected; the management cores and the
host write memory at home and read it without changing it. -/
def Obligations.TranslationSteps : Prop :=
  ∀ s : State,
    (∀ (asid : BitVec 16) (va : BitVec 56),
      (∀ b, s.walkBad {} asid va.toNat = some b → ∃ t, exec (.tlbWalk asid va) s = .next t ∧ { t with tests := s.tests } = s ∧
        ∃ x, t.tests = s.tests ++ [x] ∧ x.u = b.u ∧ x.count = 1) ∧
      (s.walkBad {} asid va.toNat = none →
        exec (.tlbWalk asid va) s = .next (if s.tlb.any (fun e => e.hits asid va.toNat) then s else match s.walk asid va.toNat with
          | some e => { s with
              tlb := (e :: s.tlb).take 2112, tlbOld := ((e :: s.tlb).drop 2112).filter (fun o => !s.tlbOld.contains o) ++ s.tlbOld }
          | none => s))) ∧
    (∀ (t : TlbRef) (v : Inval) (rest : List Inval), s.invals = v :: rest → v.pending.contains t = true → (∀ c, (s.ctx c).logWait = []) →
      ∃ u v', exec (.tlbInvalidationApplied t) s = .next u ∧ u.invals = v' :: rest ∧ v'.pending = v.pending.erase t ∧ v'.asid = v.asid ∧
        u.mem = s.mem ∧ (∀ c, (u.ctx c).arch = (s.ctx c).arch) ∧ (t ≠ .compute → u.tlb = s.tlb) ∧
        (t = .compute → (∀ e, (e ∈ u.tlb ↔ e ∈ s.tlb ∧ v.hits e = false) ∧ (e ∈ u.tlbOld ↔ e ∈ s.tlbOld ∧ v.hits e = false)) ∧
          v'.removed = (s.tlb ++ s.tlbOld).filter v.hits)) ∧
    (∀ (c : Fin 4) (id : Nat) (a : Acc), ((s.ctx c).hold ++ (s.ctx c).queue).find? (fun a => a.id == id && a.stale) = some a → a.kind = .store →
      (∀ ts, s.retranslate (s.ctx c) .write a.vaList = some ts → ts.length = a.cells.length →
        ∃ t b, exec (.writeRetranslate c id) s = .next t ∧ b ∈ (t.ctx c).hold ++ (t.ctx c).queue ∧ b.id = id ∧ b.stale = false ∧ b.wp = ts.any Tr.wp ∧
          b.cells = (ts.map Tr.pa).zip (a.cells.map Prod.snd) ∧ SameStorage s t ∧ (t.ctx c).arch = (s.ctx c).arch) ∧
      (s.retranslate (s.ctx c) .write a.vaList = none →
        let x := s.ctx c
        let good := a.vaList.takeWhile (fun va => (s.access x.arch x.asid .write va).toOption.isSome)
        let left := fun (b : Acc) => !(b.id == id && b.stale)
        ∃ (t : State) (e : Byte), exec (.writeRetranslate c id) s = .next (t.fatal c e a.bundle 0) ∧ (e = 0x04 ∨ e = 0x05 ∨ e = 0x0D) ∧
          (∃ va ∈ a.vaList, s.access x.arch x.asid .write va = .error e) ∧ SameStorage s t ∧ (t.ctx c).arch = x.arch ∧ (∀ d, d ≠ c → t.ctx d = s.ctx d) ∧
          (good = [] → (t.ctx c).queue = x.queue.filter left ∧ (t.ctx c).hold = x.hold.filter left) ∧
          (good ≠ [] → good.length ≤ a.cells.length → ∃ b ∈ (t.ctx c).hold ++ (t.ctx c).queue, b.id = id ∧ b.stale = false ∧
            b.cells.map Prod.snd = (a.cells.map Prod.snd).take good.length))) ∧
    (∀ b : List Byte, s.iqCommand = some b → Store.wf s.mreg = true →
      let head := (s.reg 0x200010).toNat
      let done := fun (v : Nat) (u : State) (t : State) => t.mem = u.mem.putList (dn b 0x18 8) (leBytes 8 v) ∧ (t.reg 0x200010).toNat = (head + 1) % 2 ^ 32 ∧ t.invalPos = 0
      (s.invalPos = 0 → iqOk b = true → ∃ t i, exec .invalidate s = .next t ∧ t.invals = s.invals ++ [i] ∧ i.host = true ∧ i.va = BitVec.ofNat 56 (dn b 8 8) ∧
        i.asid = BitVec.ofNat 16 (dn b 2 2) ∧ i.count = dn b 0x10 8 ∧ t.invalPos = 1 ∧ t.mem = s.mem ∧ t.mreg = s.mreg) ∧
      (s.invalPos = 0 → iqOk b = false → ∃ t, exec .invalidate s = .next t ∧ done 2 s t) ∧
      (s.invalPos ≠ 0 → s.invalDone true = true → s.bad = [] → ∃ t, exec .invalidate s = .next t ∧ done 1 (s.invalEnd true) t ∧ (∀ i ∈ t.invals, i.host = false))) ∧
    (∀ (pa : BitVec 56) (bytes : List Byte), Memory.wf s.mem = true →
      exec (.managementCoreAccess false pa bytes) s = .next s ∧
      ((paRegion pa.toNat = 0 ∨ paRegion pa.toNat = 2) → (pa.toNat + bytes.length - 1) / 2 ^ 39 = pa.toNat / 2 ^ 39 → s.routed pa.toNat = true →
        ∃ t, exec (.managementCoreAccess true pa bytes) s = .next t ∧ (∀ i, i < bytes.length → t.mem.get (pa.toNat + i) = nth bytes i) ∧
          (∀ a, (a < pa.toNat ∨ pa.toNat + bytes.length ≤ a) → t.mem.get a = s.mem.get a) ∧ MemoryOnly s t)) ∧
    (∀ (off : BitVec 39) (bytes : List Byte), s.powered = true → off.toNat + bytes.length ≤ 2 ^ 39 → Memory.wf s.mem = true →
      let pa := s.myPkg * 2 ^ 46 + off.toNat
      exec (.hostBar2Access false off bytes) s = .next { s with hostIn := s.mem.getList pa bytes.length } ∧
      ∃ t, exec (.hostBar2Access true off bytes) s = .next t ∧ (∀ i, i < bytes.length → t.mem.get (pa + i) = nth bytes i) ∧
        (∀ a, (a < pa ∨ pa + bytes.length ≤ a) → t.mem.get a = s.mem.get a) ∧ MemoryOnly s t)

/-- Detected errors (R213, R426 to R434). A corrected error or a link retry counts, and the fourth of a unit within 2^20 counts starts a
test. An uncorrectable word starts a test, keeps failing, and ends the launch of its reader, of a later reader as well. A checksum mismatch
has every row and column that it names tested, and its word run again; a second one ends the launch. A fault of a lane or a register bank
traps the contexts and holds them; where the shadow copy fails too, the launch ends. A result is logged, lifts the fence, and assigns a spare
or retires.
A copied element stands for the later readers (log 43); that a trap waits for the contexts to be between ticks is log 28. -/
def Obligations.SelfTests : Prop :=
  ∀ s : State, Store.wf s.mreg = true →
    (∀ (u : UnitRef) (cause : TestCause), causeFits cause u.kind = true →
      let started := fun (t : State) (n : Nat) => ∃ x, t.tests = s.tests ++ [x] ∧ x.u = u ∧ x.cause = cause ∧ x.gtb = s.gtb ∧ x.count = n ∧ x.whole = false
      let held := fun (t : State) => ∀ c, (s.ctx c).mode = .live → (s.ctx c).wait ≠ .sstepHasp → (t.ctx c).wait = .fenced ∧ (t.ctx c).hold = []
      (cause = .sramCorrected ∨ cause = .dramCorrected ∨ cause = .linkRetried →
        let recent := s.corrected.filter (fun p => p.1 == u && decide ((s.gtb - p.2).toNat < 2 ^ 20))
        let under := s.tests.any (fun t => t.u == u)
        ∃ t, exec (.selfTest u cause) s = .next t ∧ { t with tests := s.tests, corrected := s.corrected } = s ∧
          (under = true → started t 1 ∧ t.corrected = s.corrected) ∧
          (under = false → recent.length < 3 → t.tests = s.tests ∧ (u, s.gtb) ∈ t.corrected) ∧
          (under = false → 3 ≤ recent.length → started t 4 ∧ ∀ p ∈ t.corrected, p.1 ≠ u)) ∧
      (∀ (by_ : Reader) (word : Option WordRef), cause = .sramUncorrectable by_ word ∨ cause = .dramUncorrectable by_ word → trapsCore u.kind = false →
        ∃ t, started t 1 ∧ { t with tests := s.tests, bad := s.bad } = s ∧
          t.bad = (match word with
            | none => s.bad
            | some w => badWord w u :: s.bad.filter (fun b => b != badWord w u)) ∧
          (by_ = .nobody → exec (.selfTest u cause) s = .next t) ∧
          (∀ c id a, by_ = .access c id → (∀ x ∈ t.tests.getLast?, x.lid = (s.ctx c).lid) ∧ (s.accOf c id = some a → exec (.selfTest u cause) s = .next (t.fatal c 0x0D a.bundle 0))) ∧
          (∀ c id k, by_ = .command c id → (s.ctx c).cmd id = some k → k.started = true → k.finished = false →
            (k.eng ≠ .mcast → exec (.selfTest u cause) s = .next (t.cmdFault c k 0x0D)) ∧
            (k.eng = .mcast → stampedCmd s c k = false → exec (.selfTest u cause) s = .next (t.failMcst c k 0x0D))) ∧
          (∀ r, by_ = .call → s.run = some r → r.ended = false → exec (.selfTest u cause) s = .next (t.callFault r 0x0D)) ∧
          (∀ c id, by_ = .merge c id → (s.ctx c).mode ≠ .free → exec (.selfTest u cause) s = .next ((t.dropStore c id).fatal c 0x0D 0 0)) ∧
          (∀ c, by_ = .device c → (s.ctx c).mode ≠ .free → exec (.selfTest u cause) s = .next (t.fatal c 0x0D (s.ctx c).arch.pc 0))) ∧
      (cause = .parity → s.ticking = false →
        ∃ t, exec (.selfTest u cause) s = .next t ∧ started t 1 ∧ held t) ∧
      (∀ others r ks, cause = .checksum others → s.checksumWord = some (r, ks) → s.arrayFenced = false → others.all (fun v => isArray v.kind) = true →
        let us := (u :: others).eraseDups
        let whole := decide (4 < (us.filter (fun v => v.kind == .arrayRow)).length) || decide (4 < (us.filter (fun v => v.kind == .arrayCol)).length)
        ∃ t, t.tests = s.tests ++ us.map (fun v => { u := v, cause, lid := s.unitLid v.kind, gtb := s.gtb, count := 1, whole }) ∧
          (r.mismatch = 0 → exec (.selfTest u cause) s = .next t ∧ t.run = some { r with mismatch := 1, reexec := r.reexec + 1, claimed := ks } ∧ SameStorage s t) ∧
          (r.mismatch ≠ 0 → exec (.selfTest u cause) s = .next (t.callFault r 0x0E) ∧ { t with tests := s.tests } = s))) ∧
    (∀ (c : Fin 4) (n : BitVec 16), (s.ctx c).mode.runs = true → s.ticking = false →
      (∃ t, exec (.parityTrap c { shadowBad := false, bank := some n }) s = .next t ∧ (∃ x, t.tests = s.tests ++ [x] ∧ x.u = { kind := .regBank, index := n } ∧ x.cause = .parity) ∧
        ∀ d, (s.ctx d).mode = .live → (s.ctx d).wait ≠ .sstepHasp → (t.ctx d).wait = .fenced ∧ (t.ctx d).hold = []) ∧
      (∃ t : State, exec (.parityTrap c { shadowBad := true, bank := some n }) s = .next (t.fatal c 0x0D (s.ctx c).shadow.pc 0).fenceCore ∧
        { t with tests := s.tests } = s)) ∧
    (∀ (c : Fin 4) (id : BitVec 16) (k : Cmd) (src dst : Sys2Proof.Machine.Place) (w : BadWord), (s.ctx c).cmd id = some k → k.started = true → k.finished = false →
      k.op = 1 → cpAcc k.desc = 0 →
      s.place c (cpFlag k.desc 0) (cpFlag k.desc 5) .read (dn k.desc 0 8 + (cpOffs k.desc k.pos).1) (2 ^ cpEsz k.desc) = .ok src →
      s.place c (cpFlag k.desc 1) (cpFlag k.desc 6) .write (dn k.desc 8 8 + (cpOffs k.desc k.pos).2) (2 ^ cpEsz k.desc) = .ok dst →
      dst.wp = false → s.placeFenced src = false → s.placeFenced dst = false → s.placeBad src false = some w →
      ∃ t : State, exec (.copyElement c id) s = .next (t.cmdFault c k 0x0D) ∧ { t with tests := s.tests } = s ∧
        ∃ x, t.tests = s.tests ++ [x] ∧ x.u = w.u ∧ x.lid = (s.ctx c).lid) ∧
    (∀ (u : UnitRef) (pass : Bool) (x : Test), s.tests = [x] → x.u = u →
      let n := (s.spares.filter (fun p => sameSpares p.1 u)).length
      let base := s.reg 0x1048
      let tail := (s.reg 0x1050).toNat
      let full := fld (s.reg 0x1050 - s.reg 0x1054) 0 32 = 1024
      let result := if pass then 1 else if n < sparesOf u.kind then 2 else 3
      ∃ t, exec (.selfTestResult u pass) s = .next t ∧ t.tests = [] ∧ (∀ c, (t.ctx c).wait = if (s.ctx c).wait = .fenced then .run else (s.ctx c).wait) ∧
        (base = 0 ∨ full → (t.reg 0x1058).toNat = min ((s.reg 0x1058).toNat + 1) (2 ^ 32 - 1) ∧ SameStorage { s with mreg := t.mreg } t) ∧
        (base ≠ 0 → ¬ full → (t.reg 0x1050).toNat = (tail + 1) % 2 ^ 32 ∧ t.reg 0x1058 = s.reg 0x1058 ∧
          t.mem = s.mem.putList (base.toNat + 32 * (tail % 1024)) (s.testRecord x result (if result = 2 then n else 0xFF))) ∧
        t.spares = (if result = 2 then s.spares ++ [(u, n)] else s.spares) ∧
        t.reported = (if result = 3 ∧ u.kind = .dramRow then s.reported ++ [Config.rowPage u.bank.toNat u.index.toNat] else s.reported) ∧
        (t.sched.retired = true ↔ s.sched.retired = true ∨ (result = 3 ∧ u.kind ≠ .linkLane ∧ u.kind ≠ .dramRow))) ∧
    (∃ t, exec (.wholeCoreSelfTest true) s = .next t ∧ t.sched.retired = false ∧ SameStorage s t ∧ exec (.wholeCoreSelfTest false) s = .next s) ∧
    (∀ port : BitVec 8, exec (.linkRetry port) s = exec (.selfTest { kind := .linkLane, index := port.setWidth 16 } .linkRetried) s)

/-- The platform (R441, R444, R450, R452 to R454, R458 to R462): sensors, throttling and halts; refresh; boot, whose first failing step names
it, power and the report; samples of contexts that run, are stopped or are held, and the ends of holds.
What verifies a signature, and what else makes a step of the boot fail, is given (log 9, log 42); that DRAM keeps its contents over a reset is
log 42; a halt keeps the contexts that it ends until they are reset (log 44). -/
def Obligations.PlatformSteps : Prop :=
  ∀ s : State, Store.wf s.mreg = true →
    (∀ (die : Fin 6) (n : BitVec 8) (raw : BitVec 16), (n.toNat < 8 ∨ (die.val < 4 ∧ (n.toNat < 32 ∨ n.toNat = 48 ∨ n.toNat = 49))) →
      ∃ t, exec (.sensorRefresh die n raw) s = .next t ∧ t.reg (0x500000 + 0x100 * die.val + 4 * n.toNat) = raw.setWidth 64 ∧
        (∀ o, o ≠ 0x500000 + 0x100 * die.val + 4 * n.toNat → t.reg o = s.reg o) ∧
        { t with mreg := s.mreg, critSeen := s.critSeen } = s ∧ (s.halted = false → ∀ k, k ∈ t.critSeen ↔ k ∈ s.critSeen ∨ k ∈ t.haltCodes)) ∧
    (s.halted = false → s.powered = true →
      let evaluated := fun (t : State) => t.evalAt = s.evalAt + 156250 ∧
        (∀ d, d < 6 → (if d < 4 then s.thPoint d 0 ≤ s.drivenTemp d else s.thPoint d 0 ≤ s.dieTemp d) → (t.reg (0x500088 + 0x100 * d)).getLsbD 0 = true) ∧
        (∀ d, d < 4 →
          let steps := fld (s.reg (0x500088 + 0x100 * d)) 8 4
          let colder := if s.thPoint d 1 ≤ s.drivenTemp d ∧ steps < 10 then steps + 1
            else if s.drivenTemp d < s.thPoint d 1 - 16 ∧ 0 < steps then steps - 1 else steps
          let now := if 24000 < (t.power.take 10).foldl (· + ·) 0 then max colder (min 10 (steps + 1)) else colder
          fld (t.reg (0x500088 + 0x100 * d)) 8 4 = now ∧ (steps < now → (t.reg (0x500088 + 0x100 * d)).getLsbD 1 = true))
      let due := s.haltCodes ++ s.critSeen
      (∀ k ks, due = k :: ks → ∃ t, exec .thermalEvaluation s = .next t ∧ t.halted = true ∧ fld (t.reg 0) 8 8 = ks.foldl min k % 256 ∧ t.away = [] ∧
        t.launches.map Launch.lid = s.launches.map Launch.lid ∧
        (∀ l ∈ t.launches, l.held = false ∧ ∃ f, l.fault = some f ∧ (f.code = 0x12 ∨ ∃ l' ∈ s.launches, l'.lid = l.lid ∧ l'.fault = some f)) ∧
        (∀ c, ((s.ctx c).mode = .free → t.ctx c = s.ctx c) ∧ ((s.ctx c).mode ≠ .free → (s.ctx c).mode ≠ .ended →
          (t.ctx c).mode = .ended ∧ (t.ctx c).hold = [] ∧ (t.ctx c).lid = (s.ctx c).lid ∧
          (∀ a ∈ (t.ctx c).queue, a ∈ (s.ctx c).queue ∧ a.kind ≠ .load ∧ a.kind ≠ .skqry) ∧
          (∀ a ∈ (s.ctx c).queue, a.kind ≠ .load → a.kind ≠ .skqry → a.kind ≠ .skupd → a ∈ (t.ctx c).queue))) ∧
        t.mem = s.mem ∧ (s.evalAt ≤ s.gtb → evaluated t)) ∧
      (due = [] → s.evalAt ≤ s.gtb → ∃ t, exec .thermalEvaluation s = .next t ∧ t.halted = false ∧ evaluated t ∧ (∀ c, t.ctx c = s.ctx c) ∧ t.mem = s.mem) ∧
      (due = [] → s.gtb < s.evalAt → exec .thermalEvaluation s = .next s)) ∧
    ((s.halted = true ∨ s.powered = false) → exec .thermalEvaluation s = .next s) ∧
    (∀ bank : Nat,
      let kept := fun (t : State) => t.debt bank % 609375 = s.debt bank % 609375 ∧ (∀ b, b ≠ bank → t.debt b = s.debt b) ∧ { t with owed := s.owed } = s
      s.owes bank ≤ 8 ∧
      (s.halted = false → s.owes bank ≠ 0 → ∃ t, exec (.dramRefresh bank) s = .next t ∧ t.owes bank = s.owes bank - 1 ∧ kept t) ∧
      (s.halted = false → s.owes bank = 8 → ∃ t, exec (.activationAlert bank) s = .next t ∧ t.owes bank = 0 ∧ kept t) ∧
      ((s.halted = true ∨ s.owes bank = 0) → exec (.dramRefresh bank) s = .next s) ∧
      ((s.halted = true ∨ s.owes bank < 8) → exec (.activationAlert bank) s = .next s)) ∧
    ((s.booted = false ∨ s.halted = true ∨ s.powered = false) → ∀ (fail : Option (Fin 6)) (v : BitVec 32),
      let image := s.image.withRollback v
      let h := image.header
      let code := image.body.take (dn h 8 8)
      let key := (h.drop 0x40).take 1312
      let fails := fun (k : Nat) => fail.map (fun f => f.val + 1) = some k ∨
        (k = 1 ∧ (dn h 0 4 ≠ 0x48584244 ∨ ∃ o, 0x30 ≤ o ∧ o < 0x40 ∧ nth h o ≠ 0)) ∨
        (k = 2 ∧ sha3 code ≠ (h.drop 0x10).take 32) ∨
        (k = 3 ∧ (Config.sigVerifies key (h.take 0x40) ((h.drop 0x560).take 2420) = false ∨ sha3 key ≠ s.keyHash)) ∨
        (k = 4 ∧ v.toNat < s.rollback.toNat)
      ∃ t, exec (.boot fail v) s = .next t ∧ t.halted = false ∧ t.powered = true ∧ t.launches = [] ∧ t.image = image ∧
        fld (t.reg 0) 8 8 = fld (s.reg 0) 8 8 ∧ (∀ c, (t.ctx c).mode = .free) ∧
        (∀ k, 1 ≤ k → k ≤ 6 → fails k → (∀ j, 1 ≤ j → j < k → ¬ fails j) → t.booted = false ∧ fld (t.reg 0) 0 8 = 0x80 + k ∧
          t.rollback = (if 4 < k then v else s.rollback) ∧ t.loaded = (if 5 < k then code else [])) ∧
        ((∀ k, 1 ≤ k → k ≤ 6 → ¬ fails k) → t.booted = true ∧ fld (t.reg 0) 0 8 = 1 ∧ t.rollback = v ∧ t.loaded = code) ∧
        (Memory.wf s.mem = true → ∀ a, (paPkg a ≠ s.myPkg ∨ paRegion a ≠ 2) → t.mem.get a = s.mem.get a)) ∧
    (s.booted = false → exec .errdrop s = .next { s with hostIn := leBytes 4 0 }) ∧
    (∃ t, exec .powerOff s = .next t ∧ t.powered = false ∧ t.booted = false ∧ t.launches = [] ∧ t.rollback = s.rollback ∧ t.reg 0 = 0) ∧
    (s.booted = true → s.powered = true → ∀ (nonce : BitVec 256) (lid : BitVec 32), ∃ t, exec (.attestationReport nonce lid) s = .next t ∧
      { t with report := s.report } = s ∧ t.report.take 32 = leBytes 32 nonce.toNat ∧ (t.report.drop 96).take 4 = leBytes 4 lid.toNat ∧
      (t.report.drop 32).take 32 = sha3 s.loaded ∧ (t.report.drop 64).take 32 = sha3 (Config.kernelOf s.loaded) ∧
      t.report.drop 0xA4 = (List.range 2420).map (Config.identitySign (t.report.take 0xA4))) ∧
    (let sampled := fun (c : Fin 4) => (s.ctx c).arch.tracecfg.getLsbD 61 = true ∧
       ((s.ctx c).mode = .live ∨ (s.ctx c).mode = .stopped ∨ ((s.ctx c).mode = .ended ∧ (s.launchOf (s.ctx c).lid).any Launch.held = true))
     ((∀ c, ¬ sampled c) → exec .sample s = .next s) ∧
     (∀ c, sampled c → (∀ d, d ≠ c → ¬ sampled d) →
       let base := (s.ctx c).arch.tracecfg.toNat % 2 ^ 44 * 2 ^ 12
       (base = 0 → exec .sample s = .next { s with times := s.times + 1 }) ∧
       (∀ tn tr, base ≠ 0 → (s.ctx c).logWait = [] → s.logTr c base = .ok tn → tn.wp = false →
         let n := s.memNat tn.pa 8
         let slot := base + 64 + 16 * (n % 2 ^ (fld (s.ctx c).arch.tracecfg 47 4 + 6))
         let counted := s.memPut tn.pa (leBytes 8 (n + 1))
         (∀ t, s.logTr c slot = .ok t → t.wp = false) → counted.logTr c slot = .ok tr →
         ∃ t r, exec .sample s = .next t ∧ t.mem = counted.mem.putList tr.pa (leBytes 7 (s.ctx c).lastPc ++ [2] ++ r) ∧ r.length = 8 ∧
           (∀ d, t.ctx d = s.ctx d) ∧ t.sp = s.sp ∧ t.tiles = s.tiles))) ∧
    (∃ t, exec .holdRelease s = .next t ∧ (∀ l ∈ t.launches, l.held = false) ∧
      (∀ c l, l ∈ s.launches → l.held = true → l.lid = (s.ctx c).lid → (t.ctx c).arch.landing = []) ∧ t.launches.map Launch.lid = s.launches.map Launch.lid ∧ SameStorage s t) ∧
    (∃ t, exec .holdTimeout s = .next t ∧
      (∀ l ∈ t.launches, ∀ f, l.fault = some f → l.attached = false → 1562500000 ≤ (s.gtb - f.gtb).toNat → l.held = false) ∧
      (∀ l ∈ s.launches, (l.attached = true ∨ ∀ f, l.fault = some f → (s.gtb - f.gtb).toNat < 1562500000) → l ∈ t.launches) ∧
      t.launches.map Launch.lid = s.launches.map Launch.lid ∧ SameStorage s t)

/-- Writes of the device registers (R388, R406, R407, R421 to R423, R445, R451, R452, R455): what each write that the device takes stores, and
nothing else; a new HOSTOFF moves the window onto host memory; a doorbell that asks for too much sets OVF, the invalidate queue's at the offset
that log 25 gives it; a base register holds what is written, its low bits too (log 38); an answer to a page fault lets the parked context go on, keeps it, or ends its
launch. -/
def Obligations.RegisterWrites : Prop :=
  ∀ (s : State) (w : RegWrite) (ws : List RegWrite), s.inbox = w :: ws → Store.wf s.mreg = true → s.booted = true →
    let u : State := { s with inbox := ws }
    let v := w.val
    let sets := fun (i : Instr) (o : Nat) (x : W64) => ∃ t, exec i s = .next t ∧ t.reg o = x ∧ (∀ o', o' ≠ o → t.reg o' = s.reg o') ∧
      t.inbox = ws ∧ (∀ c, t.ctx c = s.ctx c) ∧ t.mem = s.mem
    let refused := fun (logn head tail : Nat) => logn = 0 ∨ 12 < logn ∨ 2 ^ logn < (tail + 2 ^ 32 - head) % 2 ^ 32
    (w.size = 4 → sets .dbgsel 0x400000 (v &&& 0xFFFFFFF)) ∧
    (w.size = 4 → w.idx < 64 →
      let r := 0x100000 + 0x40 * w.idx
      let no := refused (fld (s.reg (r + 8)) 0 4) (s.reg (r + 0x10)).toNat (v.toNat % 2 ^ 32)
      (no → sets .qtail (r + 0x14) 1) ∧ (¬ no → sets .qtail (r + 0x0C) (BitVec.ofNat 64 (v.toNat % 2 ^ 32))) ∧
      (v.getLsbD 0 = true → sets .qstat (r + 0x14) 0)) ∧
    (w.size = 4 →
      let no := refused (fld (s.reg 0x200008) 0 4) (s.reg 0x200010).toNat (v.toNat % 2 ^ 32)
      (no → sets .iqtail 0x200014 1) ∧ (¬ no → sets .iqtail 0x20000C (BitVec.ofNat 64 (v.toNat % 2 ^ 32)))) ∧
    (w.size = 8 → w.idx < 6 →
      let r := 0x500080 + 0x100 * w.idx
      let top := fun (i : Nat) => if i = 0 then 0x320 else if i = 1 then 0x360 else 0x398
      ∃ t, exec .thcfg s = .next t ∧ (∀ o, o ≠ r → t.reg o = s.reg o) ∧ t.inbox = ws ∧
        ∀ i, i < 3 → fld (t.reg r) (16 * i) 16 = if fld v (16 * i) 16 ≤ top i then fld v (16 * i) 16 else fld (s.reg r) (16 * i) 16) ∧
    (w.size = 4 → w.idx < 6 → sets .thstat (0x500088 + 0x100 * w.idx) (s.reg (0x500088 + 0x100 * w.idx) &&& ~~~(v &&& 3))) ∧
    (w.size = 4 → w.host = false →
      sets .pwrcfg 0x500800 (BitVec.ofNat 64 (max 1200 (min 2400 (fld v 0 16)) + max 1 (fld v 16 8) * 2 ^ 16))) ∧
    (w.size = 8 → w.host = false →
      (w.idx = 0x1018 → ∃ t, exec .mgmtRegWrite s = .next t ∧ t.reg 0x1018 = v ∧ (∀ o, o ≠ 0x1018 → t.reg o = s.reg o) ∧ t.inbox = ws ∧
        (∀ c, t.ctx c = s.ctx c) ∧
        (Memory.wf s.mem = true → Store.wf s.hostMem = true → (∀ p ∈ s.mem, p.1 < 2 ^ 56) →
          (∀ p ∈ s.hostMem, p.1 < (s.reg 0x1018).toNat ∨ (s.reg 0x1018).toNat + 2 ^ 39 ≤ p.1) →
          let base := s.myPkg * 2 ^ 46 + 2 * 2 ^ 39
          let old := (s.reg 0x1018).toNat
          (∀ a, (paPkg a ≠ s.myPkg ∨ paRegion a ≠ 2) → t.mem.get a = s.mem.get a) ∧
          (∀ o, o < 2 ^ 39 → t.mem.get (base + o) =
            if old ≤ v.toNat + o ∧ v.toNat + o < old + 2 ^ 39 then s.mem.get (base + (v.toNat + o - old)) else s.hostMem.get (v.toNat + o)))) ∧
      (w.idx = 0x1000 → paPkg v.toNat = s.myPkg → paRegion v.toNat = 0 → v.toNat < 2 ^ 56 → sets .mgmtRegWrite 0x1000 v) ∧
      (w.idx = 0x1000 → paRegion v.toNat ≠ 0 → exec .mgmtRegWrite s = .next u)) ∧
    (w.host = true → w.idx < 64 → (s.reg (0x100000 + 0x40 * w.idx + 8)).getLsbD 11 = true → w.size = 8 →
      ∃ t, exec .mgmtRegWrite { s with inbox := { w with idx := 0x100000 + 0x40 * w.idx } :: ws } = .next t ∧
        t.reg (0x100000 + 0x40 * w.idx) = v ∧ (∀ o, o ≠ 0x100000 + 0x40 * w.idx → t.reg o = s.reg o) ∧ t.inbox = ws) ∧
    (w.size = 8 → w.host = false → ∀ (c : Fin 4) (va : Addr) (kind : BitVec 2), s.parkedCtx (fld v 0 48) = some (c, va, kind) →
      (s.ctx c).mode = .live ∧ fld (s.ctx c).ctxid 0 48 = fld v 0 48 ∧
      (fld v 48 2 = 0 → exec .pfack s = .next (u.trapRestore c)) ∧
      (∀ long logged, fld v 48 2 = 1 → (s.ctx c).wait = .probe va kind long logged →
        exec .pfack s = .next (u.mod c (fun x => { x with wait := .probe va kind true logged }))) ∧
      (fld v 48 2 = 2 → exec .pfack s = .next (u.fatal c 0x06 (s.ctx c).arch.pc 0))) ∧
    (∃ t, exec .errdrop s = .next t ∧ t.hostIn = leBytes 4 (s.reg 0x1058).toNat ∧ t.reg 0x1058 = 0 ∧ (∀ o, o ≠ 0x1058 → t.reg o = s.reg o) ∧ t.inbox = s.inbox)

/-! ### Invariants -/

/-- Every step keeps the canonical form of memory: addresses strictly rising, and no byte listed that an unlisted address reads as. -/
def Obligations.MemCanonical : Prop :=
  ∀ s t : State, Memory.wf s.mem = true → step s = .next t → Memory.wf t.mem = true

/-- The machine after reset (R13, R225, R421, R451, R455, R460, R461): its memory is in canonical form, nothing is booted and no launch or
context exists; g0 and k0 read as they are wired; the thermal and power registers hold their reset values. What the spec leaves open reads
zero, by log 2 and log 3. -/
def Obligations.ResetValues : Prop :=
  Memory.wf State.reset.mem = true ∧ State.reset.booted = false ∧ State.reset.launches = [] ∧ State.reset.run = none ∧
  (∀ c, (State.reset.ctx c).mode = .free ∧ (State.reset.ctx c).arch.rg 0 = true ∧ (State.reset.ctx c).arch.rk 0 = BitVec.allOnes 128) ∧
  (∀ n, State.reset.semVal.get n = 0 ∧ State.reset.semLatch.get n = 0) ∧ (∀ k, State.reset.tile k = {}) ∧ (∀ a, State.reset.mem.get a = 0) ∧
  (∀ d, d < 6 → State.reset.reg (0x500080 + 0x100 * d) = 0x0398_0360_0320) ∧ State.reset.reg 0x500800 = 0x0030_0960 ∧
  (∀ n, n < 64 → State.reset.reg (0x100008 + 0x40 * n) = 0)
end

