-- ==== Sys2Proof/Laws/Encoding.lean ====
section
/-! SUPPORT. What the encoder's words decode to, format by format: every field of a format is read back from its words. -/

set_option Elab.async false

namespace Sys2Proof.Laws

open Sys2Proof Sys2Proof.Machine

theorem extract_ofNat (n lo len : Nat) (x : BitVec len) (h : n / 2 ^ lo % 2 ^ len = x.toNat) (hn : n < 2 ^ 32) :
    (BitVec.ofNat 32 n).extractLsb' lo len = x := by
  apply BitVec.eq_of_toNat_eq
  rw [BitVec.extractLsb'_toNat, BitVec.toNat_ofNat, Nat.mod_eq_of_lt hn, Nat.shiftRight_eq_div_pow, h]

theorem extract_ofNat64 (n lo len : Nat) (x : BitVec len) (h : n / 2 ^ lo % 2 ^ len = x.toNat) (hn : n < 2 ^ 64) :
    (BitVec.ofNat 64 n).extractLsb' lo len = x := by
  apply BitVec.eq_of_toNat_eq
  rw [BitVec.extractLsb'_toNat, BitVec.toNat_ofNat, Nat.mod_eq_of_lt hn, Nat.shiftRight_eq_div_pow, h]

theorem getLsbD_ofNat (n lo : Nat) (b : Bool) (h : n / 2 ^ lo % 2 = b.toNat) (hn : n < 2 ^ 32) :
    (BitVec.ofNat 32 n).getLsbD lo = b := by
  have h32 : n % 2 ^ 32 = n := Nat.mod_eq_of_lt hn
  rw [BitVec.getLsbD, BitVec.toNat_ofNat, h32, Nat.testBit_eq_decide_div_mod_eq, h]
  cases b <;> rfl

theorem opField_ofNat (n op : Nat) (h : n / 64 % 64 = op) (hn : n < 2 ^ 32) : opField (BitVec.ofNat 32 n) = op := by
  rw [opField, nfld, BitVec.toNat_ofNat, Nat.mod_eq_of_lt hn, Nat.shiftRight_eq_div_pow]
  exact h

theorem boolNat_lt (b : Bool) : b.toNat < 2 := by cases b <;> decide

/-- An S or M syllable (R93). -/
theorem encS_fields (op : Nat) (hop : op < 64) (f : SF) (stop : Bool) :
    ∃ w, encS op f stop = [w] ∧ sfOf w = f ∧ opField w = op := by
  obtain ⟨x, g, st⟩ := f
  have hx := x.isLt; have hg := g.isLt; have hs := boolNat_lt st; have hp := boolNat_lt stop
  refine ⟨_, rfl, ?_, ?_⟩
  · simp only [sfOf, low12]
    rw [extract_ofNat _ 12 20 x (by omega) (by omega), extract_ofNat _ 2 4 g (by omega) (by omega),
      getLsbD_ofNat _ 1 st (by omega) (by omega)]
  · exact opField_ofNat _ _ (by simp only [low12]; omega) (by simp only [low12]; omega)

/-- An X syllable (R93). -/
theorem encX_fields (op : Nat) (hop : op < 64) (f : XF) (stop : Bool) :
    ∃ w, encX op f stop = [w] ∧ xfOf w = f ∧ opField w = op := by
  obtain ⟨fn, d, v, h, j, g, st⟩ := f
  have h1 := fn.isLt; have h2 := d.isLt; have h3 := v.isLt; have h4 := h.isLt; have h5 := j.isLt
  have hg := g.isLt; have hs := boolNat_lt st; have hp := boolNat_lt stop
  refine ⟨_, rfl, ?_, ?_⟩
  · simp only [xfOf, low12]
    rw [extract_ofNat _ 28 4 fn (by omega) (by omega), extract_ofNat _ 23 5 d (by omega) (by omega),
      extract_ofNat _ 18 5 v (by omega) (by omega), extract_ofNat _ 15 3 h (by omega) (by omega),
      extract_ofNat _ 12 3 j (by omega) (by omega), extract_ofNat _ 2 4 g (by omega) (by omega),
      getLsbD_ofNat _ 1 st (by omega) (by omega)]
  · exact opField_ofNat _ _ (by simp only [low12]; omega) (by simp only [low12]; omega)

/-- The two A syllables (R94, R104). -/
theorem encA_fields (op : Nat) (hop : op < 64) (f : AF) (stop : Bool) :
    ∃ w0 w1, encA op f stop = [w0, w1] ∧ afOf w0 w1 = f ∧ opField w0 = op := by
  obtain ⟨w, b, a, d, q, cls, imm, g, st⟩ := f
  have h1 := w.isLt; have h2 := b.isLt; have h3 := a.isLt; have h4 := d.isLt; have h5 := q.isLt; have h6 := cls.isLt
  have h7 := imm.isLt; have hg := g.isLt; have hs := boolNat_lt st; have hp := boolNat_lt stop
  have hf : (false : Bool).toNat = 0 := rfl
  refine ⟨_, _, rfl, ?_, ?_⟩
  · simp only [afOf, low12, hf]
    rw [extract_ofNat _ 30 2 w (by omega) (by omega), extract_ofNat _ 24 6 b (by omega) (by omega),
      extract_ofNat _ 18 6 a (by omega) (by omega), extract_ofNat _ 12 6 d (by omega) (by omega),
      extract_ofNat _ 29 3 q (by omega) (by omega), extract_ofNat _ 25 4 cls (by omega) (by omega),
      extract_ofNat _ 1 24 imm (by omega) (by omega), extract_ofNat _ 2 4 g (by omega) (by omega),
      getLsbD_ofNat _ 1 st (by omega) (by omega)]
  · exact opField_ofNat _ _ (by simp only [low12, hf]; omega) (by simp only [low12, hf]; omega)

/-- The two V syllables (R94, R164). -/
theorem encV_fields (op : Nat) (hop : op < 64) (f : VF) (stop : Bool) :
    ∃ w0 w1, encV op f stop = [w0, w1] ∧ vfOf w0 w1 = f ∧ opField w0 = op := by
  obtain ⟨peer, ty, base, gs, v, q, cls, imm, g, st⟩ := f
  have h1 := boolNat_lt peer; have h2 := ty.isLt; have h3 := base.isLt; have h4 := gs.isLt; have h5 := v.isLt
  have h8 := q.isLt; have h6 := cls.isLt
  have h7 := imm.isLt; have hg := g.isLt; have hs := boolNat_lt st; have hp := boolNat_lt stop
  have hf : (false : Bool).toNat = 0 := rfl
  refine ⟨_, _, rfl, ?_, ?_⟩
  · simp only [vfOf, low12, hf]
    rw [getLsbD_ofNat _ 31 peer (by omega) (by omega), extract_ofNat _ 27 4 ty (by omega) (by omega),
      extract_ofNat _ 21 6 base (by omega) (by omega),
      extract_ofNat _ 17 4 gs (by omega) (by omega), extract_ofNat _ 12 5 v (by omega) (by omega),
      extract_ofNat _ 29 3 q (by omega) (by omega), extract_ofNat _ 25 4 cls (by omega) (by omega),
      extract_ofNat _ 1 24 imm (by omega) (by omega), extract_ofNat _ 2 4 g (by omega) (by omega),
      getLsbD_ofNat _ 1 st (by omega) (by omega)]
  · exact opField_ofNat _ _ (by simp only [low12, hf]; omega) (by simp only [low12, hf]; omega)

/-- The two E syllables (R94, R228). -/
theorem encE_fields (op : Nat) (hop : op < 64) (f : EF) (stop : Bool) :
    ∃ w0 w1, encE op f stop = [w0, w1] ∧ efOf w0 w1 = f ∧ opField w0 = op := by
  obtain ⟨sig, thr, wsem, q, vc, toff, dreg, inc, g, st⟩ := f
  have h1 := sig.isLt; have h2 := thr.isLt; have h3 := wsem.isLt; have h4 := q.isLt; have h5 := vc.isLt
  have h8 := toff.isLt; have h6 := dreg.isLt; have h7 := inc.isLt
  have hg := g.isLt; have hs := boolNat_lt st; have hp := boolNat_lt stop
  have hf : (false : Bool).toNat = 0 := rfl
  refine ⟨_, _, rfl, ?_, ?_⟩
  · simp only [efOf, low12, hf]
    rw [extract_ofNat _ 24 8 sig (by omega) (by omega), extract_ofNat _ 20 4 thr (by omega) (by omega),
      extract_ofNat _ 12 8 wsem (by omega) (by omega),
      extract_ofNat _ 30 2 q (by omega) (by omega), extract_ofNat _ 27 3 vc (by omega) (by omega),
      extract_ofNat _ 11 16 toff (by omega) (by omega), extract_ofNat _ 5 6 dreg (by omega) (by omega),
      extract_ofNat _ 1 4 inc (by omega) (by omega), extract_ofNat _ 2 4 g (by omega) (by omega),
      getLsbD_ofNat _ 1 st (by omega) (by omega)]
  · exact opField_ofNat _ _ (by simp only [low12, hf]; omega) (by simp only [low12, hf]; omega)

/-- The two O syllables (R94, R181). -/
theorem encO_fields (op : Nat) (hop : op < 64) (f : OF) (stop : Bool) :
    ∃ w0 w1, encO op f stop = [w0, w1] ∧ ofOf w0 w1 = f ∧ opField w0 = op := by
  obtain ⟨z0, seg, v, row, acc, z1, cls, z2, cnt, gs, g, st⟩ := f
  have h1 := z0.isLt; have h2 := seg.isLt; have h3 := v.isLt; have h4 := row.isLt; have h5 := acc.isLt
  have h8 := z1.isLt; have h6 := cls.isLt; have h7 := z2.isLt; have h9 := cnt.isLt; have h10 := gs.isLt
  have hg := g.isLt; have hs := boolNat_lt st; have hp := boolNat_lt stop
  have hf : (false : Bool).toNat = 0 := rfl
  refine ⟨_, _, rfl, ?_, ?_⟩
  · simp only [ofOf, low12, hf]
    rw [extract_ofNat _ 30 2 z0 (by omega) (by omega), extract_ofNat _ 27 3 seg (by omega) (by omega),
      extract_ofNat _ 22 5 v (by omega) (by omega), extract_ofNat _ 15 7 row (by omega) (by omega),
      extract_ofNat _ 12 3 acc (by omega) (by omega), extract_ofNat _ 29 3 z1 (by omega) (by omega),
      extract_ofNat _ 25 4 cls (by omega) (by omega), extract_ofNat _ 12 13 z2 (by omega) (by omega),
      extract_ofNat _ 5 7 cnt (by omega) (by omega),
      extract_ofNat _ 1 4 gs (by omega) (by omega), extract_ofNat _ 2 4 g (by omega) (by omega),
      getLsbD_ofNat _ 1 st (by omega) (by omega)]
  · exact opField_ofNat _ _ (by simp only [low12, hf]; omega) (by simp only [low12, hf]; omega)

/-- The two syllables of a triad (R96): the fields that its three units share. -/
theorem encT_fields (f : TF) (stop : Bool) :
    ∃ w0 w1, encT f stop = [w0, w1] ∧ ∀ p, tfOf f.grp p w0 w1 = { f with pos := p } := by
  obtain ⟨grp, pos, fuse, srcA, ga, be, al, k, g, st, z, sel, ty, dest, srcD, srcC, srcB⟩ := f
  have h1 := boolNat_lt fuse; have h2 := srcA.isLt; have h3 := ga.isLt; have h4 := be.isLt; have h5 := al.isLt
  have h6 := k.isLt; have hg := g.isLt; have hs := boolNat_lt st; have hz := boolNat_lt z; have h7 := sel.isLt
  have h8 := ty.isLt; have h9 := dest.isLt; have h10 := srcD.isLt; have h11 := srcC.isLt; have h12 := srcB.isLt
  have hp := boolNat_lt stop
  refine ⟨_, _, rfl, fun p => ?_⟩
  simp only [tfOf]
  rw [getLsbD_ofNat _ 31 fuse (by omega) (by omega), extract_ofNat _ 25 6 srcA (by omega) (by omega),
    extract_ofNat _ 20 5 ga (by omega) (by omega), extract_ofNat _ 15 5 be (by omega) (by omega),
    extract_ofNat _ 10 5 al (by omega) (by omega), extract_ofNat _ 6 4 k (by omega) (by omega),
    extract_ofNat _ 2 4 g (by omega) (by omega), getLsbD_ofNat _ 1 st (by omega) (by omega),
    getLsbD_ofNat _ 31 z (by omega) (by omega), extract_ofNat _ 28 3 sel (by omega) (by omega),
    extract_ofNat _ 25 3 ty (by omega) (by omega), extract_ofNat _ 19 6 dest (by omega) (by omega),
    extract_ofNat _ 13 6 srcD (by omega) (by omega), extract_ofNat _ 7 6 srcC (by omega) (by omega),
    extract_ofNat _ 1 6 srcB (by omega) (by omega)]

/-- A microprogram word (R199). -/
theorem encW_fields (op : Nat) (hop : op < 64) (f : WF) :
    ∃ w0 w1, encW op f = [w0, w1] ∧ wfOf (BitVec.ofNat 64 (w1.toNat * 2 ^ 32 + w0.toNat)) = f ∧
      nfld (BitVec.ofNat 64 (w1.toNat * 2 ^ 32 + w0.toNat)).toNat 0 6 = op := by
  obtain ⟨imm, f4, f3, f2, f1, f0⟩ := f
  have h1 := imm.isLt; have h2 := f4.isLt; have h3 := f3.isLt; have h4 := f2.isLt; have h5 := f1.isLt; have h6 := f0.isLt
  refine ⟨_, _, rfl, ?_, ?_⟩
  · simp only [wfOf, BitVec.toNat_ofNat]
    rw [extract_ofNat64 _ 40 24 imm (by omega) (by omega), extract_ofNat64 _ 32 8 f4 (by omega) (by omega),
      extract_ofNat64 _ 24 8 f3 (by omega) (by omega), extract_ofNat64 _ 18 6 f2 (by omega) (by omega),
      extract_ofNat64 _ 12 6 f1 (by omega) (by omega), extract_ofNat64 _ 6 6 f0 (by omega) (by omega)]
  · simp only [nfld, BitVec.toNat_ofNat, Nat.shiftRight_eq_div_pow]; omega

/-- An epilogue instruction (R216). -/
theorem encP_fields (op : Nat) (hop : op < 32) (f : PF) :
    ∃ w, encP op f = [w] ∧ pfOf w = f ∧ nfld w.toNat 0 5 = op := by
  obtain ⟨x, c, b, a, d⟩ := f
  have h1 := x.isLt; have h2 := c.isLt; have h3 := b.isLt; have h4 := a.isLt; have h5 := d.isLt
  refine ⟨_, rfl, ?_, ?_⟩
  · simp only [pfOf]
    rw [extract_ofNat _ 17 15 x (by omega) (by omega), extract_ofNat _ 14 3 c (by omega) (by omega),
      extract_ofNat _ 11 3 b (by omega) (by omega), extract_ofNat _ 8 3 a (by omega) (by omega),
      extract_ofNat _ 5 3 d (by omega) (by omega)]
  · simp only [nfld, BitVec.toNat_ofNat, Nat.shiftRight_eq_div_pow]; omega

/-- A management-core instruction (R261). -/
theorem encH_fields (funct : Nat) (hf : funct < 8) (f : RF) :
    ∃ w, encH funct f = [w] ∧ rfOf w = f ∧ nfld w.toNat 0 7 = 0x0B ∧ nfld w.toNat 25 7 = 0 ∧ nfld w.toNat 12 3 = funct := by
  obtain ⟨rs2, rs1, rd⟩ := f
  have h1 := rs2.isLt; have h2 := rs1.isLt; have h3 := rd.isLt
  refine ⟨_, rfl, ?_, ?_, ?_, ?_⟩
  · simp only [rfOf]
    rw [extract_ofNat _ 20 5 rs2 (by omega) (by omega), extract_ofNat _ 15 5 rs1 (by omega) (by omega),
      extract_ofNat _ 7 5 rd (by omega) (by omega)]
  all_goals simp only [nfld, BitVec.toNat_ofNat, Nat.shiftRight_eq_div_pow]; omega

/-- Bit b of an S syllable, b ≥ 12, is bit b − 12 of its operand field (R93). -/
theorem sfOf_bit (w : W32) (f : SF) (h : sfOf w = f) (b : Nat) (hb : b < 20) : w.getLsbD (12 + b) = f.x.getLsbD b := by
  subst h; simp [sfOf, hb]

/-- The variant code w of an A slot is bits 31:30 of its first syllable (R104). -/
theorem afOf_w (w0 w1 : W32) (f : AF) (h : afOf w0 w1 = f) : w0.extractLsb' 30 2 = f.w := by subst h; rfl

/-- The positions from 7 on are the triads' (R73). -/
theorem decodeSlot_triad (g : BitVec 3) (w0 w1 : W32) : decodeSlot (7 + g.toNat) w0 w1 = decodeT g w0 w1 := by
  have : decodeSlot (7 + g.toNat) w0 w1 = decodeT (BitVec.ofNat 3 (7 + g.toNat - 7)) w0 w1 := by
    rw [Nat.add_comm]; rfl
  rw [this]; simp

end Sys2Proof.Laws
end

