-- ==== Sys2Proof/Laws/State.lean ====
section
/-! SUPPORT. The small laws of the updates of the state: what each update of a context or of the machine leaves as it is, field by
field, and what it writes. -/

set_option Elab.async false

namespace Sys2Proof.Laws

open Sys2Proof Sys2Proof.Machine

/-! ### One context replaced or changed -/

@[simp] theorem setCtx_ctx_same (s : State) (c : Fin 4) (x : Context) : (s.setCtx c x).ctx c = x :=
  match c with | 0 => rfl | 1 => rfl | 2 => rfl | 3 => rfl

theorem setCtx_ctx_ne (s : State) (c d : Fin 4) (x : Context) (h : d ≠ c) : (s.setCtx c x).ctx d = s.ctx d := by
  revert h
  match c, d with
  | 0, 0 => exact fun h => absurd rfl h
  | 0, 1 => exact fun _ => rfl
  | 0, 2 => exact fun _ => rfl
  | 0, 3 => exact fun _ => rfl
  | 1, 0 => exact fun _ => rfl
  | 1, 1 => exact fun h => absurd rfl h
  | 1, 2 => exact fun _ => rfl
  | 1, 3 => exact fun _ => rfl
  | 2, 0 => exact fun _ => rfl
  | 2, 1 => exact fun _ => rfl
  | 2, 2 => exact fun h => absurd rfl h
  | 2, 3 => exact fun _ => rfl
  | 3, 0 => exact fun _ => rfl
  | 3, 1 => exact fun _ => rfl
  | 3, 2 => exact fun _ => rfl
  | 3, 3 => exact fun h => absurd rfl h

theorem setCtx_ctx (s : State) (c d : Fin 4) (x : Context) : (s.setCtx c x).ctx d = if d = c then x else s.ctx d := by
  by_cases h : d = c
  · subst h; simp
  · rw [if_neg h, setCtx_ctx_ne s c d x h]

@[simp] theorem setCtx_self (s : State) (c : Fin 4) : s.setCtx c (s.ctx c) = s :=
  match c with | 0 => rfl | 1 => rfl | 2 => rfl | 3 => rfl

@[simp] theorem setCtx_setCtx (s : State) (c : Fin 4) (x y : Context) : (s.setCtx c x).setCtx c y = s.setCtx c y :=
  match c with | 0 => rfl | 1 => rfl | 2 => rfl | 3 => rfl

@[simp] theorem setCtx_away (s : State) (c : Fin 4) (x : Context) : (s.setCtx c x).away = s.away :=
  match c with | 0 => rfl | 1 => rfl | 2 => rfl | 3 => rfl
@[simp] theorem setCtx_cur (s : State) (c : Fin 4) (x : Context) : (s.setCtx c x).cur = s.cur :=
  match c with | 0 => rfl | 1 => rfl | 2 => rfl | 3 => rfl
@[simp] theorem setCtx_casc (s : State) (c : Fin 4) (x : Context) : (s.setCtx c x).casc = s.casc :=
  match c with | 0 => rfl | 1 => rfl | 2 => rfl | 3 => rfl
@[simp] theorem setCtx_sp (s : State) (c : Fin 4) (x : Context) : (s.setCtx c x).sp = s.sp :=
  match c with | 0 => rfl | 1 => rfl | 2 => rfl | 3 => rfl
@[simp] theorem setCtx_tiles (s : State) (c : Fin 4) (x : Context) : (s.setCtx c x).tiles = s.tiles :=
  match c with | 0 => rfl | 1 => rfl | 2 => rfl | 3 => rfl
@[simp] theorem setCtx_semVal (s : State) (c : Fin 4) (x : Context) : (s.setCtx c x).semVal = s.semVal :=
  match c with | 0 => rfl | 1 => rfl | 2 => rfl | 3 => rfl
@[simp] theorem setCtx_semLatch (s : State) (c : Fin 4) (x : Context) : (s.setCtx c x).semLatch = s.semLatch :=
  match c with | 0 => rfl | 1 => rfl | 2 => rfl | 3 => rfl
@[simp] theorem setCtx_semCode (s : State) (c : Fin 4) (x : Context) : (s.setCtx c x).semCode = s.semCode :=
  match c with | 0 => rfl | 1 => rfl | 2 => rfl | 3 => rfl
@[simp] theorem setCtx_hasps (s : State) (c : Fin 4) (x : Context) : (s.setCtx c x).hasps = s.hasps :=
  match c with | 0 => rfl | 1 => rfl | 2 => rfl | 3 => rfl
@[simp] theorem setCtx_acc (s : State) (c : Fin 4) (x : Context) : (s.setCtx c x).acc = s.acc :=
  match c with | 0 => rfl | 1 => rfl | 2 => rfl | 3 => rfl
@[simp] theorem setCtx_mu (s : State) (c : Fin 4) (x : Context) : (s.setCtx c x).mu = s.mu :=
  match c with | 0 => rfl | 1 => rfl | 2 => rfl | 3 => rfl
@[simp] theorem setCtx_ep (s : State) (c : Fin 4) (x : Context) : (s.setCtx c x).ep = s.ep :=
  match c with | 0 => rfl | 1 => rfl | 2 => rfl | 3 => rfl
@[simp] theorem setCtx_scaleCache (s : State) (c : Fin 4) (x : Context) : (s.setCtx c x).scaleCache = s.scaleCache :=
  match c with | 0 => rfl | 1 => rfl | 2 => rfl | 3 => rfl
@[simp] theorem setCtx_run (s : State) (c : Fin 4) (x : Context) : (s.setCtx c x).run = s.run :=
  match c with | 0 => rfl | 1 => rfl | 2 => rfl | 3 => rfl
@[simp] theorem setCtx_lastCallCtx (s : State) (c : Fin 4) (x : Context) : (s.setCtx c x).lastCallCtx = s.lastCallCtx :=
  match c with | 0 => rfl | 1 => rfl | 2 => rfl | 3 => rfl
@[simp] theorem setCtx_collTurn (s : State) (c : Fin 4) (x : Context) : (s.setCtx c x).collTurn = s.collTurn :=
  match c with | 0 => rfl | 1 => rfl | 2 => rfl | 3 => rfl
@[simp] theorem setCtx_wire (s : State) (c : Fin 4) (x : Context) : (s.setCtx c x).wire = s.wire :=
  match c with | 0 => rfl | 1 => rfl | 2 => rfl | 3 => rfl
@[simp] theorem setCtx_bankQ (s : State) (c : Fin 4) (x : Context) : (s.setCtx c x).bankQ = s.bankQ :=
  match c with | 0 => rfl | 1 => rfl | 2 => rfl | 3 => rfl
@[simp] theorem setCtx_bankCycle (s : State) (c : Fin 4) (x : Context) : (s.setCtx c x).bankCycle = s.bankCycle :=
  match c with | 0 => rfl | 1 => rfl | 2 => rfl | 3 => rfl
@[simp] theorem setCtx_mem (s : State) (c : Fin 4) (x : Context) : (s.setCtx c x).mem = s.mem :=
  match c with | 0 => rfl | 1 => rfl | 2 => rfl | 3 => rfl
@[simp] theorem setCtx_wrote (s : State) (c : Fin 4) (x : Context) : (s.setCtx c x).wrote = s.wrote :=
  match c with | 0 => rfl | 1 => rfl | 2 => rfl | 3 => rfl
@[simp] theorem setCtx_hostMem (s : State) (c : Fin 4) (x : Context) : (s.setCtx c x).hostMem = s.hostMem :=
  match c with | 0 => rfl | 1 => rfl | 2 => rfl | 3 => rfl
@[simp] theorem setCtx_stCore (s : State) (c : Fin 4) (x : Context) : (s.setCtx c x).stCore = s.stCore :=
  match c with | 0 => rfl | 1 => rfl | 2 => rfl | 3 => rfl
@[simp] theorem setCtx_stCluster (s : State) (c : Fin 4) (x : Context) : (s.setCtx c x).stCluster = s.stCluster :=
  match c with | 0 => rfl | 1 => rfl | 2 => rfl | 3 => rfl
@[simp] theorem setCtx_stDie (s : State) (c : Fin 4) (x : Context) : (s.setCtx c x).stDie = s.stDie :=
  match c with | 0 => rfl | 1 => rfl | 2 => rfl | 3 => rfl
@[simp] theorem setCtx_homeQ (s : State) (c : Fin 4) (x : Context) : (s.setCtx c x).homeQ = s.homeQ :=
  match c with | 0 => rfl | 1 => rfl | 2 => rfl | 3 => rfl
@[simp] theorem setCtx_nextHome (s : State) (c : Fin 4) (x : Context) : (s.setCtx c x).nextHome = s.nextHome :=
  match c with | 0 => rfl | 1 => rfl | 2 => rfl | 3 => rfl
@[simp] theorem setCtx_pkgTumbler (s : State) (c : Fin 4) (x : Context) : (s.setCtx c x).pkgTumbler = s.pkgTumbler :=
  match c with | 0 => rfl | 1 => rfl | 2 => rfl | 3 => rfl
@[simp] theorem setCtx_domTumbler (s : State) (c : Fin 4) (x : Context) : (s.setCtx c x).domTumbler = s.domTumbler :=
  match c with | 0 => rfl | 1 => rfl | 2 => rfl | 3 => rfl
@[simp] theorem setCtx_srPos (s : State) (c : Fin 4) (x : Context) : (s.setCtx c x).srPos = s.srPos :=
  match c with | 0 => rfl | 1 => rfl | 2 => rfl | 3 => rfl
@[simp] theorem setCtx_tlb (s : State) (c : Fin 4) (x : Context) : (s.setCtx c x).tlb = s.tlb :=
  match c with | 0 => rfl | 1 => rfl | 2 => rfl | 3 => rfl
@[simp] theorem setCtx_tlbOld (s : State) (c : Fin 4) (x : Context) : (s.setCtx c x).tlbOld = s.tlbOld :=
  match c with | 0 => rfl | 1 => rfl | 2 => rfl | 3 => rfl
@[simp] theorem setCtx_invals (s : State) (c : Fin 4) (x : Context) : (s.setCtx c x).invals = s.invals :=
  match c with | 0 => rfl | 1 => rfl | 2 => rfl | 3 => rfl
@[simp] theorem setCtx_mreg (s : State) (c : Fin 4) (x : Context) : (s.setCtx c x).mreg = s.mreg :=
  match c with | 0 => rfl | 1 => rfl | 2 => rfl | 3 => rfl
@[simp] theorem setCtx_launches (s : State) (c : Fin 4) (x : Context) : (s.setCtx c x).launches = s.launches :=
  match c with | 0 => rfl | 1 => rfl | 2 => rfl | 3 => rfl
@[simp] theorem setCtx_sched (s : State) (c : Fin 4) (x : Context) : (s.setCtx c x).sched = s.sched :=
  match c with | 0 => rfl | 1 => rfl | 2 => rfl | 3 => rfl
@[simp] theorem setCtx_groups (s : State) (c : Fin 4) (x : Context) : (s.setCtx c x).groups = s.groups :=
  match c with | 0 => rfl | 1 => rfl | 2 => rfl | 3 => rfl
@[simp] theorem setCtx_fused (s : State) (c : Fin 4) (x : Context) : (s.setCtx c x).fused = s.fused :=
  match c with | 0 => rfl | 1 => rfl | 2 => rfl | 3 => rfl
@[simp] theorem setCtx_gtb (s : State) (c : Fin 4) (x : Context) : (s.setCtx c x).gtb = s.gtb :=
  match c with | 0 => rfl | 1 => rfl | 2 => rfl | 3 => rfl
@[simp] theorem setCtx_booted (s : State) (c : Fin 4) (x : Context) : (s.setCtx c x).booted = s.booted :=
  match c with | 0 => rfl | 1 => rfl | 2 => rfl | 3 => rfl
@[simp] theorem setCtx_halted (s : State) (c : Fin 4) (x : Context) : (s.setCtx c x).halted = s.halted :=
  match c with | 0 => rfl | 1 => rfl | 2 => rfl | 3 => rfl
@[simp] theorem setCtx_powered (s : State) (c : Fin 4) (x : Context) : (s.setCtx c x).powered = s.powered :=
  match c with | 0 => rfl | 1 => rfl | 2 => rfl | 3 => rfl
@[simp] theorem setCtx_rollback (s : State) (c : Fin 4) (x : Context) : (s.setCtx c x).rollback = s.rollback :=
  match c with | 0 => rfl | 1 => rfl | 2 => rfl | 3 => rfl
@[simp] theorem setCtx_image (s : State) (c : Fin 4) (x : Context) : (s.setCtx c x).image = s.image :=
  match c with | 0 => rfl | 1 => rfl | 2 => rfl | 3 => rfl
@[simp] theorem setCtx_keyHash (s : State) (c : Fin 4) (x : Context) : (s.setCtx c x).keyHash = s.keyHash :=
  match c with | 0 => rfl | 1 => rfl | 2 => rfl | 3 => rfl
@[simp] theorem setCtx_loaded (s : State) (c : Fin 4) (x : Context) : (s.setCtx c x).loaded = s.loaded :=
  match c with | 0 => rfl | 1 => rfl | 2 => rfl | 3 => rfl
@[simp] theorem setCtx_tests (s : State) (c : Fin 4) (x : Context) : (s.setCtx c x).tests = s.tests :=
  match c with | 0 => rfl | 1 => rfl | 2 => rfl | 3 => rfl
@[simp] theorem setCtx_spares (s : State) (c : Fin 4) (x : Context) : (s.setCtx c x).spares = s.spares :=
  match c with | 0 => rfl | 1 => rfl | 2 => rfl | 3 => rfl
@[simp] theorem setCtx_reported (s : State) (c : Fin 4) (x : Context) : (s.setCtx c x).reported = s.reported :=
  match c with | 0 => rfl | 1 => rfl | 2 => rfl | 3 => rfl
@[simp] theorem setCtx_retiredUnits (s : State) (c : Fin 4) (x : Context) : (s.setCtx c x).retiredUnits = s.retiredUnits :=
  match c with | 0 => rfl | 1 => rfl | 2 => rfl | 3 => rfl
@[simp] theorem setCtx_refAcc (s : State) (c : Fin 4) (x : Context) : (s.setCtx c x).refAcc = s.refAcc :=
  match c with | 0 => rfl | 1 => rfl | 2 => rfl | 3 => rfl
@[simp] theorem setCtx_refAt (s : State) (c : Fin 4) (x : Context) : (s.setCtx c x).refAt = s.refAt :=
  match c with | 0 => rfl | 1 => rfl | 2 => rfl | 3 => rfl
@[simp] theorem setCtx_owed (s : State) (c : Fin 4) (x : Context) : (s.setCtx c x).owed = s.owed :=
  match c with | 0 => rfl | 1 => rfl | 2 => rfl | 3 => rfl
@[simp] theorem setCtx_refDiv (s : State) (c : Fin 4) (x : Context) : (s.setCtx c x).refDiv = s.refDiv :=
  match c with | 0 => rfl | 1 => rfl | 2 => rfl | 3 => rfl
@[simp] theorem setCtx_bad (s : State) (c : Fin 4) (x : Context) : (s.setCtx c x).bad = s.bad :=
  match c with | 0 => rfl | 1 => rfl | 2 => rfl | 3 => rfl
@[simp] theorem setCtx_corrected (s : State) (c : Fin 4) (x : Context) : (s.setCtx c x).corrected = s.corrected :=
  match c with | 0 => rfl | 1 => rfl | 2 => rfl | 3 => rfl
@[simp] theorem setCtx_evalAt (s : State) (c : Fin 4) (x : Context) : (s.setCtx c x).evalAt = s.evalAt :=
  match c with | 0 => rfl | 1 => rfl | 2 => rfl | 3 => rfl
@[simp] theorem setCtx_critSeen (s : State) (c : Fin 4) (x : Context) : (s.setCtx c x).critSeen = s.critSeen :=
  match c with | 0 => rfl | 1 => rfl | 2 => rfl | 3 => rfl
@[simp] theorem setCtx_power (s : State) (c : Fin 4) (x : Context) : (s.setCtx c x).power = s.power :=
  match c with | 0 => rfl | 1 => rfl | 2 => rfl | 3 => rfl
@[simp] theorem setCtx_lostPkgs (s : State) (c : Fin 4) (x : Context) : (s.setCtx c x).lostPkgs = s.lostPkgs :=
  match c with | 0 => rfl | 1 => rfl | 2 => rfl | 3 => rfl
@[simp] theorem setCtx_lostPaths (s : State) (c : Fin 4) (x : Context) : (s.setCtx c x).lostPaths = s.lostPaths :=
  match c with | 0 => rfl | 1 => rfl | 2 => rfl | 3 => rfl
@[simp] theorem setCtx_routes (s : State) (c : Fin 4) (x : Context) : (s.setCtx c x).routes = s.routes :=
  match c with | 0 => rfl | 1 => rfl | 2 => rfl | 3 => rfl
@[simp] theorem setCtx_hart (s : State) (c : Fin 4) (x : Context) : (s.setCtx c x).hart = s.hart :=
  match c with | 0 => rfl | 1 => rfl | 2 => rfl | 3 => rfl
@[simp] theorem setCtx_hartNo (s : State) (c : Fin 4) (x : Context) : (s.setCtx c x).hartNo = s.hartNo :=
  match c with | 0 => rfl | 1 => rfl | 2 => rfl | 3 => rfl
@[simp] theorem setCtx_harts (s : State) (c : Fin 4) (x : Context) : (s.setCtx c x).harts = s.harts :=
  match c with | 0 => rfl | 1 => rfl | 2 => rfl | 3 => rfl
@[simp] theorem setCtx_invalPos (s : State) (c : Fin 4) (x : Context) : (s.setCtx c x).invalPos = s.invalPos :=
  match c with | 0 => rfl | 1 => rfl | 2 => rfl | 3 => rfl
@[simp] theorem setCtx_iqSlots (s : State) (c : Fin 4) (x : Context) : (s.setCtx c x).iqSlots = s.iqSlots :=
  match c with | 0 => rfl | 1 => rfl | 2 => rfl | 3 => rfl
@[simp] theorem setCtx_iqCmd (s : State) (c : Fin 4) (x : Context) : (s.setCtx c x).iqCmd = s.iqCmd :=
  match c with | 0 => rfl | 1 => rfl | 2 => rfl | 3 => rfl
@[simp] theorem setCtx_report (s : State) (c : Fin 4) (x : Context) : (s.setCtx c x).report = s.report :=
  match c with | 0 => rfl | 1 => rfl | 2 => rfl | 3 => rfl
@[simp] theorem setCtx_diverged (s : State) (c : Fin 4) (x : Context) : (s.setCtx c x).diverged = s.diverged :=
  match c with | 0 => rfl | 1 => rfl | 2 => rfl | 3 => rfl
@[simp] theorem setCtx_hostIn (s : State) (c : Fin 4) (x : Context) : (s.setCtx c x).hostIn = s.hostIn :=
  match c with | 0 => rfl | 1 => rfl | 2 => rfl | 3 => rfl
@[simp] theorem setCtx_msix (s : State) (c : Fin 4) (x : Context) : (s.setCtx c x).msix = s.msix :=
  match c with | 0 => rfl | 1 => rfl | 2 => rfl | 3 => rfl
@[simp] theorem setCtx_syscoord (s : State) (c : Fin 4) (x : Context) : (s.setCtx c x).syscoord = s.syscoord :=
  match c with | 0 => rfl | 1 => rfl | 2 => rfl | 3 => rfl
@[simp] theorem setCtx_agenda (s : State) (c : Fin 4) (x : Context) : (s.setCtx c x).agenda = s.agenda :=
  match c with | 0 => rfl | 1 => rfl | 2 => rfl | 3 => rfl
@[simp] theorem setCtx_turn (s : State) (c : Fin 4) (x : Context) : (s.setCtx c x).turn = s.turn :=
  match c with | 0 => rfl | 1 => rfl | 2 => rfl | 3 => rfl
@[simp] theorem setCtx_inbox (s : State) (c : Fin 4) (x : Context) : (s.setCtx c x).inbox = s.inbox :=
  match c with | 0 => rfl | 1 => rfl | 2 => rfl | 3 => rfl
@[simp] theorem setCtx_choices (s : State) (c : Fin 4) (x : Context) : (s.setCtx c x).choices = s.choices :=
  match c with | 0 => rfl | 1 => rfl | 2 => rfl | 3 => rfl
@[simp] theorem setCtx_times (s : State) (c : Fin 4) (x : Context) : (s.setCtx c x).times = s.times :=
  match c with | 0 => rfl | 1 => rfl | 2 => rfl | 3 => rfl

@[simp] theorem mod_ctx_same (s : State) (c : Fin 4) (f : Context → Context) : (s.mod c f).ctx c = f (s.ctx c) := setCtx_ctx_same s c _

theorem mod_ctx_ne (s : State) (c d : Fin 4) (f : Context → Context) (h : d ≠ c) : (s.mod c f).ctx d = s.ctx d := setCtx_ctx_ne s c d _ h

theorem mod_mod (s : State) (c : Fin 4) (f g : Context → Context) : (s.mod c f).mod c g = s.mod c (fun x => g (f x)) := by
  simp only [State.mod, setCtx_ctx_same, setCtx_setCtx]

@[simp] theorem mod_away (s : State) (c : Fin 4) (g : Context → Context) : (s.mod c g).away = s.away := setCtx_away s c _
@[simp] theorem mod_cur (s : State) (c : Fin 4) (g : Context → Context) : (s.mod c g).cur = s.cur := setCtx_cur s c _
@[simp] theorem mod_casc (s : State) (c : Fin 4) (g : Context → Context) : (s.mod c g).casc = s.casc := setCtx_casc s c _
@[simp] theorem mod_sp (s : State) (c : Fin 4) (g : Context → Context) : (s.mod c g).sp = s.sp := setCtx_sp s c _
@[simp] theorem mod_tiles (s : State) (c : Fin 4) (g : Context → Context) : (s.mod c g).tiles = s.tiles := setCtx_tiles s c _
@[simp] theorem mod_semVal (s : State) (c : Fin 4) (g : Context → Context) : (s.mod c g).semVal = s.semVal := setCtx_semVal s c _
@[simp] theorem mod_semLatch (s : State) (c : Fin 4) (g : Context → Context) : (s.mod c g).semLatch = s.semLatch := setCtx_semLatch s c _
@[simp] theorem mod_semCode (s : State) (c : Fin 4) (g : Context → Context) : (s.mod c g).semCode = s.semCode := setCtx_semCode s c _
@[simp] theorem mod_hasps (s : State) (c : Fin 4) (g : Context → Context) : (s.mod c g).hasps = s.hasps := setCtx_hasps s c _
@[simp] theorem mod_acc (s : State) (c : Fin 4) (g : Context → Context) : (s.mod c g).acc = s.acc := setCtx_acc s c _
@[simp] theorem mod_mu (s : State) (c : Fin 4) (g : Context → Context) : (s.mod c g).mu = s.mu := setCtx_mu s c _
@[simp] theorem mod_ep (s : State) (c : Fin 4) (g : Context → Context) : (s.mod c g).ep = s.ep := setCtx_ep s c _
@[simp] theorem mod_scaleCache (s : State) (c : Fin 4) (g : Context → Context) : (s.mod c g).scaleCache = s.scaleCache := setCtx_scaleCache s c _
@[simp] theorem mod_run (s : State) (c : Fin 4) (g : Context → Context) : (s.mod c g).run = s.run := setCtx_run s c _
@[simp] theorem mod_lastCallCtx (s : State) (c : Fin 4) (g : Context → Context) : (s.mod c g).lastCallCtx = s.lastCallCtx := setCtx_lastCallCtx s c _
@[simp] theorem mod_collTurn (s : State) (c : Fin 4) (g : Context → Context) : (s.mod c g).collTurn = s.collTurn := setCtx_collTurn s c _
@[simp] theorem mod_wire (s : State) (c : Fin 4) (g : Context → Context) : (s.mod c g).wire = s.wire := setCtx_wire s c _
@[simp] theorem mod_bankQ (s : State) (c : Fin 4) (g : Context → Context) : (s.mod c g).bankQ = s.bankQ := setCtx_bankQ s c _
@[simp] theorem mod_bankCycle (s : State) (c : Fin 4) (g : Context → Context) : (s.mod c g).bankCycle = s.bankCycle := setCtx_bankCycle s c _
@[simp] theorem mod_mem (s : State) (c : Fin 4) (g : Context → Context) : (s.mod c g).mem = s.mem := setCtx_mem s c _
@[simp] theorem mod_wrote (s : State) (c : Fin 4) (g : Context → Context) : (s.mod c g).wrote = s.wrote := setCtx_wrote s c _
@[simp] theorem mod_hostMem (s : State) (c : Fin 4) (g : Context → Context) : (s.mod c g).hostMem = s.hostMem := setCtx_hostMem s c _
@[simp] theorem mod_stCore (s : State) (c : Fin 4) (g : Context → Context) : (s.mod c g).stCore = s.stCore := setCtx_stCore s c _
@[simp] theorem mod_stCluster (s : State) (c : Fin 4) (g : Context → Context) : (s.mod c g).stCluster = s.stCluster := setCtx_stCluster s c _
@[simp] theorem mod_stDie (s : State) (c : Fin 4) (g : Context → Context) : (s.mod c g).stDie = s.stDie := setCtx_stDie s c _
@[simp] theorem mod_homeQ (s : State) (c : Fin 4) (g : Context → Context) : (s.mod c g).homeQ = s.homeQ := setCtx_homeQ s c _
@[simp] theorem mod_nextHome (s : State) (c : Fin 4) (g : Context → Context) : (s.mod c g).nextHome = s.nextHome := setCtx_nextHome s c _
@[simp] theorem mod_pkgTumbler (s : State) (c : Fin 4) (g : Context → Context) : (s.mod c g).pkgTumbler = s.pkgTumbler := setCtx_pkgTumbler s c _
@[simp] theorem mod_domTumbler (s : State) (c : Fin 4) (g : Context → Context) : (s.mod c g).domTumbler = s.domTumbler := setCtx_domTumbler s c _
@[simp] theorem mod_srPos (s : State) (c : Fin 4) (g : Context → Context) : (s.mod c g).srPos = s.srPos := setCtx_srPos s c _
@[simp] theorem mod_tlb (s : State) (c : Fin 4) (g : Context → Context) : (s.mod c g).tlb = s.tlb := setCtx_tlb s c _
@[simp] theorem mod_tlbOld (s : State) (c : Fin 4) (g : Context → Context) : (s.mod c g).tlbOld = s.tlbOld := setCtx_tlbOld s c _
@[simp] theorem mod_invals (s : State) (c : Fin 4) (g : Context → Context) : (s.mod c g).invals = s.invals := setCtx_invals s c _
@[simp] theorem mod_mreg (s : State) (c : Fin 4) (g : Context → Context) : (s.mod c g).mreg = s.mreg := setCtx_mreg s c _
@[simp] theorem mod_launches (s : State) (c : Fin 4) (g : Context → Context) : (s.mod c g).launches = s.launches := setCtx_launches s c _
@[simp] theorem mod_sched (s : State) (c : Fin 4) (g : Context → Context) : (s.mod c g).sched = s.sched := setCtx_sched s c _
@[simp] theorem mod_groups (s : State) (c : Fin 4) (g : Context → Context) : (s.mod c g).groups = s.groups := setCtx_groups s c _
@[simp] theorem mod_fused (s : State) (c : Fin 4) (g : Context → Context) : (s.mod c g).fused = s.fused := setCtx_fused s c _
@[simp] theorem mod_gtb (s : State) (c : Fin 4) (g : Context → Context) : (s.mod c g).gtb = s.gtb := setCtx_gtb s c _
@[simp] theorem mod_booted (s : State) (c : Fin 4) (g : Context → Context) : (s.mod c g).booted = s.booted := setCtx_booted s c _
@[simp] theorem mod_halted (s : State) (c : Fin 4) (g : Context → Context) : (s.mod c g).halted = s.halted := setCtx_halted s c _
@[simp] theorem mod_powered (s : State) (c : Fin 4) (g : Context → Context) : (s.mod c g).powered = s.powered := setCtx_powered s c _
@[simp] theorem mod_rollback (s : State) (c : Fin 4) (g : Context → Context) : (s.mod c g).rollback = s.rollback := setCtx_rollback s c _
@[simp] theorem mod_image (s : State) (c : Fin 4) (g : Context → Context) : (s.mod c g).image = s.image := setCtx_image s c _
@[simp] theorem mod_keyHash (s : State) (c : Fin 4) (g : Context → Context) : (s.mod c g).keyHash = s.keyHash := setCtx_keyHash s c _
@[simp] theorem mod_loaded (s : State) (c : Fin 4) (g : Context → Context) : (s.mod c g).loaded = s.loaded := setCtx_loaded s c _
@[simp] theorem mod_tests (s : State) (c : Fin 4) (g : Context → Context) : (s.mod c g).tests = s.tests := setCtx_tests s c _
@[simp] theorem mod_spares (s : State) (c : Fin 4) (g : Context → Context) : (s.mod c g).spares = s.spares := setCtx_spares s c _
@[simp] theorem mod_reported (s : State) (c : Fin 4) (g : Context → Context) : (s.mod c g).reported = s.reported := setCtx_reported s c _
@[simp] theorem mod_retiredUnits (s : State) (c : Fin 4) (g : Context → Context) : (s.mod c g).retiredUnits = s.retiredUnits := setCtx_retiredUnits s c _
@[simp] theorem mod_refAcc (s : State) (c : Fin 4) (g : Context → Context) : (s.mod c g).refAcc = s.refAcc := setCtx_refAcc s c _
@[simp] theorem mod_refAt (s : State) (c : Fin 4) (g : Context → Context) : (s.mod c g).refAt = s.refAt := setCtx_refAt s c _
@[simp] theorem mod_owed (s : State) (c : Fin 4) (g : Context → Context) : (s.mod c g).owed = s.owed := setCtx_owed s c _
@[simp] theorem mod_refDiv (s : State) (c : Fin 4) (g : Context → Context) : (s.mod c g).refDiv = s.refDiv := setCtx_refDiv s c _
@[simp] theorem mod_bad (s : State) (c : Fin 4) (g : Context → Context) : (s.mod c g).bad = s.bad := setCtx_bad s c _
@[simp] theorem mod_corrected (s : State) (c : Fin 4) (g : Context → Context) : (s.mod c g).corrected = s.corrected := setCtx_corrected s c _
@[simp] theorem mod_evalAt (s : State) (c : Fin 4) (g : Context → Context) : (s.mod c g).evalAt = s.evalAt := setCtx_evalAt s c _
@[simp] theorem mod_critSeen (s : State) (c : Fin 4) (g : Context → Context) : (s.mod c g).critSeen = s.critSeen := setCtx_critSeen s c _
@[simp] theorem mod_power (s : State) (c : Fin 4) (g : Context → Context) : (s.mod c g).power = s.power := setCtx_power s c _
@[simp] theorem mod_lostPkgs (s : State) (c : Fin 4) (g : Context → Context) : (s.mod c g).lostPkgs = s.lostPkgs := setCtx_lostPkgs s c _
@[simp] theorem mod_lostPaths (s : State) (c : Fin 4) (g : Context → Context) : (s.mod c g).lostPaths = s.lostPaths := setCtx_lostPaths s c _
@[simp] theorem mod_routes (s : State) (c : Fin 4) (g : Context → Context) : (s.mod c g).routes = s.routes := setCtx_routes s c _
@[simp] theorem mod_hart (s : State) (c : Fin 4) (g : Context → Context) : (s.mod c g).hart = s.hart := setCtx_hart s c _
@[simp] theorem mod_hartNo (s : State) (c : Fin 4) (g : Context → Context) : (s.mod c g).hartNo = s.hartNo := setCtx_hartNo s c _
@[simp] theorem mod_harts (s : State) (c : Fin 4) (g : Context → Context) : (s.mod c g).harts = s.harts := setCtx_harts s c _
@[simp] theorem mod_invalPos (s : State) (c : Fin 4) (g : Context → Context) : (s.mod c g).invalPos = s.invalPos := setCtx_invalPos s c _
@[simp] theorem mod_iqSlots (s : State) (c : Fin 4) (g : Context → Context) : (s.mod c g).iqSlots = s.iqSlots := setCtx_iqSlots s c _
@[simp] theorem mod_iqCmd (s : State) (c : Fin 4) (g : Context → Context) : (s.mod c g).iqCmd = s.iqCmd := setCtx_iqCmd s c _
@[simp] theorem mod_report (s : State) (c : Fin 4) (g : Context → Context) : (s.mod c g).report = s.report := setCtx_report s c _
@[simp] theorem mod_diverged (s : State) (c : Fin 4) (g : Context → Context) : (s.mod c g).diverged = s.diverged := setCtx_diverged s c _
@[simp] theorem mod_hostIn (s : State) (c : Fin 4) (g : Context → Context) : (s.mod c g).hostIn = s.hostIn := setCtx_hostIn s c _
@[simp] theorem mod_msix (s : State) (c : Fin 4) (g : Context → Context) : (s.mod c g).msix = s.msix := setCtx_msix s c _
@[simp] theorem mod_syscoord (s : State) (c : Fin 4) (g : Context → Context) : (s.mod c g).syscoord = s.syscoord := setCtx_syscoord s c _
@[simp] theorem mod_agenda (s : State) (c : Fin 4) (g : Context → Context) : (s.mod c g).agenda = s.agenda := setCtx_agenda s c _
@[simp] theorem mod_turn (s : State) (c : Fin 4) (g : Context → Context) : (s.mod c g).turn = s.turn := setCtx_turn s c _
@[simp] theorem mod_inbox (s : State) (c : Fin 4) (g : Context → Context) : (s.mod c g).inbox = s.inbox := setCtx_inbox s c _
@[simp] theorem mod_choices (s : State) (c : Fin 4) (g : Context → Context) : (s.mod c g).choices = s.choices := setCtx_choices s c _
@[simp] theorem mod_times (s : State) (c : Fin 4) (g : Context → Context) : (s.mod c g).times = s.times := setCtx_times s c _

@[simp] theorem modMe_me (s : State) (f : Context → Context) : (s.modMe f).me = f s.me := by
  simp only [State.me, State.modMe, mod_cur, mod_ctx_same]

theorem modMe_ctx_ne (s : State) (c : Fin 4) (f : Context → Context) (h : c ≠ s.cur) : (s.modMe f).ctx c = s.ctx c := mod_ctx_ne s s.cur c f h

theorem modMe_modMe (s : State) (f g : Context → Context) : (s.modMe f).modMe g = s.modMe (fun x => g (f x)) := by
  simp only [State.modMe, mod_cur, mod_mod]

@[simp] theorem modMe_away (s : State) (g : Context → Context) : (s.modMe g).away = s.away := mod_away s s.cur g
@[simp] theorem modMe_cur (s : State) (g : Context → Context) : (s.modMe g).cur = s.cur := mod_cur s s.cur g
@[simp] theorem modMe_casc (s : State) (g : Context → Context) : (s.modMe g).casc = s.casc := mod_casc s s.cur g
@[simp] theorem modMe_sp (s : State) (g : Context → Context) : (s.modMe g).sp = s.sp := mod_sp s s.cur g
@[simp] theorem modMe_tiles (s : State) (g : Context → Context) : (s.modMe g).tiles = s.tiles := mod_tiles s s.cur g
@[simp] theorem modMe_semVal (s : State) (g : Context → Context) : (s.modMe g).semVal = s.semVal := mod_semVal s s.cur g
@[simp] theorem modMe_semLatch (s : State) (g : Context → Context) : (s.modMe g).semLatch = s.semLatch := mod_semLatch s s.cur g
@[simp] theorem modMe_semCode (s : State) (g : Context → Context) : (s.modMe g).semCode = s.semCode := mod_semCode s s.cur g
@[simp] theorem modMe_hasps (s : State) (g : Context → Context) : (s.modMe g).hasps = s.hasps := mod_hasps s s.cur g
@[simp] theorem modMe_acc (s : State) (g : Context → Context) : (s.modMe g).acc = s.acc := mod_acc s s.cur g
@[simp] theorem modMe_mu (s : State) (g : Context → Context) : (s.modMe g).mu = s.mu := mod_mu s s.cur g
@[simp] theorem modMe_ep (s : State) (g : Context → Context) : (s.modMe g).ep = s.ep := mod_ep s s.cur g
@[simp] theorem modMe_scaleCache (s : State) (g : Context → Context) : (s.modMe g).scaleCache = s.scaleCache := mod_scaleCache s s.cur g
@[simp] theorem modMe_run (s : State) (g : Context → Context) : (s.modMe g).run = s.run := mod_run s s.cur g
@[simp] theorem modMe_lastCallCtx (s : State) (g : Context → Context) : (s.modMe g).lastCallCtx = s.lastCallCtx := mod_lastCallCtx s s.cur g
@[simp] theorem modMe_collTurn (s : State) (g : Context → Context) : (s.modMe g).collTurn = s.collTurn := mod_collTurn s s.cur g
@[simp] theorem modMe_wire (s : State) (g : Context → Context) : (s.modMe g).wire = s.wire := mod_wire s s.cur g
@[simp] theorem modMe_bankQ (s : State) (g : Context → Context) : (s.modMe g).bankQ = s.bankQ := mod_bankQ s s.cur g
@[simp] theorem modMe_bankCycle (s : State) (g : Context → Context) : (s.modMe g).bankCycle = s.bankCycle := mod_bankCycle s s.cur g
@[simp] theorem modMe_mem (s : State) (g : Context → Context) : (s.modMe g).mem = s.mem := mod_mem s s.cur g
@[simp] theorem modMe_wrote (s : State) (g : Context → Context) : (s.modMe g).wrote = s.wrote := mod_wrote s s.cur g
@[simp] theorem modMe_hostMem (s : State) (g : Context → Context) : (s.modMe g).hostMem = s.hostMem := mod_hostMem s s.cur g
@[simp] theorem modMe_stCore (s : State) (g : Context → Context) : (s.modMe g).stCore = s.stCore := mod_stCore s s.cur g
@[simp] theorem modMe_stCluster (s : State) (g : Context → Context) : (s.modMe g).stCluster = s.stCluster := mod_stCluster s s.cur g
@[simp] theorem modMe_stDie (s : State) (g : Context → Context) : (s.modMe g).stDie = s.stDie := mod_stDie s s.cur g
@[simp] theorem modMe_homeQ (s : State) (g : Context → Context) : (s.modMe g).homeQ = s.homeQ := mod_homeQ s s.cur g
@[simp] theorem modMe_nextHome (s : State) (g : Context → Context) : (s.modMe g).nextHome = s.nextHome := mod_nextHome s s.cur g
@[simp] theorem modMe_pkgTumbler (s : State) (g : Context → Context) : (s.modMe g).pkgTumbler = s.pkgTumbler := mod_pkgTumbler s s.cur g
@[simp] theorem modMe_domTumbler (s : State) (g : Context → Context) : (s.modMe g).domTumbler = s.domTumbler := mod_domTumbler s s.cur g
@[simp] theorem modMe_srPos (s : State) (g : Context → Context) : (s.modMe g).srPos = s.srPos := mod_srPos s s.cur g
@[simp] theorem modMe_tlb (s : State) (g : Context → Context) : (s.modMe g).tlb = s.tlb := mod_tlb s s.cur g
@[simp] theorem modMe_tlbOld (s : State) (g : Context → Context) : (s.modMe g).tlbOld = s.tlbOld := mod_tlbOld s s.cur g
@[simp] theorem modMe_invals (s : State) (g : Context → Context) : (s.modMe g).invals = s.invals := mod_invals s s.cur g
@[simp] theorem modMe_mreg (s : State) (g : Context → Context) : (s.modMe g).mreg = s.mreg := mod_mreg s s.cur g
@[simp] theorem modMe_launches (s : State) (g : Context → Context) : (s.modMe g).launches = s.launches := mod_launches s s.cur g
@[simp] theorem modMe_sched (s : State) (g : Context → Context) : (s.modMe g).sched = s.sched := mod_sched s s.cur g
@[simp] theorem modMe_groups (s : State) (g : Context → Context) : (s.modMe g).groups = s.groups := mod_groups s s.cur g
@[simp] theorem modMe_fused (s : State) (g : Context → Context) : (s.modMe g).fused = s.fused := mod_fused s s.cur g
@[simp] theorem modMe_gtb (s : State) (g : Context → Context) : (s.modMe g).gtb = s.gtb := mod_gtb s s.cur g
@[simp] theorem modMe_booted (s : State) (g : Context → Context) : (s.modMe g).booted = s.booted := mod_booted s s.cur g
@[simp] theorem modMe_halted (s : State) (g : Context → Context) : (s.modMe g).halted = s.halted := mod_halted s s.cur g
@[simp] theorem modMe_powered (s : State) (g : Context → Context) : (s.modMe g).powered = s.powered := mod_powered s s.cur g
@[simp] theorem modMe_rollback (s : State) (g : Context → Context) : (s.modMe g).rollback = s.rollback := mod_rollback s s.cur g
@[simp] theorem modMe_image (s : State) (g : Context → Context) : (s.modMe g).image = s.image := mod_image s s.cur g
@[simp] theorem modMe_keyHash (s : State) (g : Context → Context) : (s.modMe g).keyHash = s.keyHash := mod_keyHash s s.cur g
@[simp] theorem modMe_loaded (s : State) (g : Context → Context) : (s.modMe g).loaded = s.loaded := mod_loaded s s.cur g
@[simp] theorem modMe_tests (s : State) (g : Context → Context) : (s.modMe g).tests = s.tests := mod_tests s s.cur g
@[simp] theorem modMe_spares (s : State) (g : Context → Context) : (s.modMe g).spares = s.spares := mod_spares s s.cur g
@[simp] theorem modMe_reported (s : State) (g : Context → Context) : (s.modMe g).reported = s.reported := mod_reported s s.cur g
@[simp] theorem modMe_retiredUnits (s : State) (g : Context → Context) : (s.modMe g).retiredUnits = s.retiredUnits := mod_retiredUnits s s.cur g
@[simp] theorem modMe_refAcc (s : State) (g : Context → Context) : (s.modMe g).refAcc = s.refAcc := mod_refAcc s s.cur g
@[simp] theorem modMe_refAt (s : State) (g : Context → Context) : (s.modMe g).refAt = s.refAt := mod_refAt s s.cur g
@[simp] theorem modMe_owed (s : State) (g : Context → Context) : (s.modMe g).owed = s.owed := mod_owed s s.cur g
@[simp] theorem modMe_refDiv (s : State) (g : Context → Context) : (s.modMe g).refDiv = s.refDiv := mod_refDiv s s.cur g
@[simp] theorem modMe_bad (s : State) (g : Context → Context) : (s.modMe g).bad = s.bad := mod_bad s s.cur g
@[simp] theorem modMe_corrected (s : State) (g : Context → Context) : (s.modMe g).corrected = s.corrected := mod_corrected s s.cur g
@[simp] theorem modMe_evalAt (s : State) (g : Context → Context) : (s.modMe g).evalAt = s.evalAt := mod_evalAt s s.cur g
@[simp] theorem modMe_critSeen (s : State) (g : Context → Context) : (s.modMe g).critSeen = s.critSeen := mod_critSeen s s.cur g
@[simp] theorem modMe_power (s : State) (g : Context → Context) : (s.modMe g).power = s.power := mod_power s s.cur g
@[simp] theorem modMe_lostPkgs (s : State) (g : Context → Context) : (s.modMe g).lostPkgs = s.lostPkgs := mod_lostPkgs s s.cur g
@[simp] theorem modMe_lostPaths (s : State) (g : Context → Context) : (s.modMe g).lostPaths = s.lostPaths := mod_lostPaths s s.cur g
@[simp] theorem modMe_routes (s : State) (g : Context → Context) : (s.modMe g).routes = s.routes := mod_routes s s.cur g
@[simp] theorem modMe_hart (s : State) (g : Context → Context) : (s.modMe g).hart = s.hart := mod_hart s s.cur g
@[simp] theorem modMe_hartNo (s : State) (g : Context → Context) : (s.modMe g).hartNo = s.hartNo := mod_hartNo s s.cur g
@[simp] theorem modMe_harts (s : State) (g : Context → Context) : (s.modMe g).harts = s.harts := mod_harts s s.cur g
@[simp] theorem modMe_invalPos (s : State) (g : Context → Context) : (s.modMe g).invalPos = s.invalPos := mod_invalPos s s.cur g
@[simp] theorem modMe_iqSlots (s : State) (g : Context → Context) : (s.modMe g).iqSlots = s.iqSlots := mod_iqSlots s s.cur g
@[simp] theorem modMe_iqCmd (s : State) (g : Context → Context) : (s.modMe g).iqCmd = s.iqCmd := mod_iqCmd s s.cur g
@[simp] theorem modMe_report (s : State) (g : Context → Context) : (s.modMe g).report = s.report := mod_report s s.cur g
@[simp] theorem modMe_diverged (s : State) (g : Context → Context) : (s.modMe g).diverged = s.diverged := mod_diverged s s.cur g
@[simp] theorem modMe_hostIn (s : State) (g : Context → Context) : (s.modMe g).hostIn = s.hostIn := mod_hostIn s s.cur g
@[simp] theorem modMe_msix (s : State) (g : Context → Context) : (s.modMe g).msix = s.msix := mod_msix s s.cur g
@[simp] theorem modMe_syscoord (s : State) (g : Context → Context) : (s.modMe g).syscoord = s.syscoord := mod_syscoord s s.cur g
@[simp] theorem modMe_agenda (s : State) (g : Context → Context) : (s.modMe g).agenda = s.agenda := mod_agenda s s.cur g
@[simp] theorem modMe_turn (s : State) (g : Context → Context) : (s.modMe g).turn = s.turn := mod_turn s s.cur g
@[simp] theorem modMe_inbox (s : State) (g : Context → Context) : (s.modMe g).inbox = s.inbox := mod_inbox s s.cur g
@[simp] theorem modMe_choices (s : State) (g : Context → Context) : (s.modMe g).choices = s.choices := mod_choices s s.cur g
@[simp] theorem modMe_times (s : State) (g : Context → Context) : (s.modMe g).times = s.times := mod_times s s.cur g

/-! ### Results (`State.land`) -/

@[simp] theorem land_away (s : State) (k pos : Nat) (act : Land) (fl : BitVec 6) : (s.land k pos act fl).away = s.away := modMe_away s _
@[simp] theorem land_cur (s : State) (k pos : Nat) (act : Land) (fl : BitVec 6) : (s.land k pos act fl).cur = s.cur := modMe_cur s _
@[simp] theorem land_casc (s : State) (k pos : Nat) (act : Land) (fl : BitVec 6) : (s.land k pos act fl).casc = s.casc := modMe_casc s _
@[simp] theorem land_sp (s : State) (k pos : Nat) (act : Land) (fl : BitVec 6) : (s.land k pos act fl).sp = s.sp := modMe_sp s _
@[simp] theorem land_tiles (s : State) (k pos : Nat) (act : Land) (fl : BitVec 6) : (s.land k pos act fl).tiles = s.tiles := modMe_tiles s _
@[simp] theorem land_semVal (s : State) (k pos : Nat) (act : Land) (fl : BitVec 6) : (s.land k pos act fl).semVal = s.semVal := modMe_semVal s _
@[simp] theorem land_semLatch (s : State) (k pos : Nat) (act : Land) (fl : BitVec 6) : (s.land k pos act fl).semLatch = s.semLatch := modMe_semLatch s _
@[simp] theorem land_semCode (s : State) (k pos : Nat) (act : Land) (fl : BitVec 6) : (s.land k pos act fl).semCode = s.semCode := modMe_semCode s _
@[simp] theorem land_hasps (s : State) (k pos : Nat) (act : Land) (fl : BitVec 6) : (s.land k pos act fl).hasps = s.hasps := modMe_hasps s _
@[simp] theorem land_acc (s : State) (k pos : Nat) (act : Land) (fl : BitVec 6) : (s.land k pos act fl).acc = s.acc := modMe_acc s _
@[simp] theorem land_mu (s : State) (k pos : Nat) (act : Land) (fl : BitVec 6) : (s.land k pos act fl).mu = s.mu := modMe_mu s _
@[simp] theorem land_ep (s : State) (k pos : Nat) (act : Land) (fl : BitVec 6) : (s.land k pos act fl).ep = s.ep := modMe_ep s _
@[simp] theorem land_scaleCache (s : State) (k pos : Nat) (act : Land) (fl : BitVec 6) : (s.land k pos act fl).scaleCache = s.scaleCache := modMe_scaleCache s _
@[simp] theorem land_run (s : State) (k pos : Nat) (act : Land) (fl : BitVec 6) : (s.land k pos act fl).run = s.run := modMe_run s _
@[simp] theorem land_lastCallCtx (s : State) (k pos : Nat) (act : Land) (fl : BitVec 6) : (s.land k pos act fl).lastCallCtx = s.lastCallCtx := modMe_lastCallCtx s _
@[simp] theorem land_collTurn (s : State) (k pos : Nat) (act : Land) (fl : BitVec 6) : (s.land k pos act fl).collTurn = s.collTurn := modMe_collTurn s _
@[simp] theorem land_wire (s : State) (k pos : Nat) (act : Land) (fl : BitVec 6) : (s.land k pos act fl).wire = s.wire := modMe_wire s _
@[simp] theorem land_bankQ (s : State) (k pos : Nat) (act : Land) (fl : BitVec 6) : (s.land k pos act fl).bankQ = s.bankQ := modMe_bankQ s _
@[simp] theorem land_bankCycle (s : State) (k pos : Nat) (act : Land) (fl : BitVec 6) : (s.land k pos act fl).bankCycle = s.bankCycle := modMe_bankCycle s _
@[simp] theorem land_mem (s : State) (k pos : Nat) (act : Land) (fl : BitVec 6) : (s.land k pos act fl).mem = s.mem := modMe_mem s _
@[simp] theorem land_wrote (s : State) (k pos : Nat) (act : Land) (fl : BitVec 6) : (s.land k pos act fl).wrote = s.wrote := modMe_wrote s _
@[simp] theorem land_hostMem (s : State) (k pos : Nat) (act : Land) (fl : BitVec 6) : (s.land k pos act fl).hostMem = s.hostMem := modMe_hostMem s _
@[simp] theorem land_stCore (s : State) (k pos : Nat) (act : Land) (fl : BitVec 6) : (s.land k pos act fl).stCore = s.stCore := modMe_stCore s _
@[simp] theorem land_stCluster (s : State) (k pos : Nat) (act : Land) (fl : BitVec 6) : (s.land k pos act fl).stCluster = s.stCluster := modMe_stCluster s _
@[simp] theorem land_stDie (s : State) (k pos : Nat) (act : Land) (fl : BitVec 6) : (s.land k pos act fl).stDie = s.stDie := modMe_stDie s _
@[simp] theorem land_homeQ (s : State) (k pos : Nat) (act : Land) (fl : BitVec 6) : (s.land k pos act fl).homeQ = s.homeQ := modMe_homeQ s _
@[simp] theorem land_nextHome (s : State) (k pos : Nat) (act : Land) (fl : BitVec 6) : (s.land k pos act fl).nextHome = s.nextHome := modMe_nextHome s _
@[simp] theorem land_pkgTumbler (s : State) (k pos : Nat) (act : Land) (fl : BitVec 6) : (s.land k pos act fl).pkgTumbler = s.pkgTumbler := modMe_pkgTumbler s _
@[simp] theorem land_domTumbler (s : State) (k pos : Nat) (act : Land) (fl : BitVec 6) : (s.land k pos act fl).domTumbler = s.domTumbler := modMe_domTumbler s _
@[simp] theorem land_srPos (s : State) (k pos : Nat) (act : Land) (fl : BitVec 6) : (s.land k pos act fl).srPos = s.srPos := modMe_srPos s _
@[simp] theorem land_tlb (s : State) (k pos : Nat) (act : Land) (fl : BitVec 6) : (s.land k pos act fl).tlb = s.tlb := modMe_tlb s _
@[simp] theorem land_tlbOld (s : State) (k pos : Nat) (act : Land) (fl : BitVec 6) : (s.land k pos act fl).tlbOld = s.tlbOld := modMe_tlbOld s _
@[simp] theorem land_invals (s : State) (k pos : Nat) (act : Land) (fl : BitVec 6) : (s.land k pos act fl).invals = s.invals := modMe_invals s _
@[simp] theorem land_mreg (s : State) (k pos : Nat) (act : Land) (fl : BitVec 6) : (s.land k pos act fl).mreg = s.mreg := modMe_mreg s _
@[simp] theorem land_launches (s : State) (k pos : Nat) (act : Land) (fl : BitVec 6) : (s.land k pos act fl).launches = s.launches := modMe_launches s _
@[simp] theorem land_sched (s : State) (k pos : Nat) (act : Land) (fl : BitVec 6) : (s.land k pos act fl).sched = s.sched := modMe_sched s _
@[simp] theorem land_groups (s : State) (k pos : Nat) (act : Land) (fl : BitVec 6) : (s.land k pos act fl).groups = s.groups := modMe_groups s _
@[simp] theorem land_fused (s : State) (k pos : Nat) (act : Land) (fl : BitVec 6) : (s.land k pos act fl).fused = s.fused := modMe_fused s _
@[simp] theorem land_gtb (s : State) (k pos : Nat) (act : Land) (fl : BitVec 6) : (s.land k pos act fl).gtb = s.gtb := modMe_gtb s _
@[simp] theorem land_booted (s : State) (k pos : Nat) (act : Land) (fl : BitVec 6) : (s.land k pos act fl).booted = s.booted := modMe_booted s _
@[simp] theorem land_halted (s : State) (k pos : Nat) (act : Land) (fl : BitVec 6) : (s.land k pos act fl).halted = s.halted := modMe_halted s _
@[simp] theorem land_powered (s : State) (k pos : Nat) (act : Land) (fl : BitVec 6) : (s.land k pos act fl).powered = s.powered := modMe_powered s _
@[simp] theorem land_rollback (s : State) (k pos : Nat) (act : Land) (fl : BitVec 6) : (s.land k pos act fl).rollback = s.rollback := modMe_rollback s _
@[simp] theorem land_image (s : State) (k pos : Nat) (act : Land) (fl : BitVec 6) : (s.land k pos act fl).image = s.image := modMe_image s _
@[simp] theorem land_keyHash (s : State) (k pos : Nat) (act : Land) (fl : BitVec 6) : (s.land k pos act fl).keyHash = s.keyHash := modMe_keyHash s _
@[simp] theorem land_loaded (s : State) (k pos : Nat) (act : Land) (fl : BitVec 6) : (s.land k pos act fl).loaded = s.loaded := modMe_loaded s _
@[simp] theorem land_tests (s : State) (k pos : Nat) (act : Land) (fl : BitVec 6) : (s.land k pos act fl).tests = s.tests := modMe_tests s _
@[simp] theorem land_spares (s : State) (k pos : Nat) (act : Land) (fl : BitVec 6) : (s.land k pos act fl).spares = s.spares := modMe_spares s _
@[simp] theorem land_reported (s : State) (k pos : Nat) (act : Land) (fl : BitVec 6) : (s.land k pos act fl).reported = s.reported := modMe_reported s _
@[simp] theorem land_retiredUnits (s : State) (k pos : Nat) (act : Land) (fl : BitVec 6) : (s.land k pos act fl).retiredUnits = s.retiredUnits := modMe_retiredUnits s _
@[simp] theorem land_refAcc (s : State) (k pos : Nat) (act : Land) (fl : BitVec 6) : (s.land k pos act fl).refAcc = s.refAcc := modMe_refAcc s _
@[simp] theorem land_refAt (s : State) (k pos : Nat) (act : Land) (fl : BitVec 6) : (s.land k pos act fl).refAt = s.refAt := modMe_refAt s _
@[simp] theorem land_owed (s : State) (k pos : Nat) (act : Land) (fl : BitVec 6) : (s.land k pos act fl).owed = s.owed := modMe_owed s _
@[simp] theorem land_refDiv (s : State) (k pos : Nat) (act : Land) (fl : BitVec 6) : (s.land k pos act fl).refDiv = s.refDiv := modMe_refDiv s _
@[simp] theorem land_bad (s : State) (k pos : Nat) (act : Land) (fl : BitVec 6) : (s.land k pos act fl).bad = s.bad := modMe_bad s _
@[simp] theorem land_corrected (s : State) (k pos : Nat) (act : Land) (fl : BitVec 6) : (s.land k pos act fl).corrected = s.corrected := modMe_corrected s _
@[simp] theorem land_evalAt (s : State) (k pos : Nat) (act : Land) (fl : BitVec 6) : (s.land k pos act fl).evalAt = s.evalAt := modMe_evalAt s _
@[simp] theorem land_critSeen (s : State) (k pos : Nat) (act : Land) (fl : BitVec 6) : (s.land k pos act fl).critSeen = s.critSeen := modMe_critSeen s _
@[simp] theorem land_power (s : State) (k pos : Nat) (act : Land) (fl : BitVec 6) : (s.land k pos act fl).power = s.power := modMe_power s _
@[simp] theorem land_lostPkgs (s : State) (k pos : Nat) (act : Land) (fl : BitVec 6) : (s.land k pos act fl).lostPkgs = s.lostPkgs := modMe_lostPkgs s _
@[simp] theorem land_lostPaths (s : State) (k pos : Nat) (act : Land) (fl : BitVec 6) : (s.land k pos act fl).lostPaths = s.lostPaths := modMe_lostPaths s _
@[simp] theorem land_routes (s : State) (k pos : Nat) (act : Land) (fl : BitVec 6) : (s.land k pos act fl).routes = s.routes := modMe_routes s _
@[simp] theorem land_hart (s : State) (k pos : Nat) (act : Land) (fl : BitVec 6) : (s.land k pos act fl).hart = s.hart := modMe_hart s _
@[simp] theorem land_hartNo (s : State) (k pos : Nat) (act : Land) (fl : BitVec 6) : (s.land k pos act fl).hartNo = s.hartNo := modMe_hartNo s _
@[simp] theorem land_harts (s : State) (k pos : Nat) (act : Land) (fl : BitVec 6) : (s.land k pos act fl).harts = s.harts := modMe_harts s _
@[simp] theorem land_invalPos (s : State) (k pos : Nat) (act : Land) (fl : BitVec 6) : (s.land k pos act fl).invalPos = s.invalPos := modMe_invalPos s _
@[simp] theorem land_iqSlots (s : State) (k pos : Nat) (act : Land) (fl : BitVec 6) : (s.land k pos act fl).iqSlots = s.iqSlots := modMe_iqSlots s _
@[simp] theorem land_iqCmd (s : State) (k pos : Nat) (act : Land) (fl : BitVec 6) : (s.land k pos act fl).iqCmd = s.iqCmd := modMe_iqCmd s _
@[simp] theorem land_report (s : State) (k pos : Nat) (act : Land) (fl : BitVec 6) : (s.land k pos act fl).report = s.report := modMe_report s _
@[simp] theorem land_diverged (s : State) (k pos : Nat) (act : Land) (fl : BitVec 6) : (s.land k pos act fl).diverged = s.diverged := modMe_diverged s _
@[simp] theorem land_hostIn (s : State) (k pos : Nat) (act : Land) (fl : BitVec 6) : (s.land k pos act fl).hostIn = s.hostIn := modMe_hostIn s _
@[simp] theorem land_msix (s : State) (k pos : Nat) (act : Land) (fl : BitVec 6) : (s.land k pos act fl).msix = s.msix := modMe_msix s _
@[simp] theorem land_syscoord (s : State) (k pos : Nat) (act : Land) (fl : BitVec 6) : (s.land k pos act fl).syscoord = s.syscoord := modMe_syscoord s _
@[simp] theorem land_agenda (s : State) (k pos : Nat) (act : Land) (fl : BitVec 6) : (s.land k pos act fl).agenda = s.agenda := modMe_agenda s _
@[simp] theorem land_turn (s : State) (k pos : Nat) (act : Land) (fl : BitVec 6) : (s.land k pos act fl).turn = s.turn := modMe_turn s _
@[simp] theorem land_inbox (s : State) (k pos : Nat) (act : Land) (fl : BitVec 6) : (s.land k pos act fl).inbox = s.inbox := modMe_inbox s _
@[simp] theorem land_choices (s : State) (k pos : Nat) (act : Land) (fl : BitVec 6) : (s.land k pos act fl).choices = s.choices := modMe_choices s _
@[simp] theorem land_times (s : State) (k pos : Nat) (act : Land) (fl : BitVec 6) : (s.land k pos act fl).times = s.times := modMe_times s _

@[simp] theorem land_me (s : State) (k pos : Nat) (act : Land) (fl : BitVec 6) : (s.land k pos act fl).me = s.me.land k pos act fl := modMe_me s _

/-! ### Blocking and stalling -/

@[simp] theorem block_away (s : State) : (s.block).away = s.away := modMe_away s _
@[simp] theorem block_cur (s : State) : (s.block).cur = s.cur := modMe_cur s _
@[simp] theorem block_casc (s : State) : (s.block).casc = s.casc := modMe_casc s _
@[simp] theorem block_sp (s : State) : (s.block).sp = s.sp := modMe_sp s _
@[simp] theorem block_tiles (s : State) : (s.block).tiles = s.tiles := modMe_tiles s _
@[simp] theorem block_semVal (s : State) : (s.block).semVal = s.semVal := modMe_semVal s _
@[simp] theorem block_semLatch (s : State) : (s.block).semLatch = s.semLatch := modMe_semLatch s _
@[simp] theorem block_semCode (s : State) : (s.block).semCode = s.semCode := modMe_semCode s _
@[simp] theorem block_hasps (s : State) : (s.block).hasps = s.hasps := modMe_hasps s _
@[simp] theorem block_acc (s : State) : (s.block).acc = s.acc := modMe_acc s _
@[simp] theorem block_mu (s : State) : (s.block).mu = s.mu := modMe_mu s _
@[simp] theorem block_ep (s : State) : (s.block).ep = s.ep := modMe_ep s _
@[simp] theorem block_scaleCache (s : State) : (s.block).scaleCache = s.scaleCache := modMe_scaleCache s _
@[simp] theorem block_run (s : State) : (s.block).run = s.run := modMe_run s _
@[simp] theorem block_lastCallCtx (s : State) : (s.block).lastCallCtx = s.lastCallCtx := modMe_lastCallCtx s _
@[simp] theorem block_collTurn (s : State) : (s.block).collTurn = s.collTurn := modMe_collTurn s _
@[simp] theorem block_wire (s : State) : (s.block).wire = s.wire := modMe_wire s _
@[simp] theorem block_bankQ (s : State) : (s.block).bankQ = s.bankQ := modMe_bankQ s _
@[simp] theorem block_bankCycle (s : State) : (s.block).bankCycle = s.bankCycle := modMe_bankCycle s _
@[simp] theorem block_mem (s : State) : (s.block).mem = s.mem := modMe_mem s _
@[simp] theorem block_wrote (s : State) : (s.block).wrote = s.wrote := modMe_wrote s _
@[simp] theorem block_hostMem (s : State) : (s.block).hostMem = s.hostMem := modMe_hostMem s _
@[simp] theorem block_stCore (s : State) : (s.block).stCore = s.stCore := modMe_stCore s _
@[simp] theorem block_stCluster (s : State) : (s.block).stCluster = s.stCluster := modMe_stCluster s _
@[simp] theorem block_stDie (s : State) : (s.block).stDie = s.stDie := modMe_stDie s _
@[simp] theorem block_homeQ (s : State) : (s.block).homeQ = s.homeQ := modMe_homeQ s _
@[simp] theorem block_nextHome (s : State) : (s.block).nextHome = s.nextHome := modMe_nextHome s _
@[simp] theorem block_pkgTumbler (s : State) : (s.block).pkgTumbler = s.pkgTumbler := modMe_pkgTumbler s _
@[simp] theorem block_domTumbler (s : State) : (s.block).domTumbler = s.domTumbler := modMe_domTumbler s _
@[simp] theorem block_srPos (s : State) : (s.block).srPos = s.srPos := modMe_srPos s _
@[simp] theorem block_tlb (s : State) : (s.block).tlb = s.tlb := modMe_tlb s _
@[simp] theorem block_tlbOld (s : State) : (s.block).tlbOld = s.tlbOld := modMe_tlbOld s _
@[simp] theorem block_invals (s : State) : (s.block).invals = s.invals := modMe_invals s _
@[simp] theorem block_mreg (s : State) : (s.block).mreg = s.mreg := modMe_mreg s _
@[simp] theorem block_launches (s : State) : (s.block).launches = s.launches := modMe_launches s _
@[simp] theorem block_sched (s : State) : (s.block).sched = s.sched := modMe_sched s _
@[simp] theorem block_groups (s : State) : (s.block).groups = s.groups := modMe_groups s _
@[simp] theorem block_fused (s : State) : (s.block).fused = s.fused := modMe_fused s _
@[simp] theorem block_gtb (s : State) : (s.block).gtb = s.gtb := modMe_gtb s _
@[simp] theorem block_booted (s : State) : (s.block).booted = s.booted := modMe_booted s _
@[simp] theorem block_halted (s : State) : (s.block).halted = s.halted := modMe_halted s _
@[simp] theorem block_powered (s : State) : (s.block).powered = s.powered := modMe_powered s _
@[simp] theorem block_rollback (s : State) : (s.block).rollback = s.rollback := modMe_rollback s _
@[simp] theorem block_image (s : State) : (s.block).image = s.image := modMe_image s _
@[simp] theorem block_keyHash (s : State) : (s.block).keyHash = s.keyHash := modMe_keyHash s _
@[simp] theorem block_loaded (s : State) : (s.block).loaded = s.loaded := modMe_loaded s _
@[simp] theorem block_tests (s : State) : (s.block).tests = s.tests := modMe_tests s _
@[simp] theorem block_spares (s : State) : (s.block).spares = s.spares := modMe_spares s _
@[simp] theorem block_reported (s : State) : (s.block).reported = s.reported := modMe_reported s _
@[simp] theorem block_retiredUnits (s : State) : (s.block).retiredUnits = s.retiredUnits := modMe_retiredUnits s _
@[simp] theorem block_refAcc (s : State) : (s.block).refAcc = s.refAcc := modMe_refAcc s _
@[simp] theorem block_refAt (s : State) : (s.block).refAt = s.refAt := modMe_refAt s _
@[simp] theorem block_owed (s : State) : (s.block).owed = s.owed := modMe_owed s _
@[simp] theorem block_refDiv (s : State) : (s.block).refDiv = s.refDiv := modMe_refDiv s _
@[simp] theorem block_bad (s : State) : (s.block).bad = s.bad := modMe_bad s _
@[simp] theorem block_corrected (s : State) : (s.block).corrected = s.corrected := modMe_corrected s _
@[simp] theorem block_evalAt (s : State) : (s.block).evalAt = s.evalAt := modMe_evalAt s _
@[simp] theorem block_critSeen (s : State) : (s.block).critSeen = s.critSeen := modMe_critSeen s _
@[simp] theorem block_power (s : State) : (s.block).power = s.power := modMe_power s _
@[simp] theorem block_lostPkgs (s : State) : (s.block).lostPkgs = s.lostPkgs := modMe_lostPkgs s _
@[simp] theorem block_lostPaths (s : State) : (s.block).lostPaths = s.lostPaths := modMe_lostPaths s _
@[simp] theorem block_routes (s : State) : (s.block).routes = s.routes := modMe_routes s _
@[simp] theorem block_hart (s : State) : (s.block).hart = s.hart := modMe_hart s _
@[simp] theorem block_hartNo (s : State) : (s.block).hartNo = s.hartNo := modMe_hartNo s _
@[simp] theorem block_harts (s : State) : (s.block).harts = s.harts := modMe_harts s _
@[simp] theorem block_invalPos (s : State) : (s.block).invalPos = s.invalPos := modMe_invalPos s _
@[simp] theorem block_iqSlots (s : State) : (s.block).iqSlots = s.iqSlots := modMe_iqSlots s _
@[simp] theorem block_iqCmd (s : State) : (s.block).iqCmd = s.iqCmd := modMe_iqCmd s _
@[simp] theorem block_report (s : State) : (s.block).report = s.report := modMe_report s _
@[simp] theorem block_diverged (s : State) : (s.block).diverged = s.diverged := modMe_diverged s _
@[simp] theorem block_hostIn (s : State) : (s.block).hostIn = s.hostIn := modMe_hostIn s _
@[simp] theorem block_msix (s : State) : (s.block).msix = s.msix := modMe_msix s _
@[simp] theorem block_syscoord (s : State) : (s.block).syscoord = s.syscoord := modMe_syscoord s _
@[simp] theorem block_agenda (s : State) : (s.block).agenda = s.agenda := modMe_agenda s _
@[simp] theorem block_turn (s : State) : (s.block).turn = s.turn := modMe_turn s _
@[simp] theorem block_inbox (s : State) : (s.block).inbox = s.inbox := modMe_inbox s _
@[simp] theorem block_choices (s : State) : (s.block).choices = s.choices := modMe_choices s _
@[simp] theorem block_times (s : State) : (s.block).times = s.times := modMe_times s _

@[simp] theorem block_wait (s : State) : s.block.me.wait = .blocked := by simp [State.block]

@[simp] theorem block_arch (s : State) : s.block.me.arch = s.me.arch := by simp [State.block]

/-! ###  -/

@[simp] theorem stall_away (s : State) (k : Nat) : (s.stall k).away = s.away := modMe_away s _
@[simp] theorem stall_cur (s : State) (k : Nat) : (s.stall k).cur = s.cur := modMe_cur s _
@[simp] theorem stall_casc (s : State) (k : Nat) : (s.stall k).casc = s.casc := modMe_casc s _
@[simp] theorem stall_sp (s : State) (k : Nat) : (s.stall k).sp = s.sp := modMe_sp s _
@[simp] theorem stall_tiles (s : State) (k : Nat) : (s.stall k).tiles = s.tiles := modMe_tiles s _
@[simp] theorem stall_semVal (s : State) (k : Nat) : (s.stall k).semVal = s.semVal := modMe_semVal s _
@[simp] theorem stall_semLatch (s : State) (k : Nat) : (s.stall k).semLatch = s.semLatch := modMe_semLatch s _
@[simp] theorem stall_semCode (s : State) (k : Nat) : (s.stall k).semCode = s.semCode := modMe_semCode s _
@[simp] theorem stall_hasps (s : State) (k : Nat) : (s.stall k).hasps = s.hasps := modMe_hasps s _
@[simp] theorem stall_acc (s : State) (k : Nat) : (s.stall k).acc = s.acc := modMe_acc s _
@[simp] theorem stall_mu (s : State) (k : Nat) : (s.stall k).mu = s.mu := modMe_mu s _
@[simp] theorem stall_ep (s : State) (k : Nat) : (s.stall k).ep = s.ep := modMe_ep s _
@[simp] theorem stall_scaleCache (s : State) (k : Nat) : (s.stall k).scaleCache = s.scaleCache := modMe_scaleCache s _
@[simp] theorem stall_run (s : State) (k : Nat) : (s.stall k).run = s.run := modMe_run s _
@[simp] theorem stall_lastCallCtx (s : State) (k : Nat) : (s.stall k).lastCallCtx = s.lastCallCtx := modMe_lastCallCtx s _
@[simp] theorem stall_collTurn (s : State) (k : Nat) : (s.stall k).collTurn = s.collTurn := modMe_collTurn s _
@[simp] theorem stall_wire (s : State) (k : Nat) : (s.stall k).wire = s.wire := modMe_wire s _
@[simp] theorem stall_bankQ (s : State) (k : Nat) : (s.stall k).bankQ = s.bankQ := modMe_bankQ s _
@[simp] theorem stall_bankCycle (s : State) (k : Nat) : (s.stall k).bankCycle = s.bankCycle := modMe_bankCycle s _
@[simp] theorem stall_mem (s : State) (k : Nat) : (s.stall k).mem = s.mem := modMe_mem s _
@[simp] theorem stall_wrote (s : State) (k : Nat) : (s.stall k).wrote = s.wrote := modMe_wrote s _
@[simp] theorem stall_hostMem (s : State) (k : Nat) : (s.stall k).hostMem = s.hostMem := modMe_hostMem s _
@[simp] theorem stall_stCore (s : State) (k : Nat) : (s.stall k).stCore = s.stCore := modMe_stCore s _
@[simp] theorem stall_stCluster (s : State) (k : Nat) : (s.stall k).stCluster = s.stCluster := modMe_stCluster s _
@[simp] theorem stall_stDie (s : State) (k : Nat) : (s.stall k).stDie = s.stDie := modMe_stDie s _
@[simp] theorem stall_homeQ (s : State) (k : Nat) : (s.stall k).homeQ = s.homeQ := modMe_homeQ s _
@[simp] theorem stall_nextHome (s : State) (k : Nat) : (s.stall k).nextHome = s.nextHome := modMe_nextHome s _
@[simp] theorem stall_pkgTumbler (s : State) (k : Nat) : (s.stall k).pkgTumbler = s.pkgTumbler := modMe_pkgTumbler s _
@[simp] theorem stall_domTumbler (s : State) (k : Nat) : (s.stall k).domTumbler = s.domTumbler := modMe_domTumbler s _
@[simp] theorem stall_srPos (s : State) (k : Nat) : (s.stall k).srPos = s.srPos := modMe_srPos s _
@[simp] theorem stall_tlb (s : State) (k : Nat) : (s.stall k).tlb = s.tlb := modMe_tlb s _
@[simp] theorem stall_tlbOld (s : State) (k : Nat) : (s.stall k).tlbOld = s.tlbOld := modMe_tlbOld s _
@[simp] theorem stall_invals (s : State) (k : Nat) : (s.stall k).invals = s.invals := modMe_invals s _
@[simp] theorem stall_mreg (s : State) (k : Nat) : (s.stall k).mreg = s.mreg := modMe_mreg s _
@[simp] theorem stall_launches (s : State) (k : Nat) : (s.stall k).launches = s.launches := modMe_launches s _
@[simp] theorem stall_sched (s : State) (k : Nat) : (s.stall k).sched = s.sched := modMe_sched s _
@[simp] theorem stall_groups (s : State) (k : Nat) : (s.stall k).groups = s.groups := modMe_groups s _
@[simp] theorem stall_fused (s : State) (k : Nat) : (s.stall k).fused = s.fused := modMe_fused s _
@[simp] theorem stall_gtb (s : State) (k : Nat) : (s.stall k).gtb = s.gtb := modMe_gtb s _
@[simp] theorem stall_booted (s : State) (k : Nat) : (s.stall k).booted = s.booted := modMe_booted s _
@[simp] theorem stall_halted (s : State) (k : Nat) : (s.stall k).halted = s.halted := modMe_halted s _
@[simp] theorem stall_powered (s : State) (k : Nat) : (s.stall k).powered = s.powered := modMe_powered s _
@[simp] theorem stall_rollback (s : State) (k : Nat) : (s.stall k).rollback = s.rollback := modMe_rollback s _
@[simp] theorem stall_image (s : State) (k : Nat) : (s.stall k).image = s.image := modMe_image s _
@[simp] theorem stall_keyHash (s : State) (k : Nat) : (s.stall k).keyHash = s.keyHash := modMe_keyHash s _
@[simp] theorem stall_loaded (s : State) (k : Nat) : (s.stall k).loaded = s.loaded := modMe_loaded s _
@[simp] theorem stall_tests (s : State) (k : Nat) : (s.stall k).tests = s.tests := modMe_tests s _
@[simp] theorem stall_spares (s : State) (k : Nat) : (s.stall k).spares = s.spares := modMe_spares s _
@[simp] theorem stall_reported (s : State) (k : Nat) : (s.stall k).reported = s.reported := modMe_reported s _
@[simp] theorem stall_retiredUnits (s : State) (k : Nat) : (s.stall k).retiredUnits = s.retiredUnits := modMe_retiredUnits s _
@[simp] theorem stall_refAcc (s : State) (k : Nat) : (s.stall k).refAcc = s.refAcc := modMe_refAcc s _
@[simp] theorem stall_refAt (s : State) (k : Nat) : (s.stall k).refAt = s.refAt := modMe_refAt s _
@[simp] theorem stall_owed (s : State) (k : Nat) : (s.stall k).owed = s.owed := modMe_owed s _
@[simp] theorem stall_refDiv (s : State) (k : Nat) : (s.stall k).refDiv = s.refDiv := modMe_refDiv s _
@[simp] theorem stall_bad (s : State) (k : Nat) : (s.stall k).bad = s.bad := modMe_bad s _
@[simp] theorem stall_corrected (s : State) (k : Nat) : (s.stall k).corrected = s.corrected := modMe_corrected s _
@[simp] theorem stall_evalAt (s : State) (k : Nat) : (s.stall k).evalAt = s.evalAt := modMe_evalAt s _
@[simp] theorem stall_critSeen (s : State) (k : Nat) : (s.stall k).critSeen = s.critSeen := modMe_critSeen s _
@[simp] theorem stall_power (s : State) (k : Nat) : (s.stall k).power = s.power := modMe_power s _
@[simp] theorem stall_lostPkgs (s : State) (k : Nat) : (s.stall k).lostPkgs = s.lostPkgs := modMe_lostPkgs s _
@[simp] theorem stall_lostPaths (s : State) (k : Nat) : (s.stall k).lostPaths = s.lostPaths := modMe_lostPaths s _
@[simp] theorem stall_routes (s : State) (k : Nat) : (s.stall k).routes = s.routes := modMe_routes s _
@[simp] theorem stall_hart (s : State) (k : Nat) : (s.stall k).hart = s.hart := modMe_hart s _
@[simp] theorem stall_hartNo (s : State) (k : Nat) : (s.stall k).hartNo = s.hartNo := modMe_hartNo s _
@[simp] theorem stall_harts (s : State) (k : Nat) : (s.stall k).harts = s.harts := modMe_harts s _
@[simp] theorem stall_invalPos (s : State) (k : Nat) : (s.stall k).invalPos = s.invalPos := modMe_invalPos s _
@[simp] theorem stall_iqSlots (s : State) (k : Nat) : (s.stall k).iqSlots = s.iqSlots := modMe_iqSlots s _
@[simp] theorem stall_iqCmd (s : State) (k : Nat) : (s.stall k).iqCmd = s.iqCmd := modMe_iqCmd s _
@[simp] theorem stall_report (s : State) (k : Nat) : (s.stall k).report = s.report := modMe_report s _
@[simp] theorem stall_diverged (s : State) (k : Nat) : (s.stall k).diverged = s.diverged := modMe_diverged s _
@[simp] theorem stall_hostIn (s : State) (k : Nat) : (s.stall k).hostIn = s.hostIn := modMe_hostIn s _
@[simp] theorem stall_msix (s : State) (k : Nat) : (s.stall k).msix = s.msix := modMe_msix s _
@[simp] theorem stall_syscoord (s : State) (k : Nat) : (s.stall k).syscoord = s.syscoord := modMe_syscoord s _
@[simp] theorem stall_agenda (s : State) (k : Nat) : (s.stall k).agenda = s.agenda := modMe_agenda s _
@[simp] theorem stall_turn (s : State) (k : Nat) : (s.stall k).turn = s.turn := modMe_turn s _
@[simp] theorem stall_inbox (s : State) (k : Nat) : (s.stall k).inbox = s.inbox := modMe_inbox s _
@[simp] theorem stall_choices (s : State) (k : Nat) : (s.stall k).choices = s.choices := modMe_choices s _
@[simp] theorem stall_times (s : State) (k : Nat) : (s.stall k).times = s.times := modMe_times s _

@[simp] theorem stall_wait (s : State) (k : Nat) : (s.stall k).me.wait = .stall k := by simp [State.stall]

@[simp] theorem stall_arch (s : State) (k : Nat) : (s.stall k).me.arch = s.me.arch := by simp [State.stall]

/-! ### Statement updates -/

@[simp] theorem lands_away (s : State) (es : List LandEntry) : (s.lands es).away = s.away := modMe_away s _
@[simp] theorem lands_cur (s : State) (es : List LandEntry) : (s.lands es).cur = s.cur := modMe_cur s _
@[simp] theorem lands_casc (s : State) (es : List LandEntry) : (s.lands es).casc = s.casc := modMe_casc s _
@[simp] theorem lands_sp (s : State) (es : List LandEntry) : (s.lands es).sp = s.sp := modMe_sp s _
@[simp] theorem lands_tiles (s : State) (es : List LandEntry) : (s.lands es).tiles = s.tiles := modMe_tiles s _
@[simp] theorem lands_semVal (s : State) (es : List LandEntry) : (s.lands es).semVal = s.semVal := modMe_semVal s _
@[simp] theorem lands_semLatch (s : State) (es : List LandEntry) : (s.lands es).semLatch = s.semLatch := modMe_semLatch s _
@[simp] theorem lands_semCode (s : State) (es : List LandEntry) : (s.lands es).semCode = s.semCode := modMe_semCode s _
@[simp] theorem lands_hasps (s : State) (es : List LandEntry) : (s.lands es).hasps = s.hasps := modMe_hasps s _
@[simp] theorem lands_acc (s : State) (es : List LandEntry) : (s.lands es).acc = s.acc := modMe_acc s _
@[simp] theorem lands_mu (s : State) (es : List LandEntry) : (s.lands es).mu = s.mu := modMe_mu s _
@[simp] theorem lands_ep (s : State) (es : List LandEntry) : (s.lands es).ep = s.ep := modMe_ep s _
@[simp] theorem lands_scaleCache (s : State) (es : List LandEntry) : (s.lands es).scaleCache = s.scaleCache := modMe_scaleCache s _
@[simp] theorem lands_run (s : State) (es : List LandEntry) : (s.lands es).run = s.run := modMe_run s _
@[simp] theorem lands_lastCallCtx (s : State) (es : List LandEntry) : (s.lands es).lastCallCtx = s.lastCallCtx := modMe_lastCallCtx s _
@[simp] theorem lands_collTurn (s : State) (es : List LandEntry) : (s.lands es).collTurn = s.collTurn := modMe_collTurn s _
@[simp] theorem lands_wire (s : State) (es : List LandEntry) : (s.lands es).wire = s.wire := modMe_wire s _
@[simp] theorem lands_bankQ (s : State) (es : List LandEntry) : (s.lands es).bankQ = s.bankQ := modMe_bankQ s _
@[simp] theorem lands_bankCycle (s : State) (es : List LandEntry) : (s.lands es).bankCycle = s.bankCycle := modMe_bankCycle s _
@[simp] theorem lands_mem (s : State) (es : List LandEntry) : (s.lands es).mem = s.mem := modMe_mem s _
@[simp] theorem lands_wrote (s : State) (es : List LandEntry) : (s.lands es).wrote = s.wrote := modMe_wrote s _
@[simp] theorem lands_hostMem (s : State) (es : List LandEntry) : (s.lands es).hostMem = s.hostMem := modMe_hostMem s _
@[simp] theorem lands_stCore (s : State) (es : List LandEntry) : (s.lands es).stCore = s.stCore := modMe_stCore s _
@[simp] theorem lands_stCluster (s : State) (es : List LandEntry) : (s.lands es).stCluster = s.stCluster := modMe_stCluster s _
@[simp] theorem lands_stDie (s : State) (es : List LandEntry) : (s.lands es).stDie = s.stDie := modMe_stDie s _
@[simp] theorem lands_homeQ (s : State) (es : List LandEntry) : (s.lands es).homeQ = s.homeQ := modMe_homeQ s _
@[simp] theorem lands_nextHome (s : State) (es : List LandEntry) : (s.lands es).nextHome = s.nextHome := modMe_nextHome s _
@[simp] theorem lands_pkgTumbler (s : State) (es : List LandEntry) : (s.lands es).pkgTumbler = s.pkgTumbler := modMe_pkgTumbler s _
@[simp] theorem lands_domTumbler (s : State) (es : List LandEntry) : (s.lands es).domTumbler = s.domTumbler := modMe_domTumbler s _
@[simp] theorem lands_srPos (s : State) (es : List LandEntry) : (s.lands es).srPos = s.srPos := modMe_srPos s _
@[simp] theorem lands_tlb (s : State) (es : List LandEntry) : (s.lands es).tlb = s.tlb := modMe_tlb s _
@[simp] theorem lands_tlbOld (s : State) (es : List LandEntry) : (s.lands es).tlbOld = s.tlbOld := modMe_tlbOld s _
@[simp] theorem lands_invals (s : State) (es : List LandEntry) : (s.lands es).invals = s.invals := modMe_invals s _
@[simp] theorem lands_mreg (s : State) (es : List LandEntry) : (s.lands es).mreg = s.mreg := modMe_mreg s _
@[simp] theorem lands_launches (s : State) (es : List LandEntry) : (s.lands es).launches = s.launches := modMe_launches s _
@[simp] theorem lands_sched (s : State) (es : List LandEntry) : (s.lands es).sched = s.sched := modMe_sched s _
@[simp] theorem lands_groups (s : State) (es : List LandEntry) : (s.lands es).groups = s.groups := modMe_groups s _
@[simp] theorem lands_fused (s : State) (es : List LandEntry) : (s.lands es).fused = s.fused := modMe_fused s _
@[simp] theorem lands_gtb (s : State) (es : List LandEntry) : (s.lands es).gtb = s.gtb := modMe_gtb s _
@[simp] theorem lands_booted (s : State) (es : List LandEntry) : (s.lands es).booted = s.booted := modMe_booted s _
@[simp] theorem lands_halted (s : State) (es : List LandEntry) : (s.lands es).halted = s.halted := modMe_halted s _
@[simp] theorem lands_powered (s : State) (es : List LandEntry) : (s.lands es).powered = s.powered := modMe_powered s _
@[simp] theorem lands_rollback (s : State) (es : List LandEntry) : (s.lands es).rollback = s.rollback := modMe_rollback s _
@[simp] theorem lands_image (s : State) (es : List LandEntry) : (s.lands es).image = s.image := modMe_image s _
@[simp] theorem lands_keyHash (s : State) (es : List LandEntry) : (s.lands es).keyHash = s.keyHash := modMe_keyHash s _
@[simp] theorem lands_loaded (s : State) (es : List LandEntry) : (s.lands es).loaded = s.loaded := modMe_loaded s _
@[simp] theorem lands_tests (s : State) (es : List LandEntry) : (s.lands es).tests = s.tests := modMe_tests s _
@[simp] theorem lands_spares (s : State) (es : List LandEntry) : (s.lands es).spares = s.spares := modMe_spares s _
@[simp] theorem lands_reported (s : State) (es : List LandEntry) : (s.lands es).reported = s.reported := modMe_reported s _
@[simp] theorem lands_retiredUnits (s : State) (es : List LandEntry) : (s.lands es).retiredUnits = s.retiredUnits := modMe_retiredUnits s _
@[simp] theorem lands_refAcc (s : State) (es : List LandEntry) : (s.lands es).refAcc = s.refAcc := modMe_refAcc s _
@[simp] theorem lands_refAt (s : State) (es : List LandEntry) : (s.lands es).refAt = s.refAt := modMe_refAt s _
@[simp] theorem lands_owed (s : State) (es : List LandEntry) : (s.lands es).owed = s.owed := modMe_owed s _
@[simp] theorem lands_refDiv (s : State) (es : List LandEntry) : (s.lands es).refDiv = s.refDiv := modMe_refDiv s _
@[simp] theorem lands_bad (s : State) (es : List LandEntry) : (s.lands es).bad = s.bad := modMe_bad s _
@[simp] theorem lands_corrected (s : State) (es : List LandEntry) : (s.lands es).corrected = s.corrected := modMe_corrected s _
@[simp] theorem lands_evalAt (s : State) (es : List LandEntry) : (s.lands es).evalAt = s.evalAt := modMe_evalAt s _
@[simp] theorem lands_critSeen (s : State) (es : List LandEntry) : (s.lands es).critSeen = s.critSeen := modMe_critSeen s _
@[simp] theorem lands_power (s : State) (es : List LandEntry) : (s.lands es).power = s.power := modMe_power s _
@[simp] theorem lands_lostPkgs (s : State) (es : List LandEntry) : (s.lands es).lostPkgs = s.lostPkgs := modMe_lostPkgs s _
@[simp] theorem lands_lostPaths (s : State) (es : List LandEntry) : (s.lands es).lostPaths = s.lostPaths := modMe_lostPaths s _
@[simp] theorem lands_routes (s : State) (es : List LandEntry) : (s.lands es).routes = s.routes := modMe_routes s _
@[simp] theorem lands_hart (s : State) (es : List LandEntry) : (s.lands es).hart = s.hart := modMe_hart s _
@[simp] theorem lands_hartNo (s : State) (es : List LandEntry) : (s.lands es).hartNo = s.hartNo := modMe_hartNo s _
@[simp] theorem lands_harts (s : State) (es : List LandEntry) : (s.lands es).harts = s.harts := modMe_harts s _
@[simp] theorem lands_invalPos (s : State) (es : List LandEntry) : (s.lands es).invalPos = s.invalPos := modMe_invalPos s _
@[simp] theorem lands_iqSlots (s : State) (es : List LandEntry) : (s.lands es).iqSlots = s.iqSlots := modMe_iqSlots s _
@[simp] theorem lands_iqCmd (s : State) (es : List LandEntry) : (s.lands es).iqCmd = s.iqCmd := modMe_iqCmd s _
@[simp] theorem lands_report (s : State) (es : List LandEntry) : (s.lands es).report = s.report := modMe_report s _
@[simp] theorem lands_diverged (s : State) (es : List LandEntry) : (s.lands es).diverged = s.diverged := modMe_diverged s _
@[simp] theorem lands_hostIn (s : State) (es : List LandEntry) : (s.lands es).hostIn = s.hostIn := modMe_hostIn s _
@[simp] theorem lands_msix (s : State) (es : List LandEntry) : (s.lands es).msix = s.msix := modMe_msix s _
@[simp] theorem lands_syscoord (s : State) (es : List LandEntry) : (s.lands es).syscoord = s.syscoord := modMe_syscoord s _
@[simp] theorem lands_agenda (s : State) (es : List LandEntry) : (s.lands es).agenda = s.agenda := modMe_agenda s _
@[simp] theorem lands_turn (s : State) (es : List LandEntry) : (s.lands es).turn = s.turn := modMe_turn s _
@[simp] theorem lands_inbox (s : State) (es : List LandEntry) : (s.lands es).inbox = s.inbox := modMe_inbox s _
@[simp] theorem lands_choices (s : State) (es : List LandEntry) : (s.lands es).choices = s.choices := modMe_choices s _
@[simp] theorem lands_times (s : State) (es : List LandEntry) : (s.lands es).times = s.times := modMe_times s _

/-! ###  -/

@[simp] theorem holds_away (s : State) (a : Acc) : (s.holds a).away = s.away := modMe_away s _
@[simp] theorem holds_cur (s : State) (a : Acc) : (s.holds a).cur = s.cur := modMe_cur s _
@[simp] theorem holds_casc (s : State) (a : Acc) : (s.holds a).casc = s.casc := modMe_casc s _
@[simp] theorem holds_sp (s : State) (a : Acc) : (s.holds a).sp = s.sp := modMe_sp s _
@[simp] theorem holds_tiles (s : State) (a : Acc) : (s.holds a).tiles = s.tiles := modMe_tiles s _
@[simp] theorem holds_semVal (s : State) (a : Acc) : (s.holds a).semVal = s.semVal := modMe_semVal s _
@[simp] theorem holds_semLatch (s : State) (a : Acc) : (s.holds a).semLatch = s.semLatch := modMe_semLatch s _
@[simp] theorem holds_semCode (s : State) (a : Acc) : (s.holds a).semCode = s.semCode := modMe_semCode s _
@[simp] theorem holds_hasps (s : State) (a : Acc) : (s.holds a).hasps = s.hasps := modMe_hasps s _
@[simp] theorem holds_acc (s : State) (a : Acc) : (s.holds a).acc = s.acc := modMe_acc s _
@[simp] theorem holds_mu (s : State) (a : Acc) : (s.holds a).mu = s.mu := modMe_mu s _
@[simp] theorem holds_ep (s : State) (a : Acc) : (s.holds a).ep = s.ep := modMe_ep s _
@[simp] theorem holds_scaleCache (s : State) (a : Acc) : (s.holds a).scaleCache = s.scaleCache := modMe_scaleCache s _
@[simp] theorem holds_run (s : State) (a : Acc) : (s.holds a).run = s.run := modMe_run s _
@[simp] theorem holds_lastCallCtx (s : State) (a : Acc) : (s.holds a).lastCallCtx = s.lastCallCtx := modMe_lastCallCtx s _
@[simp] theorem holds_collTurn (s : State) (a : Acc) : (s.holds a).collTurn = s.collTurn := modMe_collTurn s _
@[simp] theorem holds_wire (s : State) (a : Acc) : (s.holds a).wire = s.wire := modMe_wire s _
@[simp] theorem holds_bankQ (s : State) (a : Acc) : (s.holds a).bankQ = s.bankQ := modMe_bankQ s _
@[simp] theorem holds_bankCycle (s : State) (a : Acc) : (s.holds a).bankCycle = s.bankCycle := modMe_bankCycle s _
@[simp] theorem holds_mem (s : State) (a : Acc) : (s.holds a).mem = s.mem := modMe_mem s _
@[simp] theorem holds_wrote (s : State) (a : Acc) : (s.holds a).wrote = s.wrote := modMe_wrote s _
@[simp] theorem holds_hostMem (s : State) (a : Acc) : (s.holds a).hostMem = s.hostMem := modMe_hostMem s _
@[simp] theorem holds_stCore (s : State) (a : Acc) : (s.holds a).stCore = s.stCore := modMe_stCore s _
@[simp] theorem holds_stCluster (s : State) (a : Acc) : (s.holds a).stCluster = s.stCluster := modMe_stCluster s _
@[simp] theorem holds_stDie (s : State) (a : Acc) : (s.holds a).stDie = s.stDie := modMe_stDie s _
@[simp] theorem holds_homeQ (s : State) (a : Acc) : (s.holds a).homeQ = s.homeQ := modMe_homeQ s _
@[simp] theorem holds_nextHome (s : State) (a : Acc) : (s.holds a).nextHome = s.nextHome := modMe_nextHome s _
@[simp] theorem holds_pkgTumbler (s : State) (a : Acc) : (s.holds a).pkgTumbler = s.pkgTumbler := modMe_pkgTumbler s _
@[simp] theorem holds_domTumbler (s : State) (a : Acc) : (s.holds a).domTumbler = s.domTumbler := modMe_domTumbler s _
@[simp] theorem holds_srPos (s : State) (a : Acc) : (s.holds a).srPos = s.srPos := modMe_srPos s _
@[simp] theorem holds_tlb (s : State) (a : Acc) : (s.holds a).tlb = s.tlb := modMe_tlb s _
@[simp] theorem holds_tlbOld (s : State) (a : Acc) : (s.holds a).tlbOld = s.tlbOld := modMe_tlbOld s _
@[simp] theorem holds_invals (s : State) (a : Acc) : (s.holds a).invals = s.invals := modMe_invals s _
@[simp] theorem holds_mreg (s : State) (a : Acc) : (s.holds a).mreg = s.mreg := modMe_mreg s _
@[simp] theorem holds_launches (s : State) (a : Acc) : (s.holds a).launches = s.launches := modMe_launches s _
@[simp] theorem holds_sched (s : State) (a : Acc) : (s.holds a).sched = s.sched := modMe_sched s _
@[simp] theorem holds_groups (s : State) (a : Acc) : (s.holds a).groups = s.groups := modMe_groups s _
@[simp] theorem holds_fused (s : State) (a : Acc) : (s.holds a).fused = s.fused := modMe_fused s _
@[simp] theorem holds_gtb (s : State) (a : Acc) : (s.holds a).gtb = s.gtb := modMe_gtb s _
@[simp] theorem holds_booted (s : State) (a : Acc) : (s.holds a).booted = s.booted := modMe_booted s _
@[simp] theorem holds_halted (s : State) (a : Acc) : (s.holds a).halted = s.halted := modMe_halted s _
@[simp] theorem holds_powered (s : State) (a : Acc) : (s.holds a).powered = s.powered := modMe_powered s _
@[simp] theorem holds_rollback (s : State) (a : Acc) : (s.holds a).rollback = s.rollback := modMe_rollback s _
@[simp] theorem holds_image (s : State) (a : Acc) : (s.holds a).image = s.image := modMe_image s _
@[simp] theorem holds_keyHash (s : State) (a : Acc) : (s.holds a).keyHash = s.keyHash := modMe_keyHash s _
@[simp] theorem holds_loaded (s : State) (a : Acc) : (s.holds a).loaded = s.loaded := modMe_loaded s _
@[simp] theorem holds_tests (s : State) (a : Acc) : (s.holds a).tests = s.tests := modMe_tests s _
@[simp] theorem holds_spares (s : State) (a : Acc) : (s.holds a).spares = s.spares := modMe_spares s _
@[simp] theorem holds_reported (s : State) (a : Acc) : (s.holds a).reported = s.reported := modMe_reported s _
@[simp] theorem holds_retiredUnits (s : State) (a : Acc) : (s.holds a).retiredUnits = s.retiredUnits := modMe_retiredUnits s _
@[simp] theorem holds_refAcc (s : State) (a : Acc) : (s.holds a).refAcc = s.refAcc := modMe_refAcc s _
@[simp] theorem holds_refAt (s : State) (a : Acc) : (s.holds a).refAt = s.refAt := modMe_refAt s _
@[simp] theorem holds_owed (s : State) (a : Acc) : (s.holds a).owed = s.owed := modMe_owed s _
@[simp] theorem holds_refDiv (s : State) (a : Acc) : (s.holds a).refDiv = s.refDiv := modMe_refDiv s _
@[simp] theorem holds_bad (s : State) (a : Acc) : (s.holds a).bad = s.bad := modMe_bad s _
@[simp] theorem holds_corrected (s : State) (a : Acc) : (s.holds a).corrected = s.corrected := modMe_corrected s _
@[simp] theorem holds_evalAt (s : State) (a : Acc) : (s.holds a).evalAt = s.evalAt := modMe_evalAt s _
@[simp] theorem holds_critSeen (s : State) (a : Acc) : (s.holds a).critSeen = s.critSeen := modMe_critSeen s _
@[simp] theorem holds_power (s : State) (a : Acc) : (s.holds a).power = s.power := modMe_power s _
@[simp] theorem holds_lostPkgs (s : State) (a : Acc) : (s.holds a).lostPkgs = s.lostPkgs := modMe_lostPkgs s _
@[simp] theorem holds_lostPaths (s : State) (a : Acc) : (s.holds a).lostPaths = s.lostPaths := modMe_lostPaths s _
@[simp] theorem holds_routes (s : State) (a : Acc) : (s.holds a).routes = s.routes := modMe_routes s _
@[simp] theorem holds_hart (s : State) (a : Acc) : (s.holds a).hart = s.hart := modMe_hart s _
@[simp] theorem holds_hartNo (s : State) (a : Acc) : (s.holds a).hartNo = s.hartNo := modMe_hartNo s _
@[simp] theorem holds_harts (s : State) (a : Acc) : (s.holds a).harts = s.harts := modMe_harts s _
@[simp] theorem holds_invalPos (s : State) (a : Acc) : (s.holds a).invalPos = s.invalPos := modMe_invalPos s _
@[simp] theorem holds_iqSlots (s : State) (a : Acc) : (s.holds a).iqSlots = s.iqSlots := modMe_iqSlots s _
@[simp] theorem holds_iqCmd (s : State) (a : Acc) : (s.holds a).iqCmd = s.iqCmd := modMe_iqCmd s _
@[simp] theorem holds_report (s : State) (a : Acc) : (s.holds a).report = s.report := modMe_report s _
@[simp] theorem holds_diverged (s : State) (a : Acc) : (s.holds a).diverged = s.diverged := modMe_diverged s _
@[simp] theorem holds_hostIn (s : State) (a : Acc) : (s.holds a).hostIn = s.hostIn := modMe_hostIn s _
@[simp] theorem holds_msix (s : State) (a : Acc) : (s.holds a).msix = s.msix := modMe_msix s _
@[simp] theorem holds_syscoord (s : State) (a : Acc) : (s.holds a).syscoord = s.syscoord := modMe_syscoord s _
@[simp] theorem holds_agenda (s : State) (a : Acc) : (s.holds a).agenda = s.agenda := modMe_agenda s _
@[simp] theorem holds_turn (s : State) (a : Acc) : (s.holds a).turn = s.turn := modMe_turn s _
@[simp] theorem holds_inbox (s : State) (a : Acc) : (s.holds a).inbox = s.inbox := modMe_inbox s _
@[simp] theorem holds_choices (s : State) (a : Acc) : (s.holds a).choices = s.choices := modMe_choices s _
@[simp] theorem holds_times (s : State) (a : Acc) : (s.holds a).times = s.times := modMe_times s _

/-! ###  -/

@[simp] theorem queues_away (s : State) (a : Acc) : (s.queues a).away = s.away := modMe_away s _
@[simp] theorem queues_cur (s : State) (a : Acc) : (s.queues a).cur = s.cur := modMe_cur s _
@[simp] theorem queues_casc (s : State) (a : Acc) : (s.queues a).casc = s.casc := modMe_casc s _
@[simp] theorem queues_sp (s : State) (a : Acc) : (s.queues a).sp = s.sp := modMe_sp s _
@[simp] theorem queues_tiles (s : State) (a : Acc) : (s.queues a).tiles = s.tiles := modMe_tiles s _
@[simp] theorem queues_semVal (s : State) (a : Acc) : (s.queues a).semVal = s.semVal := modMe_semVal s _
@[simp] theorem queues_semLatch (s : State) (a : Acc) : (s.queues a).semLatch = s.semLatch := modMe_semLatch s _
@[simp] theorem queues_semCode (s : State) (a : Acc) : (s.queues a).semCode = s.semCode := modMe_semCode s _
@[simp] theorem queues_hasps (s : State) (a : Acc) : (s.queues a).hasps = s.hasps := modMe_hasps s _
@[simp] theorem queues_acc (s : State) (a : Acc) : (s.queues a).acc = s.acc := modMe_acc s _
@[simp] theorem queues_mu (s : State) (a : Acc) : (s.queues a).mu = s.mu := modMe_mu s _
@[simp] theorem queues_ep (s : State) (a : Acc) : (s.queues a).ep = s.ep := modMe_ep s _
@[simp] theorem queues_scaleCache (s : State) (a : Acc) : (s.queues a).scaleCache = s.scaleCache := modMe_scaleCache s _
@[simp] theorem queues_run (s : State) (a : Acc) : (s.queues a).run = s.run := modMe_run s _
@[simp] theorem queues_lastCallCtx (s : State) (a : Acc) : (s.queues a).lastCallCtx = s.lastCallCtx := modMe_lastCallCtx s _
@[simp] theorem queues_collTurn (s : State) (a : Acc) : (s.queues a).collTurn = s.collTurn := modMe_collTurn s _
@[simp] theorem queues_wire (s : State) (a : Acc) : (s.queues a).wire = s.wire := modMe_wire s _
@[simp] theorem queues_bankQ (s : State) (a : Acc) : (s.queues a).bankQ = s.bankQ := modMe_bankQ s _
@[simp] theorem queues_bankCycle (s : State) (a : Acc) : (s.queues a).bankCycle = s.bankCycle := modMe_bankCycle s _
@[simp] theorem queues_mem (s : State) (a : Acc) : (s.queues a).mem = s.mem := modMe_mem s _
@[simp] theorem queues_wrote (s : State) (a : Acc) : (s.queues a).wrote = s.wrote := modMe_wrote s _
@[simp] theorem queues_hostMem (s : State) (a : Acc) : (s.queues a).hostMem = s.hostMem := modMe_hostMem s _
@[simp] theorem queues_stCore (s : State) (a : Acc) : (s.queues a).stCore = s.stCore := modMe_stCore s _
@[simp] theorem queues_stCluster (s : State) (a : Acc) : (s.queues a).stCluster = s.stCluster := modMe_stCluster s _
@[simp] theorem queues_stDie (s : State) (a : Acc) : (s.queues a).stDie = s.stDie := modMe_stDie s _
@[simp] theorem queues_homeQ (s : State) (a : Acc) : (s.queues a).homeQ = s.homeQ := modMe_homeQ s _
@[simp] theorem queues_nextHome (s : State) (a : Acc) : (s.queues a).nextHome = s.nextHome := modMe_nextHome s _
@[simp] theorem queues_pkgTumbler (s : State) (a : Acc) : (s.queues a).pkgTumbler = s.pkgTumbler := modMe_pkgTumbler s _
@[simp] theorem queues_domTumbler (s : State) (a : Acc) : (s.queues a).domTumbler = s.domTumbler := modMe_domTumbler s _
@[simp] theorem queues_srPos (s : State) (a : Acc) : (s.queues a).srPos = s.srPos := modMe_srPos s _
@[simp] theorem queues_tlb (s : State) (a : Acc) : (s.queues a).tlb = s.tlb := modMe_tlb s _
@[simp] theorem queues_tlbOld (s : State) (a : Acc) : (s.queues a).tlbOld = s.tlbOld := modMe_tlbOld s _
@[simp] theorem queues_invals (s : State) (a : Acc) : (s.queues a).invals = s.invals := modMe_invals s _
@[simp] theorem queues_mreg (s : State) (a : Acc) : (s.queues a).mreg = s.mreg := modMe_mreg s _
@[simp] theorem queues_launches (s : State) (a : Acc) : (s.queues a).launches = s.launches := modMe_launches s _
@[simp] theorem queues_sched (s : State) (a : Acc) : (s.queues a).sched = s.sched := modMe_sched s _
@[simp] theorem queues_groups (s : State) (a : Acc) : (s.queues a).groups = s.groups := modMe_groups s _
@[simp] theorem queues_fused (s : State) (a : Acc) : (s.queues a).fused = s.fused := modMe_fused s _
@[simp] theorem queues_gtb (s : State) (a : Acc) : (s.queues a).gtb = s.gtb := modMe_gtb s _
@[simp] theorem queues_booted (s : State) (a : Acc) : (s.queues a).booted = s.booted := modMe_booted s _
@[simp] theorem queues_halted (s : State) (a : Acc) : (s.queues a).halted = s.halted := modMe_halted s _
@[simp] theorem queues_powered (s : State) (a : Acc) : (s.queues a).powered = s.powered := modMe_powered s _
@[simp] theorem queues_rollback (s : State) (a : Acc) : (s.queues a).rollback = s.rollback := modMe_rollback s _
@[simp] theorem queues_image (s : State) (a : Acc) : (s.queues a).image = s.image := modMe_image s _
@[simp] theorem queues_keyHash (s : State) (a : Acc) : (s.queues a).keyHash = s.keyHash := modMe_keyHash s _
@[simp] theorem queues_loaded (s : State) (a : Acc) : (s.queues a).loaded = s.loaded := modMe_loaded s _
@[simp] theorem queues_tests (s : State) (a : Acc) : (s.queues a).tests = s.tests := modMe_tests s _
@[simp] theorem queues_spares (s : State) (a : Acc) : (s.queues a).spares = s.spares := modMe_spares s _
@[simp] theorem queues_reported (s : State) (a : Acc) : (s.queues a).reported = s.reported := modMe_reported s _
@[simp] theorem queues_retiredUnits (s : State) (a : Acc) : (s.queues a).retiredUnits = s.retiredUnits := modMe_retiredUnits s _
@[simp] theorem queues_refAcc (s : State) (a : Acc) : (s.queues a).refAcc = s.refAcc := modMe_refAcc s _
@[simp] theorem queues_refAt (s : State) (a : Acc) : (s.queues a).refAt = s.refAt := modMe_refAt s _
@[simp] theorem queues_owed (s : State) (a : Acc) : (s.queues a).owed = s.owed := modMe_owed s _
@[simp] theorem queues_refDiv (s : State) (a : Acc) : (s.queues a).refDiv = s.refDiv := modMe_refDiv s _
@[simp] theorem queues_bad (s : State) (a : Acc) : (s.queues a).bad = s.bad := modMe_bad s _
@[simp] theorem queues_corrected (s : State) (a : Acc) : (s.queues a).corrected = s.corrected := modMe_corrected s _
@[simp] theorem queues_evalAt (s : State) (a : Acc) : (s.queues a).evalAt = s.evalAt := modMe_evalAt s _
@[simp] theorem queues_critSeen (s : State) (a : Acc) : (s.queues a).critSeen = s.critSeen := modMe_critSeen s _
@[simp] theorem queues_power (s : State) (a : Acc) : (s.queues a).power = s.power := modMe_power s _
@[simp] theorem queues_lostPkgs (s : State) (a : Acc) : (s.queues a).lostPkgs = s.lostPkgs := modMe_lostPkgs s _
@[simp] theorem queues_lostPaths (s : State) (a : Acc) : (s.queues a).lostPaths = s.lostPaths := modMe_lostPaths s _
@[simp] theorem queues_routes (s : State) (a : Acc) : (s.queues a).routes = s.routes := modMe_routes s _
@[simp] theorem queues_hart (s : State) (a : Acc) : (s.queues a).hart = s.hart := modMe_hart s _
@[simp] theorem queues_hartNo (s : State) (a : Acc) : (s.queues a).hartNo = s.hartNo := modMe_hartNo s _
@[simp] theorem queues_harts (s : State) (a : Acc) : (s.queues a).harts = s.harts := modMe_harts s _
@[simp] theorem queues_invalPos (s : State) (a : Acc) : (s.queues a).invalPos = s.invalPos := modMe_invalPos s _
@[simp] theorem queues_iqSlots (s : State) (a : Acc) : (s.queues a).iqSlots = s.iqSlots := modMe_iqSlots s _
@[simp] theorem queues_iqCmd (s : State) (a : Acc) : (s.queues a).iqCmd = s.iqCmd := modMe_iqCmd s _
@[simp] theorem queues_report (s : State) (a : Acc) : (s.queues a).report = s.report := modMe_report s _
@[simp] theorem queues_diverged (s : State) (a : Acc) : (s.queues a).diverged = s.diverged := modMe_diverged s _
@[simp] theorem queues_hostIn (s : State) (a : Acc) : (s.queues a).hostIn = s.hostIn := modMe_hostIn s _
@[simp] theorem queues_msix (s : State) (a : Acc) : (s.queues a).msix = s.msix := modMe_msix s _
@[simp] theorem queues_syscoord (s : State) (a : Acc) : (s.queues a).syscoord = s.syscoord := modMe_syscoord s _
@[simp] theorem queues_agenda (s : State) (a : Acc) : (s.queues a).agenda = s.agenda := modMe_agenda s _
@[simp] theorem queues_turn (s : State) (a : Acc) : (s.queues a).turn = s.turn := modMe_turn s _
@[simp] theorem queues_inbox (s : State) (a : Acc) : (s.queues a).inbox = s.inbox := modMe_inbox s _
@[simp] theorem queues_choices (s : State) (a : Acc) : (s.queues a).choices = s.choices := modMe_choices s _
@[simp] theorem queues_times (s : State) (a : Acc) : (s.queues a).times = s.times := modMe_times s _

/-! ###  -/

@[simp] theorem waits_away (s : State) (w : Wait) : (s.waits w).away = s.away := modMe_away s _
@[simp] theorem waits_cur (s : State) (w : Wait) : (s.waits w).cur = s.cur := modMe_cur s _
@[simp] theorem waits_casc (s : State) (w : Wait) : (s.waits w).casc = s.casc := modMe_casc s _
@[simp] theorem waits_sp (s : State) (w : Wait) : (s.waits w).sp = s.sp := modMe_sp s _
@[simp] theorem waits_tiles (s : State) (w : Wait) : (s.waits w).tiles = s.tiles := modMe_tiles s _
@[simp] theorem waits_semVal (s : State) (w : Wait) : (s.waits w).semVal = s.semVal := modMe_semVal s _
@[simp] theorem waits_semLatch (s : State) (w : Wait) : (s.waits w).semLatch = s.semLatch := modMe_semLatch s _
@[simp] theorem waits_semCode (s : State) (w : Wait) : (s.waits w).semCode = s.semCode := modMe_semCode s _
@[simp] theorem waits_hasps (s : State) (w : Wait) : (s.waits w).hasps = s.hasps := modMe_hasps s _
@[simp] theorem waits_acc (s : State) (w : Wait) : (s.waits w).acc = s.acc := modMe_acc s _
@[simp] theorem waits_mu (s : State) (w : Wait) : (s.waits w).mu = s.mu := modMe_mu s _
@[simp] theorem waits_ep (s : State) (w : Wait) : (s.waits w).ep = s.ep := modMe_ep s _
@[simp] theorem waits_scaleCache (s : State) (w : Wait) : (s.waits w).scaleCache = s.scaleCache := modMe_scaleCache s _
@[simp] theorem waits_run (s : State) (w : Wait) : (s.waits w).run = s.run := modMe_run s _
@[simp] theorem waits_lastCallCtx (s : State) (w : Wait) : (s.waits w).lastCallCtx = s.lastCallCtx := modMe_lastCallCtx s _
@[simp] theorem waits_collTurn (s : State) (w : Wait) : (s.waits w).collTurn = s.collTurn := modMe_collTurn s _
@[simp] theorem waits_wire (s : State) (w : Wait) : (s.waits w).wire = s.wire := modMe_wire s _
@[simp] theorem waits_bankQ (s : State) (w : Wait) : (s.waits w).bankQ = s.bankQ := modMe_bankQ s _
@[simp] theorem waits_bankCycle (s : State) (w : Wait) : (s.waits w).bankCycle = s.bankCycle := modMe_bankCycle s _
@[simp] theorem waits_mem (s : State) (w : Wait) : (s.waits w).mem = s.mem := modMe_mem s _
@[simp] theorem waits_wrote (s : State) (w : Wait) : (s.waits w).wrote = s.wrote := modMe_wrote s _
@[simp] theorem waits_hostMem (s : State) (w : Wait) : (s.waits w).hostMem = s.hostMem := modMe_hostMem s _
@[simp] theorem waits_stCore (s : State) (w : Wait) : (s.waits w).stCore = s.stCore := modMe_stCore s _
@[simp] theorem waits_stCluster (s : State) (w : Wait) : (s.waits w).stCluster = s.stCluster := modMe_stCluster s _
@[simp] theorem waits_stDie (s : State) (w : Wait) : (s.waits w).stDie = s.stDie := modMe_stDie s _
@[simp] theorem waits_homeQ (s : State) (w : Wait) : (s.waits w).homeQ = s.homeQ := modMe_homeQ s _
@[simp] theorem waits_nextHome (s : State) (w : Wait) : (s.waits w).nextHome = s.nextHome := modMe_nextHome s _
@[simp] theorem waits_pkgTumbler (s : State) (w : Wait) : (s.waits w).pkgTumbler = s.pkgTumbler := modMe_pkgTumbler s _
@[simp] theorem waits_domTumbler (s : State) (w : Wait) : (s.waits w).domTumbler = s.domTumbler := modMe_domTumbler s _
@[simp] theorem waits_srPos (s : State) (w : Wait) : (s.waits w).srPos = s.srPos := modMe_srPos s _
@[simp] theorem waits_tlb (s : State) (w : Wait) : (s.waits w).tlb = s.tlb := modMe_tlb s _
@[simp] theorem waits_tlbOld (s : State) (w : Wait) : (s.waits w).tlbOld = s.tlbOld := modMe_tlbOld s _
@[simp] theorem waits_invals (s : State) (w : Wait) : (s.waits w).invals = s.invals := modMe_invals s _
@[simp] theorem waits_mreg (s : State) (w : Wait) : (s.waits w).mreg = s.mreg := modMe_mreg s _
@[simp] theorem waits_launches (s : State) (w : Wait) : (s.waits w).launches = s.launches := modMe_launches s _
@[simp] theorem waits_sched (s : State) (w : Wait) : (s.waits w).sched = s.sched := modMe_sched s _
@[simp] theorem waits_groups (s : State) (w : Wait) : (s.waits w).groups = s.groups := modMe_groups s _
@[simp] theorem waits_fused (s : State) (w : Wait) : (s.waits w).fused = s.fused := modMe_fused s _
@[simp] theorem waits_gtb (s : State) (w : Wait) : (s.waits w).gtb = s.gtb := modMe_gtb s _
@[simp] theorem waits_booted (s : State) (w : Wait) : (s.waits w).booted = s.booted := modMe_booted s _
@[simp] theorem waits_halted (s : State) (w : Wait) : (s.waits w).halted = s.halted := modMe_halted s _
@[simp] theorem waits_powered (s : State) (w : Wait) : (s.waits w).powered = s.powered := modMe_powered s _
@[simp] theorem waits_rollback (s : State) (w : Wait) : (s.waits w).rollback = s.rollback := modMe_rollback s _
@[simp] theorem waits_image (s : State) (w : Wait) : (s.waits w).image = s.image := modMe_image s _
@[simp] theorem waits_keyHash (s : State) (w : Wait) : (s.waits w).keyHash = s.keyHash := modMe_keyHash s _
@[simp] theorem waits_loaded (s : State) (w : Wait) : (s.waits w).loaded = s.loaded := modMe_loaded s _
@[simp] theorem waits_tests (s : State) (w : Wait) : (s.waits w).tests = s.tests := modMe_tests s _
@[simp] theorem waits_spares (s : State) (w : Wait) : (s.waits w).spares = s.spares := modMe_spares s _
@[simp] theorem waits_reported (s : State) (w : Wait) : (s.waits w).reported = s.reported := modMe_reported s _
@[simp] theorem waits_retiredUnits (s : State) (w : Wait) : (s.waits w).retiredUnits = s.retiredUnits := modMe_retiredUnits s _
@[simp] theorem waits_refAcc (s : State) (w : Wait) : (s.waits w).refAcc = s.refAcc := modMe_refAcc s _
@[simp] theorem waits_refAt (s : State) (w : Wait) : (s.waits w).refAt = s.refAt := modMe_refAt s _
@[simp] theorem waits_owed (s : State) (w : Wait) : (s.waits w).owed = s.owed := modMe_owed s _
@[simp] theorem waits_refDiv (s : State) (w : Wait) : (s.waits w).refDiv = s.refDiv := modMe_refDiv s _
@[simp] theorem waits_bad (s : State) (w : Wait) : (s.waits w).bad = s.bad := modMe_bad s _
@[simp] theorem waits_corrected (s : State) (w : Wait) : (s.waits w).corrected = s.corrected := modMe_corrected s _
@[simp] theorem waits_evalAt (s : State) (w : Wait) : (s.waits w).evalAt = s.evalAt := modMe_evalAt s _
@[simp] theorem waits_critSeen (s : State) (w : Wait) : (s.waits w).critSeen = s.critSeen := modMe_critSeen s _
@[simp] theorem waits_power (s : State) (w : Wait) : (s.waits w).power = s.power := modMe_power s _
@[simp] theorem waits_lostPkgs (s : State) (w : Wait) : (s.waits w).lostPkgs = s.lostPkgs := modMe_lostPkgs s _
@[simp] theorem waits_lostPaths (s : State) (w : Wait) : (s.waits w).lostPaths = s.lostPaths := modMe_lostPaths s _
@[simp] theorem waits_routes (s : State) (w : Wait) : (s.waits w).routes = s.routes := modMe_routes s _
@[simp] theorem waits_hart (s : State) (w : Wait) : (s.waits w).hart = s.hart := modMe_hart s _
@[simp] theorem waits_hartNo (s : State) (w : Wait) : (s.waits w).hartNo = s.hartNo := modMe_hartNo s _
@[simp] theorem waits_harts (s : State) (w : Wait) : (s.waits w).harts = s.harts := modMe_harts s _
@[simp] theorem waits_invalPos (s : State) (w : Wait) : (s.waits w).invalPos = s.invalPos := modMe_invalPos s _
@[simp] theorem waits_iqSlots (s : State) (w : Wait) : (s.waits w).iqSlots = s.iqSlots := modMe_iqSlots s _
@[simp] theorem waits_iqCmd (s : State) (w : Wait) : (s.waits w).iqCmd = s.iqCmd := modMe_iqCmd s _
@[simp] theorem waits_report (s : State) (w : Wait) : (s.waits w).report = s.report := modMe_report s _
@[simp] theorem waits_diverged (s : State) (w : Wait) : (s.waits w).diverged = s.diverged := modMe_diverged s _
@[simp] theorem waits_hostIn (s : State) (w : Wait) : (s.waits w).hostIn = s.hostIn := modMe_hostIn s _
@[simp] theorem waits_msix (s : State) (w : Wait) : (s.waits w).msix = s.msix := modMe_msix s _
@[simp] theorem waits_syscoord (s : State) (w : Wait) : (s.waits w).syscoord = s.syscoord := modMe_syscoord s _
@[simp] theorem waits_agenda (s : State) (w : Wait) : (s.waits w).agenda = s.agenda := modMe_agenda s _
@[simp] theorem waits_turn (s : State) (w : Wait) : (s.waits w).turn = s.turn := modMe_turn s _
@[simp] theorem waits_inbox (s : State) (w : Wait) : (s.waits w).inbox = s.inbox := modMe_inbox s _
@[simp] theorem waits_choices (s : State) (w : Wait) : (s.waits w).choices = s.choices := modMe_choices s _
@[simp] theorem waits_times (s : State) (w : Wait) : (s.waits w).times = s.times := modMe_times s _

/-! ### Checkpoints and traps -/

@[simp] theorem checkpoint_away (s : State) (c : Fin 4) : (s.checkpoint c).away = s.away := mod_away s c _
@[simp] theorem checkpoint_cur (s : State) (c : Fin 4) : (s.checkpoint c).cur = s.cur := mod_cur s c _
@[simp] theorem checkpoint_casc (s : State) (c : Fin 4) : (s.checkpoint c).casc = s.casc := mod_casc s c _
@[simp] theorem checkpoint_sp (s : State) (c : Fin 4) : (s.checkpoint c).sp = s.sp := mod_sp s c _
@[simp] theorem checkpoint_tiles (s : State) (c : Fin 4) : (s.checkpoint c).tiles = s.tiles := mod_tiles s c _
@[simp] theorem checkpoint_semVal (s : State) (c : Fin 4) : (s.checkpoint c).semVal = s.semVal := mod_semVal s c _
@[simp] theorem checkpoint_semLatch (s : State) (c : Fin 4) : (s.checkpoint c).semLatch = s.semLatch := mod_semLatch s c _
@[simp] theorem checkpoint_semCode (s : State) (c : Fin 4) : (s.checkpoint c).semCode = s.semCode := mod_semCode s c _
@[simp] theorem checkpoint_hasps (s : State) (c : Fin 4) : (s.checkpoint c).hasps = s.hasps := mod_hasps s c _
@[simp] theorem checkpoint_acc (s : State) (c : Fin 4) : (s.checkpoint c).acc = s.acc := mod_acc s c _
@[simp] theorem checkpoint_mu (s : State) (c : Fin 4) : (s.checkpoint c).mu = s.mu := mod_mu s c _
@[simp] theorem checkpoint_ep (s : State) (c : Fin 4) : (s.checkpoint c).ep = s.ep := mod_ep s c _
@[simp] theorem checkpoint_scaleCache (s : State) (c : Fin 4) : (s.checkpoint c).scaleCache = s.scaleCache := mod_scaleCache s c _
@[simp] theorem checkpoint_run (s : State) (c : Fin 4) : (s.checkpoint c).run = s.run := mod_run s c _
@[simp] theorem checkpoint_lastCallCtx (s : State) (c : Fin 4) : (s.checkpoint c).lastCallCtx = s.lastCallCtx := mod_lastCallCtx s c _
@[simp] theorem checkpoint_collTurn (s : State) (c : Fin 4) : (s.checkpoint c).collTurn = s.collTurn := mod_collTurn s c _
@[simp] theorem checkpoint_wire (s : State) (c : Fin 4) : (s.checkpoint c).wire = s.wire := mod_wire s c _
@[simp] theorem checkpoint_bankQ (s : State) (c : Fin 4) : (s.checkpoint c).bankQ = s.bankQ := mod_bankQ s c _
@[simp] theorem checkpoint_bankCycle (s : State) (c : Fin 4) : (s.checkpoint c).bankCycle = s.bankCycle := mod_bankCycle s c _
@[simp] theorem checkpoint_mem (s : State) (c : Fin 4) : (s.checkpoint c).mem = s.mem := mod_mem s c _
@[simp] theorem checkpoint_wrote (s : State) (c : Fin 4) : (s.checkpoint c).wrote = s.wrote := mod_wrote s c _
@[simp] theorem checkpoint_hostMem (s : State) (c : Fin 4) : (s.checkpoint c).hostMem = s.hostMem := mod_hostMem s c _
@[simp] theorem checkpoint_stCore (s : State) (c : Fin 4) : (s.checkpoint c).stCore = s.stCore := mod_stCore s c _
@[simp] theorem checkpoint_stCluster (s : State) (c : Fin 4) : (s.checkpoint c).stCluster = s.stCluster := mod_stCluster s c _
@[simp] theorem checkpoint_stDie (s : State) (c : Fin 4) : (s.checkpoint c).stDie = s.stDie := mod_stDie s c _
@[simp] theorem checkpoint_homeQ (s : State) (c : Fin 4) : (s.checkpoint c).homeQ = s.homeQ := mod_homeQ s c _
@[simp] theorem checkpoint_nextHome (s : State) (c : Fin 4) : (s.checkpoint c).nextHome = s.nextHome := mod_nextHome s c _
@[simp] theorem checkpoint_pkgTumbler (s : State) (c : Fin 4) : (s.checkpoint c).pkgTumbler = s.pkgTumbler := mod_pkgTumbler s c _
@[simp] theorem checkpoint_domTumbler (s : State) (c : Fin 4) : (s.checkpoint c).domTumbler = s.domTumbler := mod_domTumbler s c _
@[simp] theorem checkpoint_srPos (s : State) (c : Fin 4) : (s.checkpoint c).srPos = s.srPos := mod_srPos s c _
@[simp] theorem checkpoint_tlb (s : State) (c : Fin 4) : (s.checkpoint c).tlb = s.tlb := mod_tlb s c _
@[simp] theorem checkpoint_tlbOld (s : State) (c : Fin 4) : (s.checkpoint c).tlbOld = s.tlbOld := mod_tlbOld s c _
@[simp] theorem checkpoint_invals (s : State) (c : Fin 4) : (s.checkpoint c).invals = s.invals := mod_invals s c _
@[simp] theorem checkpoint_mreg (s : State) (c : Fin 4) : (s.checkpoint c).mreg = s.mreg := mod_mreg s c _
@[simp] theorem checkpoint_launches (s : State) (c : Fin 4) : (s.checkpoint c).launches = s.launches := mod_launches s c _
@[simp] theorem checkpoint_sched (s : State) (c : Fin 4) : (s.checkpoint c).sched = s.sched := mod_sched s c _
@[simp] theorem checkpoint_groups (s : State) (c : Fin 4) : (s.checkpoint c).groups = s.groups := mod_groups s c _
@[simp] theorem checkpoint_fused (s : State) (c : Fin 4) : (s.checkpoint c).fused = s.fused := mod_fused s c _
@[simp] theorem checkpoint_gtb (s : State) (c : Fin 4) : (s.checkpoint c).gtb = s.gtb := mod_gtb s c _
@[simp] theorem checkpoint_booted (s : State) (c : Fin 4) : (s.checkpoint c).booted = s.booted := mod_booted s c _
@[simp] theorem checkpoint_halted (s : State) (c : Fin 4) : (s.checkpoint c).halted = s.halted := mod_halted s c _
@[simp] theorem checkpoint_powered (s : State) (c : Fin 4) : (s.checkpoint c).powered = s.powered := mod_powered s c _
@[simp] theorem checkpoint_rollback (s : State) (c : Fin 4) : (s.checkpoint c).rollback = s.rollback := mod_rollback s c _
@[simp] theorem checkpoint_image (s : State) (c : Fin 4) : (s.checkpoint c).image = s.image := mod_image s c _
@[simp] theorem checkpoint_keyHash (s : State) (c : Fin 4) : (s.checkpoint c).keyHash = s.keyHash := mod_keyHash s c _
@[simp] theorem checkpoint_loaded (s : State) (c : Fin 4) : (s.checkpoint c).loaded = s.loaded := mod_loaded s c _
@[simp] theorem checkpoint_tests (s : State) (c : Fin 4) : (s.checkpoint c).tests = s.tests := mod_tests s c _
@[simp] theorem checkpoint_spares (s : State) (c : Fin 4) : (s.checkpoint c).spares = s.spares := mod_spares s c _
@[simp] theorem checkpoint_reported (s : State) (c : Fin 4) : (s.checkpoint c).reported = s.reported := mod_reported s c _
@[simp] theorem checkpoint_retiredUnits (s : State) (c : Fin 4) : (s.checkpoint c).retiredUnits = s.retiredUnits := mod_retiredUnits s c _
@[simp] theorem checkpoint_refAcc (s : State) (c : Fin 4) : (s.checkpoint c).refAcc = s.refAcc := mod_refAcc s c _
@[simp] theorem checkpoint_refAt (s : State) (c : Fin 4) : (s.checkpoint c).refAt = s.refAt := mod_refAt s c _
@[simp] theorem checkpoint_owed (s : State) (c : Fin 4) : (s.checkpoint c).owed = s.owed := mod_owed s c _
@[simp] theorem checkpoint_refDiv (s : State) (c : Fin 4) : (s.checkpoint c).refDiv = s.refDiv := mod_refDiv s c _
@[simp] theorem checkpoint_bad (s : State) (c : Fin 4) : (s.checkpoint c).bad = s.bad := mod_bad s c _
@[simp] theorem checkpoint_corrected (s : State) (c : Fin 4) : (s.checkpoint c).corrected = s.corrected := mod_corrected s c _
@[simp] theorem checkpoint_evalAt (s : State) (c : Fin 4) : (s.checkpoint c).evalAt = s.evalAt := mod_evalAt s c _
@[simp] theorem checkpoint_critSeen (s : State) (c : Fin 4) : (s.checkpoint c).critSeen = s.critSeen := mod_critSeen s c _
@[simp] theorem checkpoint_power (s : State) (c : Fin 4) : (s.checkpoint c).power = s.power := mod_power s c _
@[simp] theorem checkpoint_lostPkgs (s : State) (c : Fin 4) : (s.checkpoint c).lostPkgs = s.lostPkgs := mod_lostPkgs s c _
@[simp] theorem checkpoint_lostPaths (s : State) (c : Fin 4) : (s.checkpoint c).lostPaths = s.lostPaths := mod_lostPaths s c _
@[simp] theorem checkpoint_routes (s : State) (c : Fin 4) : (s.checkpoint c).routes = s.routes := mod_routes s c _
@[simp] theorem checkpoint_hart (s : State) (c : Fin 4) : (s.checkpoint c).hart = s.hart := mod_hart s c _
@[simp] theorem checkpoint_hartNo (s : State) (c : Fin 4) : (s.checkpoint c).hartNo = s.hartNo := mod_hartNo s c _
@[simp] theorem checkpoint_harts (s : State) (c : Fin 4) : (s.checkpoint c).harts = s.harts := mod_harts s c _
@[simp] theorem checkpoint_invalPos (s : State) (c : Fin 4) : (s.checkpoint c).invalPos = s.invalPos := mod_invalPos s c _
@[simp] theorem checkpoint_iqSlots (s : State) (c : Fin 4) : (s.checkpoint c).iqSlots = s.iqSlots := mod_iqSlots s c _
@[simp] theorem checkpoint_iqCmd (s : State) (c : Fin 4) : (s.checkpoint c).iqCmd = s.iqCmd := mod_iqCmd s c _
@[simp] theorem checkpoint_report (s : State) (c : Fin 4) : (s.checkpoint c).report = s.report := mod_report s c _
@[simp] theorem checkpoint_diverged (s : State) (c : Fin 4) : (s.checkpoint c).diverged = s.diverged := mod_diverged s c _
@[simp] theorem checkpoint_hostIn (s : State) (c : Fin 4) : (s.checkpoint c).hostIn = s.hostIn := mod_hostIn s c _
@[simp] theorem checkpoint_msix (s : State) (c : Fin 4) : (s.checkpoint c).msix = s.msix := mod_msix s c _
@[simp] theorem checkpoint_syscoord (s : State) (c : Fin 4) : (s.checkpoint c).syscoord = s.syscoord := mod_syscoord s c _
@[simp] theorem checkpoint_agenda (s : State) (c : Fin 4) : (s.checkpoint c).agenda = s.agenda := mod_agenda s c _
@[simp] theorem checkpoint_turn (s : State) (c : Fin 4) : (s.checkpoint c).turn = s.turn := mod_turn s c _
@[simp] theorem checkpoint_inbox (s : State) (c : Fin 4) : (s.checkpoint c).inbox = s.inbox := mod_inbox s c _
@[simp] theorem checkpoint_choices (s : State) (c : Fin 4) : (s.checkpoint c).choices = s.choices := mod_choices s c _
@[simp] theorem checkpoint_times (s : State) (c : Fin 4) : (s.checkpoint c).times = s.times := mod_times s c _

@[simp] theorem checkpoint_ctx (s : State) (c : Fin 4) : (s.checkpoint c).ctx c =
    Context.checkpoint { s.ctx c with cmds := (s.ctx c).cmds.map (Cmd.commitSrc s c) } := mod_ctx_same s c _


@[simp] theorem trapRestore_away (s : State) (c : Fin 4) : (s.trapRestore c).away = s.away := mod_away _ c _
@[simp] theorem trapRestore_cur (s : State) (c : Fin 4) : (s.trapRestore c).cur = s.cur := mod_cur _ c _
@[simp] theorem trapRestore_casc (s : State) (c : Fin 4) : (s.trapRestore c).casc = s.casc := mod_casc _ c _
@[simp] theorem trapRestore_sp (s : State) (c : Fin 4) : (s.trapRestore c).sp = s.sp := mod_sp _ c _
@[simp] theorem trapRestore_tiles (s : State) (c : Fin 4) : (s.trapRestore c).tiles = s.tiles := mod_tiles _ c _
@[simp] theorem trapRestore_semVal (s : State) (c : Fin 4) : (s.trapRestore c).semVal = s.semVal := mod_semVal _ c _
@[simp] theorem trapRestore_semLatch (s : State) (c : Fin 4) : (s.trapRestore c).semLatch = s.semLatch := mod_semLatch _ c _
@[simp] theorem trapRestore_semCode (s : State) (c : Fin 4) : (s.trapRestore c).semCode = s.semCode := mod_semCode _ c _
@[simp] theorem trapRestore_hasps (s : State) (c : Fin 4) : (s.trapRestore c).hasps = s.hasps := mod_hasps _ c _
@[simp] theorem trapRestore_mu (s : State) (c : Fin 4) : (s.trapRestore c).mu = s.mu := mod_mu _ c _
@[simp] theorem trapRestore_ep (s : State) (c : Fin 4) : (s.trapRestore c).ep = s.ep := mod_ep _ c _
@[simp] theorem trapRestore_scaleCache (s : State) (c : Fin 4) : (s.trapRestore c).scaleCache = s.scaleCache := mod_scaleCache _ c _
@[simp] theorem trapRestore_run (s : State) (c : Fin 4) : (s.trapRestore c).run = s.run := mod_run _ c _
@[simp] theorem trapRestore_lastCallCtx (s : State) (c : Fin 4) : (s.trapRestore c).lastCallCtx = s.lastCallCtx := mod_lastCallCtx _ c _
@[simp] theorem trapRestore_collTurn (s : State) (c : Fin 4) : (s.trapRestore c).collTurn = s.collTurn := mod_collTurn _ c _
@[simp] theorem trapRestore_wire (s : State) (c : Fin 4) : (s.trapRestore c).wire = s.wire := mod_wire _ c _
@[simp] theorem trapRestore_bankQ (s : State) (c : Fin 4) : (s.trapRestore c).bankQ = s.bankQ := mod_bankQ _ c _
@[simp] theorem trapRestore_bankCycle (s : State) (c : Fin 4) : (s.trapRestore c).bankCycle = s.bankCycle := mod_bankCycle _ c _
@[simp] theorem trapRestore_mem (s : State) (c : Fin 4) : (s.trapRestore c).mem = s.mem := mod_mem _ c _
@[simp] theorem trapRestore_wrote (s : State) (c : Fin 4) : (s.trapRestore c).wrote = s.wrote := mod_wrote _ c _
@[simp] theorem trapRestore_hostMem (s : State) (c : Fin 4) : (s.trapRestore c).hostMem = s.hostMem := mod_hostMem _ c _
@[simp] theorem trapRestore_stCore (s : State) (c : Fin 4) : (s.trapRestore c).stCore = s.stCore := mod_stCore _ c _
@[simp] theorem trapRestore_stCluster (s : State) (c : Fin 4) : (s.trapRestore c).stCluster = s.stCluster := mod_stCluster _ c _
@[simp] theorem trapRestore_stDie (s : State) (c : Fin 4) : (s.trapRestore c).stDie = s.stDie := mod_stDie _ c _
@[simp] theorem trapRestore_homeQ (s : State) (c : Fin 4) : (s.trapRestore c).homeQ = s.homeQ := mod_homeQ _ c _
@[simp] theorem trapRestore_nextHome (s : State) (c : Fin 4) : (s.trapRestore c).nextHome = s.nextHome := mod_nextHome _ c _
@[simp] theorem trapRestore_pkgTumbler (s : State) (c : Fin 4) : (s.trapRestore c).pkgTumbler = s.pkgTumbler := mod_pkgTumbler _ c _
@[simp] theorem trapRestore_domTumbler (s : State) (c : Fin 4) : (s.trapRestore c).domTumbler = s.domTumbler := mod_domTumbler _ c _
@[simp] theorem trapRestore_srPos (s : State) (c : Fin 4) : (s.trapRestore c).srPos = s.srPos := mod_srPos _ c _
@[simp] theorem trapRestore_tlb (s : State) (c : Fin 4) : (s.trapRestore c).tlb = s.tlb := mod_tlb _ c _
@[simp] theorem trapRestore_tlbOld (s : State) (c : Fin 4) : (s.trapRestore c).tlbOld = s.tlbOld := mod_tlbOld _ c _
@[simp] theorem trapRestore_invals (s : State) (c : Fin 4) : (s.trapRestore c).invals = s.invals := mod_invals _ c _
@[simp] theorem trapRestore_mreg (s : State) (c : Fin 4) : (s.trapRestore c).mreg = s.mreg := mod_mreg _ c _
@[simp] theorem trapRestore_launches (s : State) (c : Fin 4) : (s.trapRestore c).launches = s.launches := mod_launches _ c _
@[simp] theorem trapRestore_sched (s : State) (c : Fin 4) : (s.trapRestore c).sched = s.sched := mod_sched _ c _
@[simp] theorem trapRestore_groups (s : State) (c : Fin 4) : (s.trapRestore c).groups = s.groups := mod_groups _ c _
@[simp] theorem trapRestore_fused (s : State) (c : Fin 4) : (s.trapRestore c).fused = s.fused := mod_fused _ c _
@[simp] theorem trapRestore_gtb (s : State) (c : Fin 4) : (s.trapRestore c).gtb = s.gtb := mod_gtb _ c _
@[simp] theorem trapRestore_booted (s : State) (c : Fin 4) : (s.trapRestore c).booted = s.booted := mod_booted _ c _
@[simp] theorem trapRestore_halted (s : State) (c : Fin 4) : (s.trapRestore c).halted = s.halted := mod_halted _ c _
@[simp] theorem trapRestore_powered (s : State) (c : Fin 4) : (s.trapRestore c).powered = s.powered := mod_powered _ c _
@[simp] theorem trapRestore_rollback (s : State) (c : Fin 4) : (s.trapRestore c).rollback = s.rollback := mod_rollback _ c _
@[simp] theorem trapRestore_image (s : State) (c : Fin 4) : (s.trapRestore c).image = s.image := mod_image _ c _
@[simp] theorem trapRestore_keyHash (s : State) (c : Fin 4) : (s.trapRestore c).keyHash = s.keyHash := mod_keyHash _ c _
@[simp] theorem trapRestore_loaded (s : State) (c : Fin 4) : (s.trapRestore c).loaded = s.loaded := mod_loaded _ c _
@[simp] theorem trapRestore_tests (s : State) (c : Fin 4) : (s.trapRestore c).tests = s.tests := mod_tests _ c _
@[simp] theorem trapRestore_spares (s : State) (c : Fin 4) : (s.trapRestore c).spares = s.spares := mod_spares _ c _
@[simp] theorem trapRestore_reported (s : State) (c : Fin 4) : (s.trapRestore c).reported = s.reported := mod_reported _ c _
@[simp] theorem trapRestore_retiredUnits (s : State) (c : Fin 4) : (s.trapRestore c).retiredUnits = s.retiredUnits := mod_retiredUnits _ c _
@[simp] theorem trapRestore_refAcc (s : State) (c : Fin 4) : (s.trapRestore c).refAcc = s.refAcc := mod_refAcc _ c _
@[simp] theorem trapRestore_refAt (s : State) (c : Fin 4) : (s.trapRestore c).refAt = s.refAt := mod_refAt _ c _
@[simp] theorem trapRestore_owed (s : State) (c : Fin 4) : (s.trapRestore c).owed = s.owed := mod_owed _ c _
@[simp] theorem trapRestore_refDiv (s : State) (c : Fin 4) : (s.trapRestore c).refDiv = s.refDiv := mod_refDiv _ c _
@[simp] theorem trapRestore_bad (s : State) (c : Fin 4) : (s.trapRestore c).bad = s.bad := mod_bad _ c _
@[simp] theorem trapRestore_corrected (s : State) (c : Fin 4) : (s.trapRestore c).corrected = s.corrected := mod_corrected _ c _
@[simp] theorem trapRestore_evalAt (s : State) (c : Fin 4) : (s.trapRestore c).evalAt = s.evalAt := mod_evalAt _ c _
@[simp] theorem trapRestore_critSeen (s : State) (c : Fin 4) : (s.trapRestore c).critSeen = s.critSeen := mod_critSeen _ c _
@[simp] theorem trapRestore_power (s : State) (c : Fin 4) : (s.trapRestore c).power = s.power := mod_power _ c _
@[simp] theorem trapRestore_lostPkgs (s : State) (c : Fin 4) : (s.trapRestore c).lostPkgs = s.lostPkgs := mod_lostPkgs _ c _
@[simp] theorem trapRestore_lostPaths (s : State) (c : Fin 4) : (s.trapRestore c).lostPaths = s.lostPaths := mod_lostPaths _ c _
@[simp] theorem trapRestore_routes (s : State) (c : Fin 4) : (s.trapRestore c).routes = s.routes := mod_routes _ c _
@[simp] theorem trapRestore_hart (s : State) (c : Fin 4) : (s.trapRestore c).hart = s.hart := mod_hart _ c _
@[simp] theorem trapRestore_hartNo (s : State) (c : Fin 4) : (s.trapRestore c).hartNo = s.hartNo := mod_hartNo _ c _
@[simp] theorem trapRestore_harts (s : State) (c : Fin 4) : (s.trapRestore c).harts = s.harts := mod_harts _ c _
@[simp] theorem trapRestore_invalPos (s : State) (c : Fin 4) : (s.trapRestore c).invalPos = s.invalPos := mod_invalPos _ c _
@[simp] theorem trapRestore_iqSlots (s : State) (c : Fin 4) : (s.trapRestore c).iqSlots = s.iqSlots := mod_iqSlots _ c _
@[simp] theorem trapRestore_iqCmd (s : State) (c : Fin 4) : (s.trapRestore c).iqCmd = s.iqCmd := mod_iqCmd _ c _
@[simp] theorem trapRestore_report (s : State) (c : Fin 4) : (s.trapRestore c).report = s.report := mod_report _ c _
@[simp] theorem trapRestore_diverged (s : State) (c : Fin 4) : (s.trapRestore c).diverged = s.diverged := mod_diverged _ c _
@[simp] theorem trapRestore_hostIn (s : State) (c : Fin 4) : (s.trapRestore c).hostIn = s.hostIn := mod_hostIn _ c _
@[simp] theorem trapRestore_msix (s : State) (c : Fin 4) : (s.trapRestore c).msix = s.msix := mod_msix _ c _
@[simp] theorem trapRestore_syscoord (s : State) (c : Fin 4) : (s.trapRestore c).syscoord = s.syscoord := mod_syscoord _ c _
@[simp] theorem trapRestore_agenda (s : State) (c : Fin 4) : (s.trapRestore c).agenda = s.agenda := mod_agenda _ c _
@[simp] theorem trapRestore_turn (s : State) (c : Fin 4) : (s.trapRestore c).turn = s.turn := mod_turn _ c _
@[simp] theorem trapRestore_inbox (s : State) (c : Fin 4) : (s.trapRestore c).inbox = s.inbox := mod_inbox _ c _
@[simp] theorem trapRestore_choices (s : State) (c : Fin 4) : (s.trapRestore c).choices = s.choices := mod_choices _ c _
@[simp] theorem trapRestore_times (s : State) (c : Fin 4) : (s.trapRestore c).times = s.times := mod_times _ c _
@[simp] theorem trapRestore_acc (s : State) (c : Fin 4) : (s.trapRestore c).acc = s.acc.putAll (s.ctx c).accUndo := mod_acc _ c _
@[simp] theorem trapRestore_ctx (s : State) (c : Fin 4) : (s.trapRestore c).ctx c = (s.ctx c).restore :=
  match c with | 0 => rfl | 1 => rfl | 2 => rfl | 3 => rfl

/-! ### Updates of one table of the machine -/

@[simp] theorem modLaunch_away (s : State) (lid : BitVec 32) (f : Launch → Launch) : (s.modLaunch lid f).away = s.away := rfl
@[simp] theorem modLaunch_cur (s : State) (lid : BitVec 32) (f : Launch → Launch) : (s.modLaunch lid f).cur = s.cur := rfl
@[simp] theorem modLaunch_casc (s : State) (lid : BitVec 32) (f : Launch → Launch) : (s.modLaunch lid f).casc = s.casc := rfl
@[simp] theorem modLaunch_sp (s : State) (lid : BitVec 32) (f : Launch → Launch) : (s.modLaunch lid f).sp = s.sp := rfl
@[simp] theorem modLaunch_tiles (s : State) (lid : BitVec 32) (f : Launch → Launch) : (s.modLaunch lid f).tiles = s.tiles := rfl
@[simp] theorem modLaunch_semVal (s : State) (lid : BitVec 32) (f : Launch → Launch) : (s.modLaunch lid f).semVal = s.semVal := rfl
@[simp] theorem modLaunch_semLatch (s : State) (lid : BitVec 32) (f : Launch → Launch) : (s.modLaunch lid f).semLatch = s.semLatch := rfl
@[simp] theorem modLaunch_semCode (s : State) (lid : BitVec 32) (f : Launch → Launch) : (s.modLaunch lid f).semCode = s.semCode := rfl
@[simp] theorem modLaunch_hasps (s : State) (lid : BitVec 32) (f : Launch → Launch) : (s.modLaunch lid f).hasps = s.hasps := rfl
@[simp] theorem modLaunch_acc (s : State) (lid : BitVec 32) (f : Launch → Launch) : (s.modLaunch lid f).acc = s.acc := rfl
@[simp] theorem modLaunch_mu (s : State) (lid : BitVec 32) (f : Launch → Launch) : (s.modLaunch lid f).mu = s.mu := rfl
@[simp] theorem modLaunch_ep (s : State) (lid : BitVec 32) (f : Launch → Launch) : (s.modLaunch lid f).ep = s.ep := rfl
@[simp] theorem modLaunch_scaleCache (s : State) (lid : BitVec 32) (f : Launch → Launch) : (s.modLaunch lid f).scaleCache = s.scaleCache := rfl
@[simp] theorem modLaunch_run (s : State) (lid : BitVec 32) (f : Launch → Launch) : (s.modLaunch lid f).run = s.run := rfl
@[simp] theorem modLaunch_lastCallCtx (s : State) (lid : BitVec 32) (f : Launch → Launch) : (s.modLaunch lid f).lastCallCtx = s.lastCallCtx := rfl
@[simp] theorem modLaunch_collTurn (s : State) (lid : BitVec 32) (f : Launch → Launch) : (s.modLaunch lid f).collTurn = s.collTurn := rfl
@[simp] theorem modLaunch_wire (s : State) (lid : BitVec 32) (f : Launch → Launch) : (s.modLaunch lid f).wire = s.wire := rfl
@[simp] theorem modLaunch_bankQ (s : State) (lid : BitVec 32) (f : Launch → Launch) : (s.modLaunch lid f).bankQ = s.bankQ := rfl
@[simp] theorem modLaunch_bankCycle (s : State) (lid : BitVec 32) (f : Launch → Launch) : (s.modLaunch lid f).bankCycle = s.bankCycle := rfl
@[simp] theorem modLaunch_mem (s : State) (lid : BitVec 32) (f : Launch → Launch) : (s.modLaunch lid f).mem = s.mem := rfl
@[simp] theorem modLaunch_wrote (s : State) (lid : BitVec 32) (f : Launch → Launch) : (s.modLaunch lid f).wrote = s.wrote := rfl
@[simp] theorem modLaunch_hostMem (s : State) (lid : BitVec 32) (f : Launch → Launch) : (s.modLaunch lid f).hostMem = s.hostMem := rfl
@[simp] theorem modLaunch_stCore (s : State) (lid : BitVec 32) (f : Launch → Launch) : (s.modLaunch lid f).stCore = s.stCore := rfl
@[simp] theorem modLaunch_stCluster (s : State) (lid : BitVec 32) (f : Launch → Launch) : (s.modLaunch lid f).stCluster = s.stCluster := rfl
@[simp] theorem modLaunch_stDie (s : State) (lid : BitVec 32) (f : Launch → Launch) : (s.modLaunch lid f).stDie = s.stDie := rfl
@[simp] theorem modLaunch_homeQ (s : State) (lid : BitVec 32) (f : Launch → Launch) : (s.modLaunch lid f).homeQ = s.homeQ := rfl
@[simp] theorem modLaunch_nextHome (s : State) (lid : BitVec 32) (f : Launch → Launch) : (s.modLaunch lid f).nextHome = s.nextHome := rfl
@[simp] theorem modLaunch_pkgTumbler (s : State) (lid : BitVec 32) (f : Launch → Launch) : (s.modLaunch lid f).pkgTumbler = s.pkgTumbler := rfl
@[simp] theorem modLaunch_domTumbler (s : State) (lid : BitVec 32) (f : Launch → Launch) : (s.modLaunch lid f).domTumbler = s.domTumbler := rfl
@[simp] theorem modLaunch_srPos (s : State) (lid : BitVec 32) (f : Launch → Launch) : (s.modLaunch lid f).srPos = s.srPos := rfl
@[simp] theorem modLaunch_tlb (s : State) (lid : BitVec 32) (f : Launch → Launch) : (s.modLaunch lid f).tlb = s.tlb := rfl
@[simp] theorem modLaunch_tlbOld (s : State) (lid : BitVec 32) (f : Launch → Launch) : (s.modLaunch lid f).tlbOld = s.tlbOld := rfl
@[simp] theorem modLaunch_invals (s : State) (lid : BitVec 32) (f : Launch → Launch) : (s.modLaunch lid f).invals = s.invals := rfl
@[simp] theorem modLaunch_mreg (s : State) (lid : BitVec 32) (f : Launch → Launch) : (s.modLaunch lid f).mreg = s.mreg := rfl
@[simp] theorem modLaunch_sched (s : State) (lid : BitVec 32) (f : Launch → Launch) : (s.modLaunch lid f).sched = s.sched := rfl
@[simp] theorem modLaunch_groups (s : State) (lid : BitVec 32) (f : Launch → Launch) : (s.modLaunch lid f).groups = s.groups := rfl
@[simp] theorem modLaunch_fused (s : State) (lid : BitVec 32) (f : Launch → Launch) : (s.modLaunch lid f).fused = s.fused := rfl
@[simp] theorem modLaunch_gtb (s : State) (lid : BitVec 32) (f : Launch → Launch) : (s.modLaunch lid f).gtb = s.gtb := rfl
@[simp] theorem modLaunch_booted (s : State) (lid : BitVec 32) (f : Launch → Launch) : (s.modLaunch lid f).booted = s.booted := rfl
@[simp] theorem modLaunch_halted (s : State) (lid : BitVec 32) (f : Launch → Launch) : (s.modLaunch lid f).halted = s.halted := rfl
@[simp] theorem modLaunch_powered (s : State) (lid : BitVec 32) (f : Launch → Launch) : (s.modLaunch lid f).powered = s.powered := rfl
@[simp] theorem modLaunch_rollback (s : State) (lid : BitVec 32) (f : Launch → Launch) : (s.modLaunch lid f).rollback = s.rollback := rfl
@[simp] theorem modLaunch_image (s : State) (lid : BitVec 32) (f : Launch → Launch) : (s.modLaunch lid f).image = s.image := rfl
@[simp] theorem modLaunch_keyHash (s : State) (lid : BitVec 32) (f : Launch → Launch) : (s.modLaunch lid f).keyHash = s.keyHash := rfl
@[simp] theorem modLaunch_loaded (s : State) (lid : BitVec 32) (f : Launch → Launch) : (s.modLaunch lid f).loaded = s.loaded := rfl
@[simp] theorem modLaunch_tests (s : State) (lid : BitVec 32) (f : Launch → Launch) : (s.modLaunch lid f).tests = s.tests := rfl
@[simp] theorem modLaunch_spares (s : State) (lid : BitVec 32) (f : Launch → Launch) : (s.modLaunch lid f).spares = s.spares := rfl
@[simp] theorem modLaunch_reported (s : State) (lid : BitVec 32) (f : Launch → Launch) : (s.modLaunch lid f).reported = s.reported := rfl
@[simp] theorem modLaunch_retiredUnits (s : State) (lid : BitVec 32) (f : Launch → Launch) : (s.modLaunch lid f).retiredUnits = s.retiredUnits := rfl
@[simp] theorem modLaunch_refAcc (s : State) (lid : BitVec 32) (f : Launch → Launch) : (s.modLaunch lid f).refAcc = s.refAcc := rfl
@[simp] theorem modLaunch_refAt (s : State) (lid : BitVec 32) (f : Launch → Launch) : (s.modLaunch lid f).refAt = s.refAt := rfl
@[simp] theorem modLaunch_owed (s : State) (lid : BitVec 32) (f : Launch → Launch) : (s.modLaunch lid f).owed = s.owed := rfl
@[simp] theorem modLaunch_refDiv (s : State) (lid : BitVec 32) (f : Launch → Launch) : (s.modLaunch lid f).refDiv = s.refDiv := rfl
@[simp] theorem modLaunch_bad (s : State) (lid : BitVec 32) (f : Launch → Launch) : (s.modLaunch lid f).bad = s.bad := rfl
@[simp] theorem modLaunch_corrected (s : State) (lid : BitVec 32) (f : Launch → Launch) : (s.modLaunch lid f).corrected = s.corrected := rfl
@[simp] theorem modLaunch_evalAt (s : State) (lid : BitVec 32) (f : Launch → Launch) : (s.modLaunch lid f).evalAt = s.evalAt := rfl
@[simp] theorem modLaunch_critSeen (s : State) (lid : BitVec 32) (f : Launch → Launch) : (s.modLaunch lid f).critSeen = s.critSeen := rfl
@[simp] theorem modLaunch_power (s : State) (lid : BitVec 32) (f : Launch → Launch) : (s.modLaunch lid f).power = s.power := rfl
@[simp] theorem modLaunch_lostPkgs (s : State) (lid : BitVec 32) (f : Launch → Launch) : (s.modLaunch lid f).lostPkgs = s.lostPkgs := rfl
@[simp] theorem modLaunch_lostPaths (s : State) (lid : BitVec 32) (f : Launch → Launch) : (s.modLaunch lid f).lostPaths = s.lostPaths := rfl
@[simp] theorem modLaunch_routes (s : State) (lid : BitVec 32) (f : Launch → Launch) : (s.modLaunch lid f).routes = s.routes := rfl
@[simp] theorem modLaunch_hart (s : State) (lid : BitVec 32) (f : Launch → Launch) : (s.modLaunch lid f).hart = s.hart := rfl
@[simp] theorem modLaunch_hartNo (s : State) (lid : BitVec 32) (f : Launch → Launch) : (s.modLaunch lid f).hartNo = s.hartNo := rfl
@[simp] theorem modLaunch_harts (s : State) (lid : BitVec 32) (f : Launch → Launch) : (s.modLaunch lid f).harts = s.harts := rfl
@[simp] theorem modLaunch_invalPos (s : State) (lid : BitVec 32) (f : Launch → Launch) : (s.modLaunch lid f).invalPos = s.invalPos := rfl
@[simp] theorem modLaunch_iqSlots (s : State) (lid : BitVec 32) (f : Launch → Launch) : (s.modLaunch lid f).iqSlots = s.iqSlots := rfl
@[simp] theorem modLaunch_iqCmd (s : State) (lid : BitVec 32) (f : Launch → Launch) : (s.modLaunch lid f).iqCmd = s.iqCmd := rfl
@[simp] theorem modLaunch_report (s : State) (lid : BitVec 32) (f : Launch → Launch) : (s.modLaunch lid f).report = s.report := rfl
@[simp] theorem modLaunch_diverged (s : State) (lid : BitVec 32) (f : Launch → Launch) : (s.modLaunch lid f).diverged = s.diverged := rfl
@[simp] theorem modLaunch_hostIn (s : State) (lid : BitVec 32) (f : Launch → Launch) : (s.modLaunch lid f).hostIn = s.hostIn := rfl
@[simp] theorem modLaunch_msix (s : State) (lid : BitVec 32) (f : Launch → Launch) : (s.modLaunch lid f).msix = s.msix := rfl
@[simp] theorem modLaunch_syscoord (s : State) (lid : BitVec 32) (f : Launch → Launch) : (s.modLaunch lid f).syscoord = s.syscoord := rfl
@[simp] theorem modLaunch_agenda (s : State) (lid : BitVec 32) (f : Launch → Launch) : (s.modLaunch lid f).agenda = s.agenda := rfl
@[simp] theorem modLaunch_turn (s : State) (lid : BitVec 32) (f : Launch → Launch) : (s.modLaunch lid f).turn = s.turn := rfl
@[simp] theorem modLaunch_inbox (s : State) (lid : BitVec 32) (f : Launch → Launch) : (s.modLaunch lid f).inbox = s.inbox := rfl
@[simp] theorem modLaunch_choices (s : State) (lid : BitVec 32) (f : Launch → Launch) : (s.modLaunch lid f).choices = s.choices := rfl
@[simp] theorem modLaunch_times (s : State) (lid : BitVec 32) (f : Launch → Launch) : (s.modLaunch lid f).times = s.times := rfl
@[simp] theorem modLaunch_ctx (s : State) (lid : BitVec 32) (f : Launch → Launch) (d : Fin 4) : (s.modLaunch lid f).ctx d = s.ctx d :=
  match d with | 0 => rfl | 1 => rfl | 2 => rfl | 3 => rfl

/-! ###  -/

@[simp] theorem setTile_away (s : State) (k : Nat) (t : Tile) : (s.setTile k t).away = s.away := rfl
@[simp] theorem setTile_cur (s : State) (k : Nat) (t : Tile) : (s.setTile k t).cur = s.cur := rfl
@[simp] theorem setTile_casc (s : State) (k : Nat) (t : Tile) : (s.setTile k t).casc = s.casc := rfl
@[simp] theorem setTile_sp (s : State) (k : Nat) (t : Tile) : (s.setTile k t).sp = s.sp := rfl
@[simp] theorem setTile_semVal (s : State) (k : Nat) (t : Tile) : (s.setTile k t).semVal = s.semVal := rfl
@[simp] theorem setTile_semLatch (s : State) (k : Nat) (t : Tile) : (s.setTile k t).semLatch = s.semLatch := rfl
@[simp] theorem setTile_semCode (s : State) (k : Nat) (t : Tile) : (s.setTile k t).semCode = s.semCode := rfl
@[simp] theorem setTile_hasps (s : State) (k : Nat) (t : Tile) : (s.setTile k t).hasps = s.hasps := rfl
@[simp] theorem setTile_acc (s : State) (k : Nat) (t : Tile) : (s.setTile k t).acc = s.acc := rfl
@[simp] theorem setTile_mu (s : State) (k : Nat) (t : Tile) : (s.setTile k t).mu = s.mu := rfl
@[simp] theorem setTile_ep (s : State) (k : Nat) (t : Tile) : (s.setTile k t).ep = s.ep := rfl
@[simp] theorem setTile_scaleCache (s : State) (k : Nat) (t : Tile) : (s.setTile k t).scaleCache = s.scaleCache := rfl
@[simp] theorem setTile_run (s : State) (k : Nat) (t : Tile) : (s.setTile k t).run = s.run := rfl
@[simp] theorem setTile_lastCallCtx (s : State) (k : Nat) (t : Tile) : (s.setTile k t).lastCallCtx = s.lastCallCtx := rfl
@[simp] theorem setTile_collTurn (s : State) (k : Nat) (t : Tile) : (s.setTile k t).collTurn = s.collTurn := rfl
@[simp] theorem setTile_wire (s : State) (k : Nat) (t : Tile) : (s.setTile k t).wire = s.wire := rfl
@[simp] theorem setTile_bankQ (s : State) (k : Nat) (t : Tile) : (s.setTile k t).bankQ = s.bankQ := rfl
@[simp] theorem setTile_bankCycle (s : State) (k : Nat) (t : Tile) : (s.setTile k t).bankCycle = s.bankCycle := rfl
@[simp] theorem setTile_mem (s : State) (k : Nat) (t : Tile) : (s.setTile k t).mem = s.mem := rfl
@[simp] theorem setTile_wrote (s : State) (k : Nat) (t : Tile) : (s.setTile k t).wrote = s.wrote := rfl
@[simp] theorem setTile_hostMem (s : State) (k : Nat) (t : Tile) : (s.setTile k t).hostMem = s.hostMem := rfl
@[simp] theorem setTile_stCore (s : State) (k : Nat) (t : Tile) : (s.setTile k t).stCore = s.stCore := rfl
@[simp] theorem setTile_stCluster (s : State) (k : Nat) (t : Tile) : (s.setTile k t).stCluster = s.stCluster := rfl
@[simp] theorem setTile_stDie (s : State) (k : Nat) (t : Tile) : (s.setTile k t).stDie = s.stDie := rfl
@[simp] theorem setTile_homeQ (s : State) (k : Nat) (t : Tile) : (s.setTile k t).homeQ = s.homeQ := rfl
@[simp] theorem setTile_nextHome (s : State) (k : Nat) (t : Tile) : (s.setTile k t).nextHome = s.nextHome := rfl
@[simp] theorem setTile_pkgTumbler (s : State) (k : Nat) (t : Tile) : (s.setTile k t).pkgTumbler = s.pkgTumbler := rfl
@[simp] theorem setTile_domTumbler (s : State) (k : Nat) (t : Tile) : (s.setTile k t).domTumbler = s.domTumbler := rfl
@[simp] theorem setTile_srPos (s : State) (k : Nat) (t : Tile) : (s.setTile k t).srPos = s.srPos := rfl
@[simp] theorem setTile_tlb (s : State) (k : Nat) (t : Tile) : (s.setTile k t).tlb = s.tlb := rfl
@[simp] theorem setTile_tlbOld (s : State) (k : Nat) (t : Tile) : (s.setTile k t).tlbOld = s.tlbOld := rfl
@[simp] theorem setTile_invals (s : State) (k : Nat) (t : Tile) : (s.setTile k t).invals = s.invals := rfl
@[simp] theorem setTile_mreg (s : State) (k : Nat) (t : Tile) : (s.setTile k t).mreg = s.mreg := rfl
@[simp] theorem setTile_launches (s : State) (k : Nat) (t : Tile) : (s.setTile k t).launches = s.launches := rfl
@[simp] theorem setTile_sched (s : State) (k : Nat) (t : Tile) : (s.setTile k t).sched = s.sched := rfl
@[simp] theorem setTile_groups (s : State) (k : Nat) (t : Tile) : (s.setTile k t).groups = s.groups := rfl
@[simp] theorem setTile_fused (s : State) (k : Nat) (t : Tile) : (s.setTile k t).fused = s.fused := rfl
@[simp] theorem setTile_gtb (s : State) (k : Nat) (t : Tile) : (s.setTile k t).gtb = s.gtb := rfl
@[simp] theorem setTile_booted (s : State) (k : Nat) (t : Tile) : (s.setTile k t).booted = s.booted := rfl
@[simp] theorem setTile_halted (s : State) (k : Nat) (t : Tile) : (s.setTile k t).halted = s.halted := rfl
@[simp] theorem setTile_powered (s : State) (k : Nat) (t : Tile) : (s.setTile k t).powered = s.powered := rfl
@[simp] theorem setTile_rollback (s : State) (k : Nat) (t : Tile) : (s.setTile k t).rollback = s.rollback := rfl
@[simp] theorem setTile_image (s : State) (k : Nat) (t : Tile) : (s.setTile k t).image = s.image := rfl
@[simp] theorem setTile_keyHash (s : State) (k : Nat) (t : Tile) : (s.setTile k t).keyHash = s.keyHash := rfl
@[simp] theorem setTile_loaded (s : State) (k : Nat) (t : Tile) : (s.setTile k t).loaded = s.loaded := rfl
@[simp] theorem setTile_tests (s : State) (k : Nat) (t : Tile) : (s.setTile k t).tests = s.tests := rfl
@[simp] theorem setTile_spares (s : State) (k : Nat) (t : Tile) : (s.setTile k t).spares = s.spares := rfl
@[simp] theorem setTile_reported (s : State) (k : Nat) (t : Tile) : (s.setTile k t).reported = s.reported := rfl
@[simp] theorem setTile_retiredUnits (s : State) (k : Nat) (t : Tile) : (s.setTile k t).retiredUnits = s.retiredUnits := rfl
@[simp] theorem setTile_refAcc (s : State) (k : Nat) (t : Tile) : (s.setTile k t).refAcc = s.refAcc := rfl
@[simp] theorem setTile_refAt (s : State) (k : Nat) (t : Tile) : (s.setTile k t).refAt = s.refAt := rfl
@[simp] theorem setTile_owed (s : State) (k : Nat) (t : Tile) : (s.setTile k t).owed = s.owed := rfl
@[simp] theorem setTile_refDiv (s : State) (k : Nat) (t : Tile) : (s.setTile k t).refDiv = s.refDiv := rfl
@[simp] theorem setTile_bad (s : State) (k : Nat) (t : Tile) : (s.setTile k t).bad = s.bad := rfl
@[simp] theorem setTile_corrected (s : State) (k : Nat) (t : Tile) : (s.setTile k t).corrected = s.corrected := rfl
@[simp] theorem setTile_evalAt (s : State) (k : Nat) (t : Tile) : (s.setTile k t).evalAt = s.evalAt := rfl
@[simp] theorem setTile_critSeen (s : State) (k : Nat) (t : Tile) : (s.setTile k t).critSeen = s.critSeen := rfl
@[simp] theorem setTile_power (s : State) (k : Nat) (t : Tile) : (s.setTile k t).power = s.power := rfl
@[simp] theorem setTile_lostPkgs (s : State) (k : Nat) (t : Tile) : (s.setTile k t).lostPkgs = s.lostPkgs := rfl
@[simp] theorem setTile_lostPaths (s : State) (k : Nat) (t : Tile) : (s.setTile k t).lostPaths = s.lostPaths := rfl
@[simp] theorem setTile_routes (s : State) (k : Nat) (t : Tile) : (s.setTile k t).routes = s.routes := rfl
@[simp] theorem setTile_hart (s : State) (k : Nat) (t : Tile) : (s.setTile k t).hart = s.hart := rfl
@[simp] theorem setTile_hartNo (s : State) (k : Nat) (t : Tile) : (s.setTile k t).hartNo = s.hartNo := rfl
@[simp] theorem setTile_harts (s : State) (k : Nat) (t : Tile) : (s.setTile k t).harts = s.harts := rfl
@[simp] theorem setTile_invalPos (s : State) (k : Nat) (t : Tile) : (s.setTile k t).invalPos = s.invalPos := rfl
@[simp] theorem setTile_iqSlots (s : State) (k : Nat) (t : Tile) : (s.setTile k t).iqSlots = s.iqSlots := rfl
@[simp] theorem setTile_iqCmd (s : State) (k : Nat) (t : Tile) : (s.setTile k t).iqCmd = s.iqCmd := rfl
@[simp] theorem setTile_report (s : State) (k : Nat) (t : Tile) : (s.setTile k t).report = s.report := rfl
@[simp] theorem setTile_diverged (s : State) (k : Nat) (t : Tile) : (s.setTile k t).diverged = s.diverged := rfl
@[simp] theorem setTile_hostIn (s : State) (k : Nat) (t : Tile) : (s.setTile k t).hostIn = s.hostIn := rfl
@[simp] theorem setTile_msix (s : State) (k : Nat) (t : Tile) : (s.setTile k t).msix = s.msix := rfl
@[simp] theorem setTile_syscoord (s : State) (k : Nat) (t : Tile) : (s.setTile k t).syscoord = s.syscoord := rfl
@[simp] theorem setTile_agenda (s : State) (k : Nat) (t : Tile) : (s.setTile k t).agenda = s.agenda := rfl
@[simp] theorem setTile_turn (s : State) (k : Nat) (t : Tile) : (s.setTile k t).turn = s.turn := rfl
@[simp] theorem setTile_inbox (s : State) (k : Nat) (t : Tile) : (s.setTile k t).inbox = s.inbox := rfl
@[simp] theorem setTile_choices (s : State) (k : Nat) (t : Tile) : (s.setTile k t).choices = s.choices := rfl
@[simp] theorem setTile_times (s : State) (k : Nat) (t : Tile) : (s.setTile k t).times = s.times := rfl
@[simp] theorem setTile_ctx (s : State) (k : Nat) (t : Tile) (d : Fin 4) : (s.setTile k t).ctx d = s.ctx d :=
  match d with | 0 => rfl | 1 => rfl | 2 => rfl | 3 => rfl

/-! ###  -/

@[simp] theorem dropScales_away (s : State) (tid : BitVec 16) : (s.dropScales tid).away = s.away := rfl
@[simp] theorem dropScales_cur (s : State) (tid : BitVec 16) : (s.dropScales tid).cur = s.cur := rfl
@[simp] theorem dropScales_casc (s : State) (tid : BitVec 16) : (s.dropScales tid).casc = s.casc := rfl
@[simp] theorem dropScales_sp (s : State) (tid : BitVec 16) : (s.dropScales tid).sp = s.sp := rfl
@[simp] theorem dropScales_tiles (s : State) (tid : BitVec 16) : (s.dropScales tid).tiles = s.tiles := rfl
@[simp] theorem dropScales_semVal (s : State) (tid : BitVec 16) : (s.dropScales tid).semVal = s.semVal := rfl
@[simp] theorem dropScales_semLatch (s : State) (tid : BitVec 16) : (s.dropScales tid).semLatch = s.semLatch := rfl
@[simp] theorem dropScales_semCode (s : State) (tid : BitVec 16) : (s.dropScales tid).semCode = s.semCode := rfl
@[simp] theorem dropScales_hasps (s : State) (tid : BitVec 16) : (s.dropScales tid).hasps = s.hasps := rfl
@[simp] theorem dropScales_acc (s : State) (tid : BitVec 16) : (s.dropScales tid).acc = s.acc := rfl
@[simp] theorem dropScales_mu (s : State) (tid : BitVec 16) : (s.dropScales tid).mu = s.mu := rfl
@[simp] theorem dropScales_ep (s : State) (tid : BitVec 16) : (s.dropScales tid).ep = s.ep := rfl
@[simp] theorem dropScales_run (s : State) (tid : BitVec 16) : (s.dropScales tid).run = s.run := rfl
@[simp] theorem dropScales_lastCallCtx (s : State) (tid : BitVec 16) : (s.dropScales tid).lastCallCtx = s.lastCallCtx := rfl
@[simp] theorem dropScales_collTurn (s : State) (tid : BitVec 16) : (s.dropScales tid).collTurn = s.collTurn := rfl
@[simp] theorem dropScales_wire (s : State) (tid : BitVec 16) : (s.dropScales tid).wire = s.wire := rfl
@[simp] theorem dropScales_bankQ (s : State) (tid : BitVec 16) : (s.dropScales tid).bankQ = s.bankQ := rfl
@[simp] theorem dropScales_bankCycle (s : State) (tid : BitVec 16) : (s.dropScales tid).bankCycle = s.bankCycle := rfl
@[simp] theorem dropScales_mem (s : State) (tid : BitVec 16) : (s.dropScales tid).mem = s.mem := rfl
@[simp] theorem dropScales_wrote (s : State) (tid : BitVec 16) : (s.dropScales tid).wrote = s.wrote := rfl
@[simp] theorem dropScales_hostMem (s : State) (tid : BitVec 16) : (s.dropScales tid).hostMem = s.hostMem := rfl
@[simp] theorem dropScales_stCore (s : State) (tid : BitVec 16) : (s.dropScales tid).stCore = s.stCore := rfl
@[simp] theorem dropScales_stCluster (s : State) (tid : BitVec 16) : (s.dropScales tid).stCluster = s.stCluster := rfl
@[simp] theorem dropScales_stDie (s : State) (tid : BitVec 16) : (s.dropScales tid).stDie = s.stDie := rfl
@[simp] theorem dropScales_homeQ (s : State) (tid : BitVec 16) : (s.dropScales tid).homeQ = s.homeQ := rfl
@[simp] theorem dropScales_nextHome (s : State) (tid : BitVec 16) : (s.dropScales tid).nextHome = s.nextHome := rfl
@[simp] theorem dropScales_pkgTumbler (s : State) (tid : BitVec 16) : (s.dropScales tid).pkgTumbler = s.pkgTumbler := rfl
@[simp] theorem dropScales_domTumbler (s : State) (tid : BitVec 16) : (s.dropScales tid).domTumbler = s.domTumbler := rfl
@[simp] theorem dropScales_srPos (s : State) (tid : BitVec 16) : (s.dropScales tid).srPos = s.srPos := rfl
@[simp] theorem dropScales_tlb (s : State) (tid : BitVec 16) : (s.dropScales tid).tlb = s.tlb := rfl
@[simp] theorem dropScales_tlbOld (s : State) (tid : BitVec 16) : (s.dropScales tid).tlbOld = s.tlbOld := rfl
@[simp] theorem dropScales_invals (s : State) (tid : BitVec 16) : (s.dropScales tid).invals = s.invals := rfl
@[simp] theorem dropScales_mreg (s : State) (tid : BitVec 16) : (s.dropScales tid).mreg = s.mreg := rfl
@[simp] theorem dropScales_launches (s : State) (tid : BitVec 16) : (s.dropScales tid).launches = s.launches := rfl
@[simp] theorem dropScales_sched (s : State) (tid : BitVec 16) : (s.dropScales tid).sched = s.sched := rfl
@[simp] theorem dropScales_groups (s : State) (tid : BitVec 16) : (s.dropScales tid).groups = s.groups := rfl
@[simp] theorem dropScales_fused (s : State) (tid : BitVec 16) : (s.dropScales tid).fused = s.fused := rfl
@[simp] theorem dropScales_gtb (s : State) (tid : BitVec 16) : (s.dropScales tid).gtb = s.gtb := rfl
@[simp] theorem dropScales_booted (s : State) (tid : BitVec 16) : (s.dropScales tid).booted = s.booted := rfl
@[simp] theorem dropScales_halted (s : State) (tid : BitVec 16) : (s.dropScales tid).halted = s.halted := rfl
@[simp] theorem dropScales_powered (s : State) (tid : BitVec 16) : (s.dropScales tid).powered = s.powered := rfl
@[simp] theorem dropScales_rollback (s : State) (tid : BitVec 16) : (s.dropScales tid).rollback = s.rollback := rfl
@[simp] theorem dropScales_image (s : State) (tid : BitVec 16) : (s.dropScales tid).image = s.image := rfl
@[simp] theorem dropScales_keyHash (s : State) (tid : BitVec 16) : (s.dropScales tid).keyHash = s.keyHash := rfl
@[simp] theorem dropScales_loaded (s : State) (tid : BitVec 16) : (s.dropScales tid).loaded = s.loaded := rfl
@[simp] theorem dropScales_tests (s : State) (tid : BitVec 16) : (s.dropScales tid).tests = s.tests := rfl
@[simp] theorem dropScales_spares (s : State) (tid : BitVec 16) : (s.dropScales tid).spares = s.spares := rfl
@[simp] theorem dropScales_reported (s : State) (tid : BitVec 16) : (s.dropScales tid).reported = s.reported := rfl
@[simp] theorem dropScales_retiredUnits (s : State) (tid : BitVec 16) : (s.dropScales tid).retiredUnits = s.retiredUnits := rfl
@[simp] theorem dropScales_refAcc (s : State) (tid : BitVec 16) : (s.dropScales tid).refAcc = s.refAcc := rfl
@[simp] theorem dropScales_refAt (s : State) (tid : BitVec 16) : (s.dropScales tid).refAt = s.refAt := rfl
@[simp] theorem dropScales_owed (s : State) (tid : BitVec 16) : (s.dropScales tid).owed = s.owed := rfl
@[simp] theorem dropScales_refDiv (s : State) (tid : BitVec 16) : (s.dropScales tid).refDiv = s.refDiv := rfl
@[simp] theorem dropScales_bad (s : State) (tid : BitVec 16) : (s.dropScales tid).bad = s.bad := rfl
@[simp] theorem dropScales_corrected (s : State) (tid : BitVec 16) : (s.dropScales tid).corrected = s.corrected := rfl
@[simp] theorem dropScales_evalAt (s : State) (tid : BitVec 16) : (s.dropScales tid).evalAt = s.evalAt := rfl
@[simp] theorem dropScales_critSeen (s : State) (tid : BitVec 16) : (s.dropScales tid).critSeen = s.critSeen := rfl
@[simp] theorem dropScales_power (s : State) (tid : BitVec 16) : (s.dropScales tid).power = s.power := rfl
@[simp] theorem dropScales_lostPkgs (s : State) (tid : BitVec 16) : (s.dropScales tid).lostPkgs = s.lostPkgs := rfl
@[simp] theorem dropScales_lostPaths (s : State) (tid : BitVec 16) : (s.dropScales tid).lostPaths = s.lostPaths := rfl
@[simp] theorem dropScales_routes (s : State) (tid : BitVec 16) : (s.dropScales tid).routes = s.routes := rfl
@[simp] theorem dropScales_hart (s : State) (tid : BitVec 16) : (s.dropScales tid).hart = s.hart := rfl
@[simp] theorem dropScales_hartNo (s : State) (tid : BitVec 16) : (s.dropScales tid).hartNo = s.hartNo := rfl
@[simp] theorem dropScales_harts (s : State) (tid : BitVec 16) : (s.dropScales tid).harts = s.harts := rfl
@[simp] theorem dropScales_invalPos (s : State) (tid : BitVec 16) : (s.dropScales tid).invalPos = s.invalPos := rfl
@[simp] theorem dropScales_iqSlots (s : State) (tid : BitVec 16) : (s.dropScales tid).iqSlots = s.iqSlots := rfl
@[simp] theorem dropScales_iqCmd (s : State) (tid : BitVec 16) : (s.dropScales tid).iqCmd = s.iqCmd := rfl
@[simp] theorem dropScales_report (s : State) (tid : BitVec 16) : (s.dropScales tid).report = s.report := rfl
@[simp] theorem dropScales_diverged (s : State) (tid : BitVec 16) : (s.dropScales tid).diverged = s.diverged := rfl
@[simp] theorem dropScales_hostIn (s : State) (tid : BitVec 16) : (s.dropScales tid).hostIn = s.hostIn := rfl
@[simp] theorem dropScales_msix (s : State) (tid : BitVec 16) : (s.dropScales tid).msix = s.msix := rfl
@[simp] theorem dropScales_syscoord (s : State) (tid : BitVec 16) : (s.dropScales tid).syscoord = s.syscoord := rfl
@[simp] theorem dropScales_agenda (s : State) (tid : BitVec 16) : (s.dropScales tid).agenda = s.agenda := rfl
@[simp] theorem dropScales_turn (s : State) (tid : BitVec 16) : (s.dropScales tid).turn = s.turn := rfl
@[simp] theorem dropScales_inbox (s : State) (tid : BitVec 16) : (s.dropScales tid).inbox = s.inbox := rfl
@[simp] theorem dropScales_choices (s : State) (tid : BitVec 16) : (s.dropScales tid).choices = s.choices := rfl
@[simp] theorem dropScales_times (s : State) (tid : BitVec 16) : (s.dropScales tid).times = s.times := rfl
@[simp] theorem dropScales_ctx (s : State) (tid : BitVec 16) (d : Fin 4) : (s.dropScales tid).ctx d = s.ctx d :=
  match d with | 0 => rfl | 1 => rfl | 2 => rfl | 3 => rfl

/-! ###  -/

@[simp] theorem memPut_away (s : State) (pa : Nat) (bs : List Byte) : (s.memPut pa bs).away = s.away := rfl
@[simp] theorem memPut_cur (s : State) (pa : Nat) (bs : List Byte) : (s.memPut pa bs).cur = s.cur := rfl
@[simp] theorem memPut_casc (s : State) (pa : Nat) (bs : List Byte) : (s.memPut pa bs).casc = s.casc := rfl
@[simp] theorem memPut_sp (s : State) (pa : Nat) (bs : List Byte) : (s.memPut pa bs).sp = s.sp := rfl
@[simp] theorem memPut_tiles (s : State) (pa : Nat) (bs : List Byte) : (s.memPut pa bs).tiles = s.tiles := rfl
@[simp] theorem memPut_semVal (s : State) (pa : Nat) (bs : List Byte) : (s.memPut pa bs).semVal = s.semVal := rfl
@[simp] theorem memPut_semLatch (s : State) (pa : Nat) (bs : List Byte) : (s.memPut pa bs).semLatch = s.semLatch := rfl
@[simp] theorem memPut_semCode (s : State) (pa : Nat) (bs : List Byte) : (s.memPut pa bs).semCode = s.semCode := rfl
@[simp] theorem memPut_hasps (s : State) (pa : Nat) (bs : List Byte) : (s.memPut pa bs).hasps = s.hasps := rfl
@[simp] theorem memPut_acc (s : State) (pa : Nat) (bs : List Byte) : (s.memPut pa bs).acc = s.acc := rfl
@[simp] theorem memPut_mu (s : State) (pa : Nat) (bs : List Byte) : (s.memPut pa bs).mu = s.mu := rfl
@[simp] theorem memPut_ep (s : State) (pa : Nat) (bs : List Byte) : (s.memPut pa bs).ep = s.ep := rfl
@[simp] theorem memPut_scaleCache (s : State) (pa : Nat) (bs : List Byte) : (s.memPut pa bs).scaleCache = s.scaleCache := rfl
@[simp] theorem memPut_lastCallCtx (s : State) (pa : Nat) (bs : List Byte) : (s.memPut pa bs).lastCallCtx = s.lastCallCtx := rfl
@[simp] theorem memPut_collTurn (s : State) (pa : Nat) (bs : List Byte) : (s.memPut pa bs).collTurn = s.collTurn := rfl
@[simp] theorem memPut_wire (s : State) (pa : Nat) (bs : List Byte) : (s.memPut pa bs).wire = s.wire := rfl
@[simp] theorem memPut_bankQ (s : State) (pa : Nat) (bs : List Byte) : (s.memPut pa bs).bankQ = s.bankQ := rfl
@[simp] theorem memPut_bankCycle (s : State) (pa : Nat) (bs : List Byte) : (s.memPut pa bs).bankCycle = s.bankCycle := rfl
@[simp] theorem memPut_hostMem (s : State) (pa : Nat) (bs : List Byte) : (s.memPut pa bs).hostMem = s.hostMem := rfl
@[simp] theorem memPut_homeQ (s : State) (pa : Nat) (bs : List Byte) : (s.memPut pa bs).homeQ = s.homeQ := rfl
@[simp] theorem memPut_nextHome (s : State) (pa : Nat) (bs : List Byte) : (s.memPut pa bs).nextHome = s.nextHome := rfl
@[simp] theorem memPut_pkgTumbler (s : State) (pa : Nat) (bs : List Byte) : (s.memPut pa bs).pkgTumbler = s.pkgTumbler := rfl
@[simp] theorem memPut_domTumbler (s : State) (pa : Nat) (bs : List Byte) : (s.memPut pa bs).domTumbler = s.domTumbler := rfl
@[simp] theorem memPut_srPos (s : State) (pa : Nat) (bs : List Byte) : (s.memPut pa bs).srPos = s.srPos := rfl
@[simp] theorem memPut_tlb (s : State) (pa : Nat) (bs : List Byte) : (s.memPut pa bs).tlb = s.tlb := rfl
@[simp] theorem memPut_tlbOld (s : State) (pa : Nat) (bs : List Byte) : (s.memPut pa bs).tlbOld = s.tlbOld := rfl
@[simp] theorem memPut_invals (s : State) (pa : Nat) (bs : List Byte) : (s.memPut pa bs).invals = s.invals := rfl
@[simp] theorem memPut_mreg (s : State) (pa : Nat) (bs : List Byte) : (s.memPut pa bs).mreg = s.mreg := rfl
@[simp] theorem memPut_launches (s : State) (pa : Nat) (bs : List Byte) : (s.memPut pa bs).launches = s.launches := rfl
@[simp] theorem memPut_sched (s : State) (pa : Nat) (bs : List Byte) : (s.memPut pa bs).sched = s.sched := rfl
@[simp] theorem memPut_groups (s : State) (pa : Nat) (bs : List Byte) : (s.memPut pa bs).groups = s.groups := rfl
@[simp] theorem memPut_fused (s : State) (pa : Nat) (bs : List Byte) : (s.memPut pa bs).fused = s.fused := rfl
@[simp] theorem memPut_gtb (s : State) (pa : Nat) (bs : List Byte) : (s.memPut pa bs).gtb = s.gtb := rfl
@[simp] theorem memPut_booted (s : State) (pa : Nat) (bs : List Byte) : (s.memPut pa bs).booted = s.booted := rfl
@[simp] theorem memPut_halted (s : State) (pa : Nat) (bs : List Byte) : (s.memPut pa bs).halted = s.halted := rfl
@[simp] theorem memPut_powered (s : State) (pa : Nat) (bs : List Byte) : (s.memPut pa bs).powered = s.powered := rfl
@[simp] theorem memPut_rollback (s : State) (pa : Nat) (bs : List Byte) : (s.memPut pa bs).rollback = s.rollback := rfl
@[simp] theorem memPut_image (s : State) (pa : Nat) (bs : List Byte) : (s.memPut pa bs).image = s.image := rfl
@[simp] theorem memPut_keyHash (s : State) (pa : Nat) (bs : List Byte) : (s.memPut pa bs).keyHash = s.keyHash := rfl
@[simp] theorem memPut_loaded (s : State) (pa : Nat) (bs : List Byte) : (s.memPut pa bs).loaded = s.loaded := rfl
@[simp] theorem memPut_tests (s : State) (pa : Nat) (bs : List Byte) : (s.memPut pa bs).tests = s.tests := rfl
@[simp] theorem memPut_spares (s : State) (pa : Nat) (bs : List Byte) : (s.memPut pa bs).spares = s.spares := rfl
@[simp] theorem memPut_reported (s : State) (pa : Nat) (bs : List Byte) : (s.memPut pa bs).reported = s.reported := rfl
@[simp] theorem memPut_retiredUnits (s : State) (pa : Nat) (bs : List Byte) : (s.memPut pa bs).retiredUnits = s.retiredUnits := rfl
@[simp] theorem memPut_refAcc (s : State) (pa : Nat) (bs : List Byte) : (s.memPut pa bs).refAcc = s.refAcc := rfl
@[simp] theorem memPut_refAt (s : State) (pa : Nat) (bs : List Byte) : (s.memPut pa bs).refAt = s.refAt := rfl
@[simp] theorem memPut_owed (s : State) (pa : Nat) (bs : List Byte) : (s.memPut pa bs).owed = s.owed := rfl
@[simp] theorem memPut_refDiv (s : State) (pa : Nat) (bs : List Byte) : (s.memPut pa bs).refDiv = s.refDiv := rfl
@[simp] theorem memPut_corrected (s : State) (pa : Nat) (bs : List Byte) : (s.memPut pa bs).corrected = s.corrected := rfl
@[simp] theorem memPut_evalAt (s : State) (pa : Nat) (bs : List Byte) : (s.memPut pa bs).evalAt = s.evalAt := rfl
@[simp] theorem memPut_critSeen (s : State) (pa : Nat) (bs : List Byte) : (s.memPut pa bs).critSeen = s.critSeen := rfl
@[simp] theorem memPut_power (s : State) (pa : Nat) (bs : List Byte) : (s.memPut pa bs).power = s.power := rfl
@[simp] theorem memPut_lostPkgs (s : State) (pa : Nat) (bs : List Byte) : (s.memPut pa bs).lostPkgs = s.lostPkgs := rfl
@[simp] theorem memPut_lostPaths (s : State) (pa : Nat) (bs : List Byte) : (s.memPut pa bs).lostPaths = s.lostPaths := rfl
@[simp] theorem memPut_routes (s : State) (pa : Nat) (bs : List Byte) : (s.memPut pa bs).routes = s.routes := rfl
@[simp] theorem memPut_hart (s : State) (pa : Nat) (bs : List Byte) : (s.memPut pa bs).hart = s.hart := rfl
@[simp] theorem memPut_hartNo (s : State) (pa : Nat) (bs : List Byte) : (s.memPut pa bs).hartNo = s.hartNo := rfl
@[simp] theorem memPut_harts (s : State) (pa : Nat) (bs : List Byte) : (s.memPut pa bs).harts = s.harts := rfl
@[simp] theorem memPut_invalPos (s : State) (pa : Nat) (bs : List Byte) : (s.memPut pa bs).invalPos = s.invalPos := rfl
@[simp] theorem memPut_iqSlots (s : State) (pa : Nat) (bs : List Byte) : (s.memPut pa bs).iqSlots = s.iqSlots := rfl
@[simp] theorem memPut_iqCmd (s : State) (pa : Nat) (bs : List Byte) : (s.memPut pa bs).iqCmd = s.iqCmd := rfl
@[simp] theorem memPut_report (s : State) (pa : Nat) (bs : List Byte) : (s.memPut pa bs).report = s.report := rfl
@[simp] theorem memPut_diverged (s : State) (pa : Nat) (bs : List Byte) : (s.memPut pa bs).diverged = s.diverged := rfl
@[simp] theorem memPut_hostIn (s : State) (pa : Nat) (bs : List Byte) : (s.memPut pa bs).hostIn = s.hostIn := rfl
@[simp] theorem memPut_msix (s : State) (pa : Nat) (bs : List Byte) : (s.memPut pa bs).msix = s.msix := rfl
@[simp] theorem memPut_syscoord (s : State) (pa : Nat) (bs : List Byte) : (s.memPut pa bs).syscoord = s.syscoord := rfl
@[simp] theorem memPut_agenda (s : State) (pa : Nat) (bs : List Byte) : (s.memPut pa bs).agenda = s.agenda := rfl
@[simp] theorem memPut_turn (s : State) (pa : Nat) (bs : List Byte) : (s.memPut pa bs).turn = s.turn := rfl
@[simp] theorem memPut_inbox (s : State) (pa : Nat) (bs : List Byte) : (s.memPut pa bs).inbox = s.inbox := rfl
@[simp] theorem memPut_choices (s : State) (pa : Nat) (bs : List Byte) : (s.memPut pa bs).choices = s.choices := rfl
@[simp] theorem memPut_times (s : State) (pa : Nat) (bs : List Byte) : (s.memPut pa bs).times = s.times := rfl
@[simp] theorem memPut_ctx (s : State) (pa : Nat) (bs : List Byte) (d : Fin 4) : (s.memPut pa bs).ctx d = s.ctx d :=
  match d with | 0 => rfl | 1 => rfl | 2 => rfl | 3 => rfl

/-! ###  -/

@[simp] theorem setReg_away (s : State) (a : Nat) (v : W64) : (s.setReg a v).away = s.away := rfl
@[simp] theorem setReg_cur (s : State) (a : Nat) (v : W64) : (s.setReg a v).cur = s.cur := rfl
@[simp] theorem setReg_casc (s : State) (a : Nat) (v : W64) : (s.setReg a v).casc = s.casc := rfl
@[simp] theorem setReg_sp (s : State) (a : Nat) (v : W64) : (s.setReg a v).sp = s.sp := rfl
@[simp] theorem setReg_tiles (s : State) (a : Nat) (v : W64) : (s.setReg a v).tiles = s.tiles := rfl
@[simp] theorem setReg_semVal (s : State) (a : Nat) (v : W64) : (s.setReg a v).semVal = s.semVal := rfl
@[simp] theorem setReg_semLatch (s : State) (a : Nat) (v : W64) : (s.setReg a v).semLatch = s.semLatch := rfl
@[simp] theorem setReg_semCode (s : State) (a : Nat) (v : W64) : (s.setReg a v).semCode = s.semCode := rfl
@[simp] theorem setReg_hasps (s : State) (a : Nat) (v : W64) : (s.setReg a v).hasps = s.hasps := rfl
@[simp] theorem setReg_acc (s : State) (a : Nat) (v : W64) : (s.setReg a v).acc = s.acc := rfl
@[simp] theorem setReg_mu (s : State) (a : Nat) (v : W64) : (s.setReg a v).mu = s.mu := rfl
@[simp] theorem setReg_ep (s : State) (a : Nat) (v : W64) : (s.setReg a v).ep = s.ep := rfl
@[simp] theorem setReg_scaleCache (s : State) (a : Nat) (v : W64) : (s.setReg a v).scaleCache = s.scaleCache := rfl
@[simp] theorem setReg_run (s : State) (a : Nat) (v : W64) : (s.setReg a v).run = s.run := rfl
@[simp] theorem setReg_lastCallCtx (s : State) (a : Nat) (v : W64) : (s.setReg a v).lastCallCtx = s.lastCallCtx := rfl
@[simp] theorem setReg_collTurn (s : State) (a : Nat) (v : W64) : (s.setReg a v).collTurn = s.collTurn := rfl
@[simp] theorem setReg_wire (s : State) (a : Nat) (v : W64) : (s.setReg a v).wire = s.wire := rfl
@[simp] theorem setReg_bankQ (s : State) (a : Nat) (v : W64) : (s.setReg a v).bankQ = s.bankQ := rfl
@[simp] theorem setReg_bankCycle (s : State) (a : Nat) (v : W64) : (s.setReg a v).bankCycle = s.bankCycle := rfl
@[simp] theorem setReg_mem (s : State) (a : Nat) (v : W64) : (s.setReg a v).mem = s.mem := rfl
@[simp] theorem setReg_wrote (s : State) (a : Nat) (v : W64) : (s.setReg a v).wrote = s.wrote := rfl
@[simp] theorem setReg_hostMem (s : State) (a : Nat) (v : W64) : (s.setReg a v).hostMem = s.hostMem := rfl
@[simp] theorem setReg_stCore (s : State) (a : Nat) (v : W64) : (s.setReg a v).stCore = s.stCore := rfl
@[simp] theorem setReg_stCluster (s : State) (a : Nat) (v : W64) : (s.setReg a v).stCluster = s.stCluster := rfl
@[simp] theorem setReg_stDie (s : State) (a : Nat) (v : W64) : (s.setReg a v).stDie = s.stDie := rfl
@[simp] theorem setReg_homeQ (s : State) (a : Nat) (v : W64) : (s.setReg a v).homeQ = s.homeQ := rfl
@[simp] theorem setReg_nextHome (s : State) (a : Nat) (v : W64) : (s.setReg a v).nextHome = s.nextHome := rfl
@[simp] theorem setReg_pkgTumbler (s : State) (a : Nat) (v : W64) : (s.setReg a v).pkgTumbler = s.pkgTumbler := rfl
@[simp] theorem setReg_domTumbler (s : State) (a : Nat) (v : W64) : (s.setReg a v).domTumbler = s.domTumbler := rfl
@[simp] theorem setReg_srPos (s : State) (a : Nat) (v : W64) : (s.setReg a v).srPos = s.srPos := rfl
@[simp] theorem setReg_tlb (s : State) (a : Nat) (v : W64) : (s.setReg a v).tlb = s.tlb := rfl
@[simp] theorem setReg_tlbOld (s : State) (a : Nat) (v : W64) : (s.setReg a v).tlbOld = s.tlbOld := rfl
@[simp] theorem setReg_invals (s : State) (a : Nat) (v : W64) : (s.setReg a v).invals = s.invals := rfl
@[simp] theorem setReg_launches (s : State) (a : Nat) (v : W64) : (s.setReg a v).launches = s.launches := rfl
@[simp] theorem setReg_sched (s : State) (a : Nat) (v : W64) : (s.setReg a v).sched = s.sched := rfl
@[simp] theorem setReg_groups (s : State) (a : Nat) (v : W64) : (s.setReg a v).groups = s.groups := rfl
@[simp] theorem setReg_fused (s : State) (a : Nat) (v : W64) : (s.setReg a v).fused = s.fused := rfl
@[simp] theorem setReg_gtb (s : State) (a : Nat) (v : W64) : (s.setReg a v).gtb = s.gtb := rfl
@[simp] theorem setReg_booted (s : State) (a : Nat) (v : W64) : (s.setReg a v).booted = s.booted := rfl
@[simp] theorem setReg_halted (s : State) (a : Nat) (v : W64) : (s.setReg a v).halted = s.halted := rfl
@[simp] theorem setReg_powered (s : State) (a : Nat) (v : W64) : (s.setReg a v).powered = s.powered := rfl
@[simp] theorem setReg_rollback (s : State) (a : Nat) (v : W64) : (s.setReg a v).rollback = s.rollback := rfl
@[simp] theorem setReg_image (s : State) (a : Nat) (v : W64) : (s.setReg a v).image = s.image := rfl
@[simp] theorem setReg_keyHash (s : State) (a : Nat) (v : W64) : (s.setReg a v).keyHash = s.keyHash := rfl
@[simp] theorem setReg_loaded (s : State) (a : Nat) (v : W64) : (s.setReg a v).loaded = s.loaded := rfl
@[simp] theorem setReg_tests (s : State) (a : Nat) (v : W64) : (s.setReg a v).tests = s.tests := rfl
@[simp] theorem setReg_spares (s : State) (a : Nat) (v : W64) : (s.setReg a v).spares = s.spares := rfl
@[simp] theorem setReg_reported (s : State) (a : Nat) (v : W64) : (s.setReg a v).reported = s.reported := rfl
@[simp] theorem setReg_retiredUnits (s : State) (a : Nat) (v : W64) : (s.setReg a v).retiredUnits = s.retiredUnits := rfl
@[simp] theorem setReg_refAcc (s : State) (a : Nat) (v : W64) : (s.setReg a v).refAcc = s.refAcc := rfl
@[simp] theorem setReg_refAt (s : State) (a : Nat) (v : W64) : (s.setReg a v).refAt = s.refAt := rfl
@[simp] theorem setReg_owed (s : State) (a : Nat) (v : W64) : (s.setReg a v).owed = s.owed := rfl
@[simp] theorem setReg_refDiv (s : State) (a : Nat) (v : W64) : (s.setReg a v).refDiv = s.refDiv := rfl
@[simp] theorem setReg_bad (s : State) (a : Nat) (v : W64) : (s.setReg a v).bad = s.bad := rfl
@[simp] theorem setReg_corrected (s : State) (a : Nat) (v : W64) : (s.setReg a v).corrected = s.corrected := rfl
@[simp] theorem setReg_evalAt (s : State) (a : Nat) (v : W64) : (s.setReg a v).evalAt = s.evalAt := rfl
@[simp] theorem setReg_critSeen (s : State) (a : Nat) (v : W64) : (s.setReg a v).critSeen = s.critSeen := rfl
@[simp] theorem setReg_power (s : State) (a : Nat) (v : W64) : (s.setReg a v).power = s.power := rfl
@[simp] theorem setReg_lostPkgs (s : State) (a : Nat) (v : W64) : (s.setReg a v).lostPkgs = s.lostPkgs := rfl
@[simp] theorem setReg_lostPaths (s : State) (a : Nat) (v : W64) : (s.setReg a v).lostPaths = s.lostPaths := rfl
@[simp] theorem setReg_routes (s : State) (a : Nat) (v : W64) : (s.setReg a v).routes = s.routes := rfl
@[simp] theorem setReg_hart (s : State) (a : Nat) (v : W64) : (s.setReg a v).hart = s.hart := rfl
@[simp] theorem setReg_hartNo (s : State) (a : Nat) (v : W64) : (s.setReg a v).hartNo = s.hartNo := rfl
@[simp] theorem setReg_harts (s : State) (a : Nat) (v : W64) : (s.setReg a v).harts = s.harts := rfl
@[simp] theorem setReg_invalPos (s : State) (a : Nat) (v : W64) : (s.setReg a v).invalPos = s.invalPos := rfl
@[simp] theorem setReg_iqSlots (s : State) (a : Nat) (v : W64) : (s.setReg a v).iqSlots = s.iqSlots := rfl
@[simp] theorem setReg_iqCmd (s : State) (a : Nat) (v : W64) : (s.setReg a v).iqCmd = s.iqCmd := rfl
@[simp] theorem setReg_report (s : State) (a : Nat) (v : W64) : (s.setReg a v).report = s.report := rfl
@[simp] theorem setReg_diverged (s : State) (a : Nat) (v : W64) : (s.setReg a v).diverged = s.diverged := rfl
@[simp] theorem setReg_hostIn (s : State) (a : Nat) (v : W64) : (s.setReg a v).hostIn = s.hostIn := rfl
@[simp] theorem setReg_msix (s : State) (a : Nat) (v : W64) : (s.setReg a v).msix = s.msix := rfl
@[simp] theorem setReg_syscoord (s : State) (a : Nat) (v : W64) : (s.setReg a v).syscoord = s.syscoord := rfl
@[simp] theorem setReg_agenda (s : State) (a : Nat) (v : W64) : (s.setReg a v).agenda = s.agenda := rfl
@[simp] theorem setReg_turn (s : State) (a : Nat) (v : W64) : (s.setReg a v).turn = s.turn := rfl
@[simp] theorem setReg_inbox (s : State) (a : Nat) (v : W64) : (s.setReg a v).inbox = s.inbox := rfl
@[simp] theorem setReg_choices (s : State) (a : Nat) (v : W64) : (s.setReg a v).choices = s.choices := rfl
@[simp] theorem setReg_times (s : State) (a : Nat) (v : W64) : (s.setReg a v).times = s.times := rfl
@[simp] theorem setReg_ctx (s : State) (a : Nat) (v : W64) (d : Fin 4) : (s.setReg a v).ctx d = s.ctx d :=
  match d with | 0 => rfl | 1 => rfl | 2 => rfl | 3 => rfl

/-! ###  -/

@[simp] theorem semTake_away (s : State) (n : BitVec 8) (t : Nat) : (s.semTake n t).away = s.away := rfl
@[simp] theorem semTake_cur (s : State) (n : BitVec 8) (t : Nat) : (s.semTake n t).cur = s.cur := rfl
@[simp] theorem semTake_casc (s : State) (n : BitVec 8) (t : Nat) : (s.semTake n t).casc = s.casc := rfl
@[simp] theorem semTake_sp (s : State) (n : BitVec 8) (t : Nat) : (s.semTake n t).sp = s.sp := rfl
@[simp] theorem semTake_tiles (s : State) (n : BitVec 8) (t : Nat) : (s.semTake n t).tiles = s.tiles := rfl
@[simp] theorem semTake_semLatch (s : State) (n : BitVec 8) (t : Nat) : (s.semTake n t).semLatch = s.semLatch := rfl
@[simp] theorem semTake_semCode (s : State) (n : BitVec 8) (t : Nat) : (s.semTake n t).semCode = s.semCode := rfl
@[simp] theorem semTake_hasps (s : State) (n : BitVec 8) (t : Nat) : (s.semTake n t).hasps = s.hasps := rfl
@[simp] theorem semTake_acc (s : State) (n : BitVec 8) (t : Nat) : (s.semTake n t).acc = s.acc := rfl
@[simp] theorem semTake_mu (s : State) (n : BitVec 8) (t : Nat) : (s.semTake n t).mu = s.mu := rfl
@[simp] theorem semTake_ep (s : State) (n : BitVec 8) (t : Nat) : (s.semTake n t).ep = s.ep := rfl
@[simp] theorem semTake_scaleCache (s : State) (n : BitVec 8) (t : Nat) : (s.semTake n t).scaleCache = s.scaleCache := rfl
@[simp] theorem semTake_run (s : State) (n : BitVec 8) (t : Nat) : (s.semTake n t).run = s.run := rfl
@[simp] theorem semTake_lastCallCtx (s : State) (n : BitVec 8) (t : Nat) : (s.semTake n t).lastCallCtx = s.lastCallCtx := rfl
@[simp] theorem semTake_collTurn (s : State) (n : BitVec 8) (t : Nat) : (s.semTake n t).collTurn = s.collTurn := rfl
@[simp] theorem semTake_wire (s : State) (n : BitVec 8) (t : Nat) : (s.semTake n t).wire = s.wire := rfl
@[simp] theorem semTake_bankQ (s : State) (n : BitVec 8) (t : Nat) : (s.semTake n t).bankQ = s.bankQ := rfl
@[simp] theorem semTake_bankCycle (s : State) (n : BitVec 8) (t : Nat) : (s.semTake n t).bankCycle = s.bankCycle := rfl
@[simp] theorem semTake_mem (s : State) (n : BitVec 8) (t : Nat) : (s.semTake n t).mem = s.mem := rfl
@[simp] theorem semTake_wrote (s : State) (n : BitVec 8) (t : Nat) : (s.semTake n t).wrote = s.wrote := rfl
@[simp] theorem semTake_hostMem (s : State) (n : BitVec 8) (t : Nat) : (s.semTake n t).hostMem = s.hostMem := rfl
@[simp] theorem semTake_stCore (s : State) (n : BitVec 8) (t : Nat) : (s.semTake n t).stCore = s.stCore := rfl
@[simp] theorem semTake_stCluster (s : State) (n : BitVec 8) (t : Nat) : (s.semTake n t).stCluster = s.stCluster := rfl
@[simp] theorem semTake_stDie (s : State) (n : BitVec 8) (t : Nat) : (s.semTake n t).stDie = s.stDie := rfl
@[simp] theorem semTake_homeQ (s : State) (n : BitVec 8) (t : Nat) : (s.semTake n t).homeQ = s.homeQ := rfl
@[simp] theorem semTake_nextHome (s : State) (n : BitVec 8) (t : Nat) : (s.semTake n t).nextHome = s.nextHome := rfl
@[simp] theorem semTake_pkgTumbler (s : State) (n : BitVec 8) (t : Nat) : (s.semTake n t).pkgTumbler = s.pkgTumbler := rfl
@[simp] theorem semTake_domTumbler (s : State) (n : BitVec 8) (t : Nat) : (s.semTake n t).domTumbler = s.domTumbler := rfl
@[simp] theorem semTake_srPos (s : State) (n : BitVec 8) (t : Nat) : (s.semTake n t).srPos = s.srPos := rfl
@[simp] theorem semTake_tlb (s : State) (n : BitVec 8) (t : Nat) : (s.semTake n t).tlb = s.tlb := rfl
@[simp] theorem semTake_tlbOld (s : State) (n : BitVec 8) (t : Nat) : (s.semTake n t).tlbOld = s.tlbOld := rfl
@[simp] theorem semTake_invals (s : State) (n : BitVec 8) (t : Nat) : (s.semTake n t).invals = s.invals := rfl
@[simp] theorem semTake_mreg (s : State) (n : BitVec 8) (t : Nat) : (s.semTake n t).mreg = s.mreg := rfl
@[simp] theorem semTake_launches (s : State) (n : BitVec 8) (t : Nat) : (s.semTake n t).launches = s.launches := rfl
@[simp] theorem semTake_sched (s : State) (n : BitVec 8) (t : Nat) : (s.semTake n t).sched = s.sched := rfl
@[simp] theorem semTake_groups (s : State) (n : BitVec 8) (t : Nat) : (s.semTake n t).groups = s.groups := rfl
@[simp] theorem semTake_fused (s : State) (n : BitVec 8) (t : Nat) : (s.semTake n t).fused = s.fused := rfl
@[simp] theorem semTake_gtb (s : State) (n : BitVec 8) (t : Nat) : (s.semTake n t).gtb = s.gtb := rfl
@[simp] theorem semTake_booted (s : State) (n : BitVec 8) (t : Nat) : (s.semTake n t).booted = s.booted := rfl
@[simp] theorem semTake_halted (s : State) (n : BitVec 8) (t : Nat) : (s.semTake n t).halted = s.halted := rfl
@[simp] theorem semTake_powered (s : State) (n : BitVec 8) (t : Nat) : (s.semTake n t).powered = s.powered := rfl
@[simp] theorem semTake_rollback (s : State) (n : BitVec 8) (t : Nat) : (s.semTake n t).rollback = s.rollback := rfl
@[simp] theorem semTake_image (s : State) (n : BitVec 8) (t : Nat) : (s.semTake n t).image = s.image := rfl
@[simp] theorem semTake_keyHash (s : State) (n : BitVec 8) (t : Nat) : (s.semTake n t).keyHash = s.keyHash := rfl
@[simp] theorem semTake_loaded (s : State) (n : BitVec 8) (t : Nat) : (s.semTake n t).loaded = s.loaded := rfl
@[simp] theorem semTake_tests (s : State) (n : BitVec 8) (t : Nat) : (s.semTake n t).tests = s.tests := rfl
@[simp] theorem semTake_spares (s : State) (n : BitVec 8) (t : Nat) : (s.semTake n t).spares = s.spares := rfl
@[simp] theorem semTake_reported (s : State) (n : BitVec 8) (t : Nat) : (s.semTake n t).reported = s.reported := rfl
@[simp] theorem semTake_retiredUnits (s : State) (n : BitVec 8) (t : Nat) : (s.semTake n t).retiredUnits = s.retiredUnits := rfl
@[simp] theorem semTake_refAcc (s : State) (n : BitVec 8) (t : Nat) : (s.semTake n t).refAcc = s.refAcc := rfl
@[simp] theorem semTake_refAt (s : State) (n : BitVec 8) (t : Nat) : (s.semTake n t).refAt = s.refAt := rfl
@[simp] theorem semTake_owed (s : State) (n : BitVec 8) (t : Nat) : (s.semTake n t).owed = s.owed := rfl
@[simp] theorem semTake_refDiv (s : State) (n : BitVec 8) (t : Nat) : (s.semTake n t).refDiv = s.refDiv := rfl
@[simp] theorem semTake_bad (s : State) (n : BitVec 8) (t : Nat) : (s.semTake n t).bad = s.bad := rfl
@[simp] theorem semTake_corrected (s : State) (n : BitVec 8) (t : Nat) : (s.semTake n t).corrected = s.corrected := rfl
@[simp] theorem semTake_evalAt (s : State) (n : BitVec 8) (t : Nat) : (s.semTake n t).evalAt = s.evalAt := rfl
@[simp] theorem semTake_critSeen (s : State) (n : BitVec 8) (t : Nat) : (s.semTake n t).critSeen = s.critSeen := rfl
@[simp] theorem semTake_power (s : State) (n : BitVec 8) (t : Nat) : (s.semTake n t).power = s.power := rfl
@[simp] theorem semTake_lostPkgs (s : State) (n : BitVec 8) (t : Nat) : (s.semTake n t).lostPkgs = s.lostPkgs := rfl
@[simp] theorem semTake_lostPaths (s : State) (n : BitVec 8) (t : Nat) : (s.semTake n t).lostPaths = s.lostPaths := rfl
@[simp] theorem semTake_routes (s : State) (n : BitVec 8) (t : Nat) : (s.semTake n t).routes = s.routes := rfl
@[simp] theorem semTake_hart (s : State) (n : BitVec 8) (t : Nat) : (s.semTake n t).hart = s.hart := rfl
@[simp] theorem semTake_hartNo (s : State) (n : BitVec 8) (t : Nat) : (s.semTake n t).hartNo = s.hartNo := rfl
@[simp] theorem semTake_harts (s : State) (n : BitVec 8) (t : Nat) : (s.semTake n t).harts = s.harts := rfl
@[simp] theorem semTake_invalPos (s : State) (n : BitVec 8) (t : Nat) : (s.semTake n t).invalPos = s.invalPos := rfl
@[simp] theorem semTake_iqSlots (s : State) (n : BitVec 8) (t : Nat) : (s.semTake n t).iqSlots = s.iqSlots := rfl
@[simp] theorem semTake_iqCmd (s : State) (n : BitVec 8) (t : Nat) : (s.semTake n t).iqCmd = s.iqCmd := rfl
@[simp] theorem semTake_report (s : State) (n : BitVec 8) (t : Nat) : (s.semTake n t).report = s.report := rfl
@[simp] theorem semTake_diverged (s : State) (n : BitVec 8) (t : Nat) : (s.semTake n t).diverged = s.diverged := rfl
@[simp] theorem semTake_hostIn (s : State) (n : BitVec 8) (t : Nat) : (s.semTake n t).hostIn = s.hostIn := rfl
@[simp] theorem semTake_msix (s : State) (n : BitVec 8) (t : Nat) : (s.semTake n t).msix = s.msix := rfl
@[simp] theorem semTake_syscoord (s : State) (n : BitVec 8) (t : Nat) : (s.semTake n t).syscoord = s.syscoord := rfl
@[simp] theorem semTake_agenda (s : State) (n : BitVec 8) (t : Nat) : (s.semTake n t).agenda = s.agenda := rfl
@[simp] theorem semTake_turn (s : State) (n : BitVec 8) (t : Nat) : (s.semTake n t).turn = s.turn := rfl
@[simp] theorem semTake_inbox (s : State) (n : BitVec 8) (t : Nat) : (s.semTake n t).inbox = s.inbox := rfl
@[simp] theorem semTake_choices (s : State) (n : BitVec 8) (t : Nat) : (s.semTake n t).choices = s.choices := rfl
@[simp] theorem semTake_times (s : State) (n : BitVec 8) (t : Nat) : (s.semTake n t).times = s.times := rfl
@[simp] theorem semTake_ctx (s : State) (n : BitVec 8) (t : Nat) (d : Fin 4) : (s.semTake n t).ctx d = s.ctx d :=
  match d with | 0 => rfl | 1 => rfl | 2 => rfl | 3 => rfl

/-! ###  -/

@[simp] theorem semFail_away (s : State) (n : BitVec 8) (inc : Nat) (code : Byte) : (s.semFail n inc code).away = s.away := rfl
@[simp] theorem semFail_cur (s : State) (n : BitVec 8) (inc : Nat) (code : Byte) : (s.semFail n inc code).cur = s.cur := rfl
@[simp] theorem semFail_casc (s : State) (n : BitVec 8) (inc : Nat) (code : Byte) : (s.semFail n inc code).casc = s.casc := rfl
@[simp] theorem semFail_sp (s : State) (n : BitVec 8) (inc : Nat) (code : Byte) : (s.semFail n inc code).sp = s.sp := rfl
@[simp] theorem semFail_tiles (s : State) (n : BitVec 8) (inc : Nat) (code : Byte) : (s.semFail n inc code).tiles = s.tiles := rfl
@[simp] theorem semFail_hasps (s : State) (n : BitVec 8) (inc : Nat) (code : Byte) : (s.semFail n inc code).hasps = s.hasps := rfl
@[simp] theorem semFail_acc (s : State) (n : BitVec 8) (inc : Nat) (code : Byte) : (s.semFail n inc code).acc = s.acc := rfl
@[simp] theorem semFail_mu (s : State) (n : BitVec 8) (inc : Nat) (code : Byte) : (s.semFail n inc code).mu = s.mu := rfl
@[simp] theorem semFail_ep (s : State) (n : BitVec 8) (inc : Nat) (code : Byte) : (s.semFail n inc code).ep = s.ep := rfl
@[simp] theorem semFail_scaleCache (s : State) (n : BitVec 8) (inc : Nat) (code : Byte) : (s.semFail n inc code).scaleCache = s.scaleCache := rfl
@[simp] theorem semFail_run (s : State) (n : BitVec 8) (inc : Nat) (code : Byte) : (s.semFail n inc code).run = s.run := rfl
@[simp] theorem semFail_lastCallCtx (s : State) (n : BitVec 8) (inc : Nat) (code : Byte) : (s.semFail n inc code).lastCallCtx = s.lastCallCtx := rfl
@[simp] theorem semFail_collTurn (s : State) (n : BitVec 8) (inc : Nat) (code : Byte) : (s.semFail n inc code).collTurn = s.collTurn := rfl
@[simp] theorem semFail_wire (s : State) (n : BitVec 8) (inc : Nat) (code : Byte) : (s.semFail n inc code).wire = s.wire := rfl
@[simp] theorem semFail_bankQ (s : State) (n : BitVec 8) (inc : Nat) (code : Byte) : (s.semFail n inc code).bankQ = s.bankQ := rfl
@[simp] theorem semFail_bankCycle (s : State) (n : BitVec 8) (inc : Nat) (code : Byte) : (s.semFail n inc code).bankCycle = s.bankCycle := rfl
@[simp] theorem semFail_mem (s : State) (n : BitVec 8) (inc : Nat) (code : Byte) : (s.semFail n inc code).mem = s.mem := rfl
@[simp] theorem semFail_wrote (s : State) (n : BitVec 8) (inc : Nat) (code : Byte) : (s.semFail n inc code).wrote = s.wrote := rfl
@[simp] theorem semFail_hostMem (s : State) (n : BitVec 8) (inc : Nat) (code : Byte) : (s.semFail n inc code).hostMem = s.hostMem := rfl
@[simp] theorem semFail_stCore (s : State) (n : BitVec 8) (inc : Nat) (code : Byte) : (s.semFail n inc code).stCore = s.stCore := rfl
@[simp] theorem semFail_stCluster (s : State) (n : BitVec 8) (inc : Nat) (code : Byte) : (s.semFail n inc code).stCluster = s.stCluster := rfl
@[simp] theorem semFail_stDie (s : State) (n : BitVec 8) (inc : Nat) (code : Byte) : (s.semFail n inc code).stDie = s.stDie := rfl
@[simp] theorem semFail_homeQ (s : State) (n : BitVec 8) (inc : Nat) (code : Byte) : (s.semFail n inc code).homeQ = s.homeQ := rfl
@[simp] theorem semFail_nextHome (s : State) (n : BitVec 8) (inc : Nat) (code : Byte) : (s.semFail n inc code).nextHome = s.nextHome := rfl
@[simp] theorem semFail_pkgTumbler (s : State) (n : BitVec 8) (inc : Nat) (code : Byte) : (s.semFail n inc code).pkgTumbler = s.pkgTumbler := rfl
@[simp] theorem semFail_domTumbler (s : State) (n : BitVec 8) (inc : Nat) (code : Byte) : (s.semFail n inc code).domTumbler = s.domTumbler := rfl
@[simp] theorem semFail_srPos (s : State) (n : BitVec 8) (inc : Nat) (code : Byte) : (s.semFail n inc code).srPos = s.srPos := rfl
@[simp] theorem semFail_tlb (s : State) (n : BitVec 8) (inc : Nat) (code : Byte) : (s.semFail n inc code).tlb = s.tlb := rfl
@[simp] theorem semFail_tlbOld (s : State) (n : BitVec 8) (inc : Nat) (code : Byte) : (s.semFail n inc code).tlbOld = s.tlbOld := rfl
@[simp] theorem semFail_invals (s : State) (n : BitVec 8) (inc : Nat) (code : Byte) : (s.semFail n inc code).invals = s.invals := rfl
@[simp] theorem semFail_mreg (s : State) (n : BitVec 8) (inc : Nat) (code : Byte) : (s.semFail n inc code).mreg = s.mreg := rfl
@[simp] theorem semFail_launches (s : State) (n : BitVec 8) (inc : Nat) (code : Byte) : (s.semFail n inc code).launches = s.launches := rfl
@[simp] theorem semFail_sched (s : State) (n : BitVec 8) (inc : Nat) (code : Byte) : (s.semFail n inc code).sched = s.sched := rfl
@[simp] theorem semFail_groups (s : State) (n : BitVec 8) (inc : Nat) (code : Byte) : (s.semFail n inc code).groups = s.groups := rfl
@[simp] theorem semFail_fused (s : State) (n : BitVec 8) (inc : Nat) (code : Byte) : (s.semFail n inc code).fused = s.fused := rfl
@[simp] theorem semFail_gtb (s : State) (n : BitVec 8) (inc : Nat) (code : Byte) : (s.semFail n inc code).gtb = s.gtb := rfl
@[simp] theorem semFail_booted (s : State) (n : BitVec 8) (inc : Nat) (code : Byte) : (s.semFail n inc code).booted = s.booted := rfl
@[simp] theorem semFail_halted (s : State) (n : BitVec 8) (inc : Nat) (code : Byte) : (s.semFail n inc code).halted = s.halted := rfl
@[simp] theorem semFail_powered (s : State) (n : BitVec 8) (inc : Nat) (code : Byte) : (s.semFail n inc code).powered = s.powered := rfl
@[simp] theorem semFail_rollback (s : State) (n : BitVec 8) (inc : Nat) (code : Byte) : (s.semFail n inc code).rollback = s.rollback := rfl
@[simp] theorem semFail_image (s : State) (n : BitVec 8) (inc : Nat) (code : Byte) : (s.semFail n inc code).image = s.image := rfl
@[simp] theorem semFail_keyHash (s : State) (n : BitVec 8) (inc : Nat) (code : Byte) : (s.semFail n inc code).keyHash = s.keyHash := rfl
@[simp] theorem semFail_loaded (s : State) (n : BitVec 8) (inc : Nat) (code : Byte) : (s.semFail n inc code).loaded = s.loaded := rfl
@[simp] theorem semFail_tests (s : State) (n : BitVec 8) (inc : Nat) (code : Byte) : (s.semFail n inc code).tests = s.tests := rfl
@[simp] theorem semFail_spares (s : State) (n : BitVec 8) (inc : Nat) (code : Byte) : (s.semFail n inc code).spares = s.spares := rfl
@[simp] theorem semFail_reported (s : State) (n : BitVec 8) (inc : Nat) (code : Byte) : (s.semFail n inc code).reported = s.reported := rfl
@[simp] theorem semFail_retiredUnits (s : State) (n : BitVec 8) (inc : Nat) (code : Byte) : (s.semFail n inc code).retiredUnits = s.retiredUnits := rfl
@[simp] theorem semFail_refAcc (s : State) (n : BitVec 8) (inc : Nat) (code : Byte) : (s.semFail n inc code).refAcc = s.refAcc := rfl
@[simp] theorem semFail_refAt (s : State) (n : BitVec 8) (inc : Nat) (code : Byte) : (s.semFail n inc code).refAt = s.refAt := rfl
@[simp] theorem semFail_owed (s : State) (n : BitVec 8) (inc : Nat) (code : Byte) : (s.semFail n inc code).owed = s.owed := rfl
@[simp] theorem semFail_refDiv (s : State) (n : BitVec 8) (inc : Nat) (code : Byte) : (s.semFail n inc code).refDiv = s.refDiv := rfl
@[simp] theorem semFail_bad (s : State) (n : BitVec 8) (inc : Nat) (code : Byte) : (s.semFail n inc code).bad = s.bad := rfl
@[simp] theorem semFail_corrected (s : State) (n : BitVec 8) (inc : Nat) (code : Byte) : (s.semFail n inc code).corrected = s.corrected := rfl
@[simp] theorem semFail_evalAt (s : State) (n : BitVec 8) (inc : Nat) (code : Byte) : (s.semFail n inc code).evalAt = s.evalAt := rfl
@[simp] theorem semFail_critSeen (s : State) (n : BitVec 8) (inc : Nat) (code : Byte) : (s.semFail n inc code).critSeen = s.critSeen := rfl
@[simp] theorem semFail_power (s : State) (n : BitVec 8) (inc : Nat) (code : Byte) : (s.semFail n inc code).power = s.power := rfl
@[simp] theorem semFail_lostPkgs (s : State) (n : BitVec 8) (inc : Nat) (code : Byte) : (s.semFail n inc code).lostPkgs = s.lostPkgs := rfl
@[simp] theorem semFail_lostPaths (s : State) (n : BitVec 8) (inc : Nat) (code : Byte) : (s.semFail n inc code).lostPaths = s.lostPaths := rfl
@[simp] theorem semFail_routes (s : State) (n : BitVec 8) (inc : Nat) (code : Byte) : (s.semFail n inc code).routes = s.routes := rfl
@[simp] theorem semFail_hart (s : State) (n : BitVec 8) (inc : Nat) (code : Byte) : (s.semFail n inc code).hart = s.hart := rfl
@[simp] theorem semFail_hartNo (s : State) (n : BitVec 8) (inc : Nat) (code : Byte) : (s.semFail n inc code).hartNo = s.hartNo := rfl
@[simp] theorem semFail_harts (s : State) (n : BitVec 8) (inc : Nat) (code : Byte) : (s.semFail n inc code).harts = s.harts := rfl
@[simp] theorem semFail_invalPos (s : State) (n : BitVec 8) (inc : Nat) (code : Byte) : (s.semFail n inc code).invalPos = s.invalPos := rfl
@[simp] theorem semFail_iqSlots (s : State) (n : BitVec 8) (inc : Nat) (code : Byte) : (s.semFail n inc code).iqSlots = s.iqSlots := rfl
@[simp] theorem semFail_iqCmd (s : State) (n : BitVec 8) (inc : Nat) (code : Byte) : (s.semFail n inc code).iqCmd = s.iqCmd := rfl
@[simp] theorem semFail_report (s : State) (n : BitVec 8) (inc : Nat) (code : Byte) : (s.semFail n inc code).report = s.report := rfl
@[simp] theorem semFail_diverged (s : State) (n : BitVec 8) (inc : Nat) (code : Byte) : (s.semFail n inc code).diverged = s.diverged := rfl
@[simp] theorem semFail_hostIn (s : State) (n : BitVec 8) (inc : Nat) (code : Byte) : (s.semFail n inc code).hostIn = s.hostIn := rfl
@[simp] theorem semFail_msix (s : State) (n : BitVec 8) (inc : Nat) (code : Byte) : (s.semFail n inc code).msix = s.msix := rfl
@[simp] theorem semFail_syscoord (s : State) (n : BitVec 8) (inc : Nat) (code : Byte) : (s.semFail n inc code).syscoord = s.syscoord := rfl
@[simp] theorem semFail_agenda (s : State) (n : BitVec 8) (inc : Nat) (code : Byte) : (s.semFail n inc code).agenda = s.agenda := rfl
@[simp] theorem semFail_turn (s : State) (n : BitVec 8) (inc : Nat) (code : Byte) : (s.semFail n inc code).turn = s.turn := rfl
@[simp] theorem semFail_inbox (s : State) (n : BitVec 8) (inc : Nat) (code : Byte) : (s.semFail n inc code).inbox = s.inbox := rfl
@[simp] theorem semFail_choices (s : State) (n : BitVec 8) (inc : Nat) (code : Byte) : (s.semFail n inc code).choices = s.choices := rfl
@[simp] theorem semFail_times (s : State) (n : BitVec 8) (inc : Nat) (code : Byte) : (s.semFail n inc code).times = s.times := rfl
@[simp] theorem semFail_ctx (s : State) (n : BitVec 8) (inc : Nat) (code : Byte) (d : Fin 4) : (s.semFail n inc code).ctx d = s.ctx d :=
  match d with | 0 => rfl | 1 => rfl | 2 => rfl | 3 => rfl

/-! ### Updates of a context -/

@[simp] theorem context_land_shadow (x : Context) (k pos : Nat) (act : Land) (fl : BitVec 6) : (x.land k pos act fl).shadow = x.shadow := rfl
@[simp] theorem context_land_mode (x : Context) (k pos : Nat) (act : Land) (fl : BitVec 6) : (x.land k pos act fl).mode = x.mode := rfl
@[simp] theorem context_land_wait (x : Context) (k pos : Nat) (act : Land) (fl : BitVec 6) : (x.land k pos act fl).wait = x.wait := rfl
@[simp] theorem context_land_lid (x : Context) (k pos : Nat) (act : Land) (fl : BitVec 6) : (x.land k pos act fl).lid = x.lid := rfl
@[simp] theorem context_land_coord (x : Context) (k pos : Nat) (act : Land) (fl : BitVec 6) : (x.land k pos act fl).coord = x.coord := rfl
@[simp] theorem context_land_ctxid (x : Context) (k pos : Nat) (act : Land) (fl : BitVec 6) : (x.land k pos act fl).ctxid = x.ctxid := rfl
@[simp] theorem context_land_asid (x : Context) (k pos : Nat) (act : Land) (fl : BitVec 6) : (x.land k pos act fl).asid = x.asid := rfl
@[simp] theorem context_land_cls (x : Context) (k pos : Nat) (act : Land) (fl : BitVec 6) : (x.land k pos act fl).cls = x.cls := rfl
@[simp] theorem context_land_share (x : Context) (k pos : Nat) (act : Land) (fl : BitVec 6) : (x.land k pos act fl).share = x.share := rfl
@[simp] theorem context_land_tick (x : Context) (k pos : Nat) (act : Land) (fl : BitVec 6) : (x.land k pos act fl).tick = x.tick := rfl
@[simp] theorem context_land_cycles (x : Context) (k pos : Nat) (act : Land) (fl : BitVec 6) : (x.land k pos act fl).cycles = x.cycles := rfl
@[simp] theorem context_land_nextId (x : Context) (k pos : Nat) (act : Land) (fl : BitVec 6) : (x.land k pos act fl).nextId = x.nextId := rfl
@[simp] theorem context_land_hold (x : Context) (k pos : Nat) (act : Land) (fl : BitVec 6) : (x.land k pos act fl).hold = x.hold := rfl
@[simp] theorem context_land_queue (x : Context) (k pos : Nat) (act : Land) (fl : BitVec 6) : (x.land k pos act fl).queue = x.queue := rfl
@[simp] theorem context_land_q0gen (x : Context) (k pos : Nat) (act : Land) (fl : BitVec 6) : (x.land k pos act fl).q0gen = x.q0gen := rfl
@[simp] theorem context_land_qs (x : Context) (k pos : Nat) (act : Land) (fl : BitVec 6) : (x.land k pos act fl).qs = x.qs := rfl
@[simp] theorem context_land_out (x : Context) (k pos : Nat) (act : Land) (fl : BitVec 6) : (x.land k pos act fl).out = x.out := rfl
@[simp] theorem context_land_calls (x : Context) (k pos : Nat) (act : Land) (fl : BitVec 6) : (x.land k pos act fl).calls = x.calls := rfl
@[simp] theorem context_land_cmds (x : Context) (k pos : Nat) (act : Land) (fl : BitVec 6) : (x.land k pos act fl).cmds = x.cmds := rfl
@[simp] theorem context_land_nextOrder (x : Context) (k pos : Nat) (act : Land) (fl : BitVec 6) : (x.land k pos act fl).nextOrder = x.nextOrder := rfl
@[simp] theorem context_land_wbuf (x : Context) (k pos : Nat) (act : Land) (fl : BitVec 6) : (x.land k pos act fl).wbuf = x.wbuf := rfl
@[simp] theorem context_land_ckptDone (x : Context) (k pos : Nat) (act : Land) (fl : BitVec 6) : (x.land k pos act fl).ckptDone = x.ckptDone := rfl
@[simp] theorem context_land_ckptId (x : Context) (k pos : Nat) (act : Land) (fl : BitVec 6) : (x.land k pos act fl).ckptId = x.ckptId := rfl
@[simp] theorem context_land_ckptTick (x : Context) (k pos : Nat) (act : Land) (fl : BitVec 6) : (x.land k pos act fl).ckptTick = x.ckptTick := rfl
@[simp] theorem context_land_hdr (x : Context) (k pos : Nat) (act : Land) (fl : BitVec 6) : (x.land k pos act fl).hdr = x.hdr := rfl
@[simp] theorem context_land_nextPc (x : Context) (k pos : Nat) (act : Land) (fl : BitVec 6) : (x.land k pos act fl).nextPc = x.nextPc := rfl
@[simp] theorem context_land_succ (x : Context) (k pos : Nat) (act : Land) (fl : BitVec 6) : (x.land k pos act fl).succ = x.succ := rfl
@[simp] theorem context_land_succRep (x : Context) (k pos : Nat) (act : Land) (fl : BitVec 6) : (x.land k pos act fl).succRep = x.succRep := rfl
@[simp] theorem context_land_pend (x : Context) (k pos : Nat) (act : Land) (fl : BitVec 6) : (x.land k pos act fl).pend = x.pend := rfl
@[simp] theorem context_land_atoms (x : Context) (k pos : Nat) (act : Land) (fl : BitVec 6) : (x.land k pos act fl).atoms = x.atoms := rfl
@[simp] theorem context_land_replay (x : Context) (k pos : Nat) (act : Land) (fl : BitVec 6) : (x.land k pos act fl).replay = x.replay := rfl
@[simp] theorem context_land_accUndo (x : Context) (k pos : Nat) (act : Land) (fl : BitVec 6) : (x.land k pos act fl).accUndo = x.accUndo := rfl
@[simp] theorem context_land_stallSince (x : Context) (k pos : Nat) (act : Land) (fl : BitVec 6) : (x.land k pos act fl).stallSince = x.stallSince := rfl
@[simp] theorem context_land_faultAt (x : Context) (k pos : Nat) (act : Land) (fl : BitVec 6) : (x.land k pos act fl).faultAt = x.faultAt := rfl
@[simp] theorem context_land_ckptDue (x : Context) (k pos : Nat) (act : Land) (fl : BitVec 6) : (x.land k pos act fl).ckptDue = x.ckptDue := rfl
@[simp] theorem context_land_brkAt (x : Context) (k pos : Nat) (act : Land) (fl : BitVec 6) : (x.land k pos act fl).brkAt = x.brkAt := rfl
@[simp] theorem context_land_brkPassed (x : Context) (k pos : Nat) (act : Land) (fl : BitVec 6) : (x.land k pos act fl).brkPassed = x.brkPassed := rfl
@[simp] theorem context_land_brkCode (x : Context) (k pos : Nat) (act : Land) (fl : BitVec 6) : (x.land k pos act fl).brkCode = x.brkCode := rfl
@[simp] theorem context_land_stopReq (x : Context) (k pos : Nat) (act : Land) (fl : BitVec 6) : (x.land k pos act fl).stopReq = x.stopReq := rfl
@[simp] theorem context_land_preReq (x : Context) (k pos : Nat) (act : Land) (fl : BitVec 6) : (x.land k pos act fl).preReq = x.preReq := rfl
@[simp] theorem context_land_traceLeft (x : Context) (k pos : Nat) (act : Land) (fl : BitVec 6) : (x.land k pos act fl).traceLeft = x.traceLeft := rfl
@[simp] theorem context_land_traceArm (x : Context) (k pos : Nat) (act : Land) (fl : BitVec 6) : (x.land k pos act fl).traceArm = x.traceArm := rfl
@[simp] theorem context_land_traceCause (x : Context) (k pos : Nat) (act : Land) (fl : BitVec 6) : (x.land k pos act fl).traceCause = x.traceCause := rfl
@[simp] theorem context_land_lastCause (x : Context) (k pos : Nat) (act : Land) (fl : BitVec 6) : (x.land k pos act fl).lastCause = x.lastCause := rfl
@[simp] theorem context_land_lastLoop (x : Context) (k pos : Nat) (act : Land) (fl : BitVec 6) : (x.land k pos act fl).lastLoop = x.lastLoop := rfl
@[simp] theorem context_land_lastPc (x : Context) (k pos : Nat) (act : Land) (fl : BitVec 6) : (x.land k pos act fl).lastPc = x.lastPc := rfl
@[simp] theorem context_land_logWait (x : Context) (k pos : Nat) (act : Land) (fl : BitVec 6) : (x.land k pos act fl).logWait = x.logWait := rfl
@[simp] theorem context_land_sig (x : Context) (k pos : Nat) (act : Land) (fl : BitVec 6) : (x.land k pos act fl).sig = x.sig := rfl
@[simp] theorem context_land_rplBase (x : Context) (k pos : Nat) (act : Land) (fl : BitVec 6) : (x.land k pos act fl).rplBase = x.rplBase := rfl
@[simp] theorem context_land_rplPos (x : Context) (k pos : Nat) (act : Land) (fl : BitVec 6) : (x.land k pos act fl).rplPos = x.rplPos := rfl
@[simp] theorem context_land_rplOff (x : Context) (k pos : Nat) (act : Land) (fl : BitVec 6) : (x.land k pos act fl).rplOff = x.rplOff := rfl
@[simp] theorem context_land_rplNew (x : Context) (k pos : Nat) (act : Land) (fl : BitVec 6) : (x.land k pos act fl).rplNew = x.rplNew := rfl
@[simp] theorem context_land_rplRedo (x : Context) (k pos : Nat) (act : Land) (fl : BitVec 6) : (x.land k pos act fl).rplRedo = x.rplRedo := rfl
@[simp] theorem context_land_rplAt (x : Context) (k pos : Nat) (act : Land) (fl : BitVec 6) : (x.land k pos act fl).rplAt = x.rplAt := rfl
@[simp] theorem context_land_rplAtCk (x : Context) (k pos : Nat) (act : Land) (fl : BitVec 6) : (x.land k pos act fl).rplAtCk = x.rplAtCk := rfl
@[simp] theorem context_land_tileDone (x : Context) (k pos : Nat) (act : Land) (fl : BitVec 6) : (x.land k pos act fl).tileDone = x.tileDone := rfl
@[simp] theorem context_land_tileSkip (x : Context) (k pos : Nat) (act : Land) (fl : BitVec 6) : (x.land k pos act fl).tileSkip = x.tileSkip := rfl
@[simp] theorem context_land_guardAt (x : Context) (k pos : Nat) (act : Land) (fl : BitVec 6) : (x.land k pos act fl).guardAt = x.guardAt := rfl
@[simp] theorem context_land_lastMark (x : Context) (k pos : Nat) (act : Land) (fl : BitVec 6) : (x.land k pos act fl).lastMark = x.lastMark := rfl
@[simp] theorem context_land_order (x : Context) (k pos : Nat) (act : Land) (fl : BitVec 6) : (x.land k pos act fl).order = x.order := rfl
@[simp] theorem context_land_savedNode (x : Context) (k pos : Nat) (act : Land) (fl : BitVec 6) : (x.land k pos act fl).savedNode = x.savedNode := rfl
@[simp] theorem context_land_savedLive (x : Context) (k pos : Nat) (act : Land) (fl : BitVec 6) : (x.land k pos act fl).savedLive = x.savedLive := rfl

@[simp] theorem context_land_arch (x : Context) (k pos : Nat) (act : Land) (fl : BitVec 6) : (x.land k pos act fl).arch =
    { x.arch with landing := x.arch.landing ++ [{ due := x.tick + (k - 1), pos, act, flags := fl }] } := rfl

@[simp] theorem context_modArch_shadow (x : Context) (f : Arch → Arch) : (x.modArch f).shadow = x.shadow := rfl
@[simp] theorem context_modArch_mode (x : Context) (f : Arch → Arch) : (x.modArch f).mode = x.mode := rfl
@[simp] theorem context_modArch_wait (x : Context) (f : Arch → Arch) : (x.modArch f).wait = x.wait := rfl
@[simp] theorem context_modArch_lid (x : Context) (f : Arch → Arch) : (x.modArch f).lid = x.lid := rfl
@[simp] theorem context_modArch_coord (x : Context) (f : Arch → Arch) : (x.modArch f).coord = x.coord := rfl
@[simp] theorem context_modArch_ctxid (x : Context) (f : Arch → Arch) : (x.modArch f).ctxid = x.ctxid := rfl
@[simp] theorem context_modArch_asid (x : Context) (f : Arch → Arch) : (x.modArch f).asid = x.asid := rfl
@[simp] theorem context_modArch_cls (x : Context) (f : Arch → Arch) : (x.modArch f).cls = x.cls := rfl
@[simp] theorem context_modArch_share (x : Context) (f : Arch → Arch) : (x.modArch f).share = x.share := rfl
@[simp] theorem context_modArch_tick (x : Context) (f : Arch → Arch) : (x.modArch f).tick = x.tick := rfl
@[simp] theorem context_modArch_cycles (x : Context) (f : Arch → Arch) : (x.modArch f).cycles = x.cycles := rfl
@[simp] theorem context_modArch_nextId (x : Context) (f : Arch → Arch) : (x.modArch f).nextId = x.nextId := rfl
@[simp] theorem context_modArch_hold (x : Context) (f : Arch → Arch) : (x.modArch f).hold = x.hold := rfl
@[simp] theorem context_modArch_queue (x : Context) (f : Arch → Arch) : (x.modArch f).queue = x.queue := rfl
@[simp] theorem context_modArch_q0gen (x : Context) (f : Arch → Arch) : (x.modArch f).q0gen = x.q0gen := rfl
@[simp] theorem context_modArch_qs (x : Context) (f : Arch → Arch) : (x.modArch f).qs = x.qs := rfl
@[simp] theorem context_modArch_out (x : Context) (f : Arch → Arch) : (x.modArch f).out = x.out := rfl
@[simp] theorem context_modArch_calls (x : Context) (f : Arch → Arch) : (x.modArch f).calls = x.calls := rfl
@[simp] theorem context_modArch_cmds (x : Context) (f : Arch → Arch) : (x.modArch f).cmds = x.cmds := rfl
@[simp] theorem context_modArch_nextOrder (x : Context) (f : Arch → Arch) : (x.modArch f).nextOrder = x.nextOrder := rfl
@[simp] theorem context_modArch_wbuf (x : Context) (f : Arch → Arch) : (x.modArch f).wbuf = x.wbuf := rfl
@[simp] theorem context_modArch_ckptDone (x : Context) (f : Arch → Arch) : (x.modArch f).ckptDone = x.ckptDone := rfl
@[simp] theorem context_modArch_ckptId (x : Context) (f : Arch → Arch) : (x.modArch f).ckptId = x.ckptId := rfl
@[simp] theorem context_modArch_ckptTick (x : Context) (f : Arch → Arch) : (x.modArch f).ckptTick = x.ckptTick := rfl
@[simp] theorem context_modArch_hdr (x : Context) (f : Arch → Arch) : (x.modArch f).hdr = x.hdr := rfl
@[simp] theorem context_modArch_nextPc (x : Context) (f : Arch → Arch) : (x.modArch f).nextPc = x.nextPc := rfl
@[simp] theorem context_modArch_succ (x : Context) (f : Arch → Arch) : (x.modArch f).succ = x.succ := rfl
@[simp] theorem context_modArch_succRep (x : Context) (f : Arch → Arch) : (x.modArch f).succRep = x.succRep := rfl
@[simp] theorem context_modArch_pend (x : Context) (f : Arch → Arch) : (x.modArch f).pend = x.pend := rfl
@[simp] theorem context_modArch_atoms (x : Context) (f : Arch → Arch) : (x.modArch f).atoms = x.atoms := rfl
@[simp] theorem context_modArch_replay (x : Context) (f : Arch → Arch) : (x.modArch f).replay = x.replay := rfl
@[simp] theorem context_modArch_accUndo (x : Context) (f : Arch → Arch) : (x.modArch f).accUndo = x.accUndo := rfl
@[simp] theorem context_modArch_stallSince (x : Context) (f : Arch → Arch) : (x.modArch f).stallSince = x.stallSince := rfl
@[simp] theorem context_modArch_faultAt (x : Context) (f : Arch → Arch) : (x.modArch f).faultAt = x.faultAt := rfl
@[simp] theorem context_modArch_ckptDue (x : Context) (f : Arch → Arch) : (x.modArch f).ckptDue = x.ckptDue := rfl
@[simp] theorem context_modArch_brkAt (x : Context) (f : Arch → Arch) : (x.modArch f).brkAt = x.brkAt := rfl
@[simp] theorem context_modArch_brkPassed (x : Context) (f : Arch → Arch) : (x.modArch f).brkPassed = x.brkPassed := rfl
@[simp] theorem context_modArch_brkCode (x : Context) (f : Arch → Arch) : (x.modArch f).brkCode = x.brkCode := rfl
@[simp] theorem context_modArch_stopReq (x : Context) (f : Arch → Arch) : (x.modArch f).stopReq = x.stopReq := rfl
@[simp] theorem context_modArch_preReq (x : Context) (f : Arch → Arch) : (x.modArch f).preReq = x.preReq := rfl
@[simp] theorem context_modArch_traceLeft (x : Context) (f : Arch → Arch) : (x.modArch f).traceLeft = x.traceLeft := rfl
@[simp] theorem context_modArch_traceArm (x : Context) (f : Arch → Arch) : (x.modArch f).traceArm = x.traceArm := rfl
@[simp] theorem context_modArch_traceCause (x : Context) (f : Arch → Arch) : (x.modArch f).traceCause = x.traceCause := rfl
@[simp] theorem context_modArch_lastCause (x : Context) (f : Arch → Arch) : (x.modArch f).lastCause = x.lastCause := rfl
@[simp] theorem context_modArch_lastLoop (x : Context) (f : Arch → Arch) : (x.modArch f).lastLoop = x.lastLoop := rfl
@[simp] theorem context_modArch_lastPc (x : Context) (f : Arch → Arch) : (x.modArch f).lastPc = x.lastPc := rfl
@[simp] theorem context_modArch_logWait (x : Context) (f : Arch → Arch) : (x.modArch f).logWait = x.logWait := rfl
@[simp] theorem context_modArch_sig (x : Context) (f : Arch → Arch) : (x.modArch f).sig = x.sig := rfl
@[simp] theorem context_modArch_rplBase (x : Context) (f : Arch → Arch) : (x.modArch f).rplBase = x.rplBase := rfl
@[simp] theorem context_modArch_rplPos (x : Context) (f : Arch → Arch) : (x.modArch f).rplPos = x.rplPos := rfl
@[simp] theorem context_modArch_rplOff (x : Context) (f : Arch → Arch) : (x.modArch f).rplOff = x.rplOff := rfl
@[simp] theorem context_modArch_rplNew (x : Context) (f : Arch → Arch) : (x.modArch f).rplNew = x.rplNew := rfl
@[simp] theorem context_modArch_rplRedo (x : Context) (f : Arch → Arch) : (x.modArch f).rplRedo = x.rplRedo := rfl
@[simp] theorem context_modArch_rplAt (x : Context) (f : Arch → Arch) : (x.modArch f).rplAt = x.rplAt := rfl
@[simp] theorem context_modArch_rplAtCk (x : Context) (f : Arch → Arch) : (x.modArch f).rplAtCk = x.rplAtCk := rfl
@[simp] theorem context_modArch_tileDone (x : Context) (f : Arch → Arch) : (x.modArch f).tileDone = x.tileDone := rfl
@[simp] theorem context_modArch_tileSkip (x : Context) (f : Arch → Arch) : (x.modArch f).tileSkip = x.tileSkip := rfl
@[simp] theorem context_modArch_guardAt (x : Context) (f : Arch → Arch) : (x.modArch f).guardAt = x.guardAt := rfl
@[simp] theorem context_modArch_lastMark (x : Context) (f : Arch → Arch) : (x.modArch f).lastMark = x.lastMark := rfl
@[simp] theorem context_modArch_order (x : Context) (f : Arch → Arch) : (x.modArch f).order = x.order := rfl
@[simp] theorem context_modArch_savedNode (x : Context) (f : Arch → Arch) : (x.modArch f).savedNode = x.savedNode := rfl
@[simp] theorem context_modArch_savedLive (x : Context) (f : Arch → Arch) : (x.modArch f).savedLive = x.savedLive := rfl

@[simp] theorem context_modArch_arch (x : Context) (f : Arch → Arch) : (x.modArch f).arch = f x.arch := rfl

@[simp] theorem context_raise_mode (x : Context) (f : BitVec 6) : (x.raise f).mode = x.mode := rfl
@[simp] theorem context_raise_wait (x : Context) (f : BitVec 6) : (x.raise f).wait = x.wait := rfl
@[simp] theorem context_raise_lid (x : Context) (f : BitVec 6) : (x.raise f).lid = x.lid := rfl
@[simp] theorem context_raise_coord (x : Context) (f : BitVec 6) : (x.raise f).coord = x.coord := rfl
@[simp] theorem context_raise_ctxid (x : Context) (f : BitVec 6) : (x.raise f).ctxid = x.ctxid := rfl
@[simp] theorem context_raise_asid (x : Context) (f : BitVec 6) : (x.raise f).asid = x.asid := rfl
@[simp] theorem context_raise_cls (x : Context) (f : BitVec 6) : (x.raise f).cls = x.cls := rfl
@[simp] theorem context_raise_share (x : Context) (f : BitVec 6) : (x.raise f).share = x.share := rfl
@[simp] theorem context_raise_tick (x : Context) (f : BitVec 6) : (x.raise f).tick = x.tick := rfl
@[simp] theorem context_raise_cycles (x : Context) (f : BitVec 6) : (x.raise f).cycles = x.cycles := rfl
@[simp] theorem context_raise_nextId (x : Context) (f : BitVec 6) : (x.raise f).nextId = x.nextId := rfl
@[simp] theorem context_raise_hold (x : Context) (f : BitVec 6) : (x.raise f).hold = x.hold := rfl
@[simp] theorem context_raise_queue (x : Context) (f : BitVec 6) : (x.raise f).queue = x.queue := rfl
@[simp] theorem context_raise_q0gen (x : Context) (f : BitVec 6) : (x.raise f).q0gen = x.q0gen := rfl
@[simp] theorem context_raise_qs (x : Context) (f : BitVec 6) : (x.raise f).qs = x.qs := rfl
@[simp] theorem context_raise_out (x : Context) (f : BitVec 6) : (x.raise f).out = x.out := rfl
@[simp] theorem context_raise_calls (x : Context) (f : BitVec 6) : (x.raise f).calls = x.calls := rfl
@[simp] theorem context_raise_cmds (x : Context) (f : BitVec 6) : (x.raise f).cmds = x.cmds := rfl
@[simp] theorem context_raise_nextOrder (x : Context) (f : BitVec 6) : (x.raise f).nextOrder = x.nextOrder := rfl
@[simp] theorem context_raise_wbuf (x : Context) (f : BitVec 6) : (x.raise f).wbuf = x.wbuf := rfl
@[simp] theorem context_raise_ckptDone (x : Context) (f : BitVec 6) : (x.raise f).ckptDone = x.ckptDone := rfl
@[simp] theorem context_raise_ckptId (x : Context) (f : BitVec 6) : (x.raise f).ckptId = x.ckptId := rfl
@[simp] theorem context_raise_ckptTick (x : Context) (f : BitVec 6) : (x.raise f).ckptTick = x.ckptTick := rfl
@[simp] theorem context_raise_hdr (x : Context) (f : BitVec 6) : (x.raise f).hdr = x.hdr := rfl
@[simp] theorem context_raise_nextPc (x : Context) (f : BitVec 6) : (x.raise f).nextPc = x.nextPc := rfl
@[simp] theorem context_raise_succ (x : Context) (f : BitVec 6) : (x.raise f).succ = x.succ := rfl
@[simp] theorem context_raise_succRep (x : Context) (f : BitVec 6) : (x.raise f).succRep = x.succRep := rfl
@[simp] theorem context_raise_pend (x : Context) (f : BitVec 6) : (x.raise f).pend = x.pend := rfl
@[simp] theorem context_raise_atoms (x : Context) (f : BitVec 6) : (x.raise f).atoms = x.atoms := rfl
@[simp] theorem context_raise_replay (x : Context) (f : BitVec 6) : (x.raise f).replay = x.replay := rfl
@[simp] theorem context_raise_accUndo (x : Context) (f : BitVec 6) : (x.raise f).accUndo = x.accUndo := rfl
@[simp] theorem context_raise_stallSince (x : Context) (f : BitVec 6) : (x.raise f).stallSince = x.stallSince := rfl
@[simp] theorem context_raise_faultAt (x : Context) (f : BitVec 6) : (x.raise f).faultAt = x.faultAt := rfl
@[simp] theorem context_raise_ckptDue (x : Context) (f : BitVec 6) : (x.raise f).ckptDue = x.ckptDue := rfl
@[simp] theorem context_raise_brkAt (x : Context) (f : BitVec 6) : (x.raise f).brkAt = x.brkAt := rfl
@[simp] theorem context_raise_brkPassed (x : Context) (f : BitVec 6) : (x.raise f).brkPassed = x.brkPassed := rfl
@[simp] theorem context_raise_brkCode (x : Context) (f : BitVec 6) : (x.raise f).brkCode = x.brkCode := rfl
@[simp] theorem context_raise_stopReq (x : Context) (f : BitVec 6) : (x.raise f).stopReq = x.stopReq := rfl
@[simp] theorem context_raise_preReq (x : Context) (f : BitVec 6) : (x.raise f).preReq = x.preReq := rfl
@[simp] theorem context_raise_traceLeft (x : Context) (f : BitVec 6) : (x.raise f).traceLeft = x.traceLeft := rfl
@[simp] theorem context_raise_traceArm (x : Context) (f : BitVec 6) : (x.raise f).traceArm = x.traceArm := rfl
@[simp] theorem context_raise_traceCause (x : Context) (f : BitVec 6) : (x.raise f).traceCause = x.traceCause := rfl
@[simp] theorem context_raise_lastCause (x : Context) (f : BitVec 6) : (x.raise f).lastCause = x.lastCause := rfl
@[simp] theorem context_raise_lastLoop (x : Context) (f : BitVec 6) : (x.raise f).lastLoop = x.lastLoop := rfl
@[simp] theorem context_raise_lastPc (x : Context) (f : BitVec 6) : (x.raise f).lastPc = x.lastPc := rfl
@[simp] theorem context_raise_logWait (x : Context) (f : BitVec 6) : (x.raise f).logWait = x.logWait := rfl
@[simp] theorem context_raise_sig (x : Context) (f : BitVec 6) : (x.raise f).sig = x.sig := rfl
@[simp] theorem context_raise_rplBase (x : Context) (f : BitVec 6) : (x.raise f).rplBase = x.rplBase := rfl
@[simp] theorem context_raise_rplPos (x : Context) (f : BitVec 6) : (x.raise f).rplPos = x.rplPos := rfl
@[simp] theorem context_raise_rplOff (x : Context) (f : BitVec 6) : (x.raise f).rplOff = x.rplOff := rfl
@[simp] theorem context_raise_rplNew (x : Context) (f : BitVec 6) : (x.raise f).rplNew = x.rplNew := rfl
@[simp] theorem context_raise_rplRedo (x : Context) (f : BitVec 6) : (x.raise f).rplRedo = x.rplRedo := rfl
@[simp] theorem context_raise_rplAt (x : Context) (f : BitVec 6) : (x.raise f).rplAt = x.rplAt := rfl
@[simp] theorem context_raise_rplAtCk (x : Context) (f : BitVec 6) : (x.raise f).rplAtCk = x.rplAtCk := rfl
@[simp] theorem context_raise_tileDone (x : Context) (f : BitVec 6) : (x.raise f).tileDone = x.tileDone := rfl
@[simp] theorem context_raise_tileSkip (x : Context) (f : BitVec 6) : (x.raise f).tileSkip = x.tileSkip := rfl
@[simp] theorem context_raise_guardAt (x : Context) (f : BitVec 6) : (x.raise f).guardAt = x.guardAt := rfl
@[simp] theorem context_raise_lastMark (x : Context) (f : BitVec 6) : (x.raise f).lastMark = x.lastMark := rfl
@[simp] theorem context_raise_order (x : Context) (f : BitVec 6) : (x.raise f).order = x.order := rfl
@[simp] theorem context_raise_savedNode (x : Context) (f : BitVec 6) : (x.raise f).savedNode = x.savedNode := rfl
@[simp] theorem context_raise_savedLive (x : Context) (f : BitVec 6) : (x.raise f).savedLive = x.savedLive := rfl

@[simp] theorem context_checkpoint_arch (x : Context) : (x.checkpoint).arch = x.arch := rfl
@[simp] theorem context_checkpoint_mode (x : Context) : (x.checkpoint).mode = x.mode := rfl
@[simp] theorem context_checkpoint_wait (x : Context) : (x.checkpoint).wait = x.wait := rfl
@[simp] theorem context_checkpoint_lid (x : Context) : (x.checkpoint).lid = x.lid := rfl
@[simp] theorem context_checkpoint_coord (x : Context) : (x.checkpoint).coord = x.coord := rfl
@[simp] theorem context_checkpoint_ctxid (x : Context) : (x.checkpoint).ctxid = x.ctxid := rfl
@[simp] theorem context_checkpoint_asid (x : Context) : (x.checkpoint).asid = x.asid := rfl
@[simp] theorem context_checkpoint_cls (x : Context) : (x.checkpoint).cls = x.cls := rfl
@[simp] theorem context_checkpoint_share (x : Context) : (x.checkpoint).share = x.share := rfl
@[simp] theorem context_checkpoint_tick (x : Context) : (x.checkpoint).tick = x.tick := rfl
@[simp] theorem context_checkpoint_cycles (x : Context) : (x.checkpoint).cycles = x.cycles := rfl
@[simp] theorem context_checkpoint_nextId (x : Context) : (x.checkpoint).nextId = x.nextId := rfl
@[simp] theorem context_checkpoint_q0gen (x : Context) : (x.checkpoint).q0gen = x.q0gen := rfl
@[simp] theorem context_checkpoint_out (x : Context) : (x.checkpoint).out = x.out := rfl
@[simp] theorem context_checkpoint_nextOrder (x : Context) : (x.checkpoint).nextOrder = x.nextOrder := rfl
@[simp] theorem context_checkpoint_wbuf (x : Context) : (x.checkpoint).wbuf = x.wbuf := rfl
@[simp] theorem context_checkpoint_hdr (x : Context) : (x.checkpoint).hdr = x.hdr := rfl
@[simp] theorem context_checkpoint_nextPc (x : Context) : (x.checkpoint).nextPc = x.nextPc := rfl
@[simp] theorem context_checkpoint_succ (x : Context) : (x.checkpoint).succ = x.succ := rfl
@[simp] theorem context_checkpoint_succRep (x : Context) : (x.checkpoint).succRep = x.succRep := rfl
@[simp] theorem context_checkpoint_pend (x : Context) : (x.checkpoint).pend = x.pend := rfl
@[simp] theorem context_checkpoint_stallSince (x : Context) : (x.checkpoint).stallSince = x.stallSince := rfl
@[simp] theorem context_checkpoint_faultAt (x : Context) : (x.checkpoint).faultAt = x.faultAt := rfl
@[simp] theorem context_checkpoint_brkAt (x : Context) : (x.checkpoint).brkAt = x.brkAt := rfl
@[simp] theorem context_checkpoint_brkPassed (x : Context) : (x.checkpoint).brkPassed = x.brkPassed := rfl
@[simp] theorem context_checkpoint_brkCode (x : Context) : (x.checkpoint).brkCode = x.brkCode := rfl
@[simp] theorem context_checkpoint_stopReq (x : Context) : (x.checkpoint).stopReq = x.stopReq := rfl
@[simp] theorem context_checkpoint_preReq (x : Context) : (x.checkpoint).preReq = x.preReq := rfl
@[simp] theorem context_checkpoint_traceLeft (x : Context) : (x.checkpoint).traceLeft = x.traceLeft := rfl
@[simp] theorem context_checkpoint_traceArm (x : Context) : (x.checkpoint).traceArm = x.traceArm := rfl
@[simp] theorem context_checkpoint_traceCause (x : Context) : (x.checkpoint).traceCause = x.traceCause := rfl
@[simp] theorem context_checkpoint_lastCause (x : Context) : (x.checkpoint).lastCause = x.lastCause := rfl
@[simp] theorem context_checkpoint_lastLoop (x : Context) : (x.checkpoint).lastLoop = x.lastLoop := rfl
@[simp] theorem context_checkpoint_lastPc (x : Context) : (x.checkpoint).lastPc = x.lastPc := rfl
@[simp] theorem context_checkpoint_logWait (x : Context) : (x.checkpoint).logWait = x.logWait := rfl
@[simp] theorem context_checkpoint_rplBase (x : Context) : (x.checkpoint).rplBase = x.rplBase := rfl
@[simp] theorem context_checkpoint_rplPos (x : Context) : (x.checkpoint).rplPos = x.rplPos := rfl
@[simp] theorem context_checkpoint_rplOff (x : Context) : (x.checkpoint).rplOff = x.rplOff := rfl
@[simp] theorem context_checkpoint_rplAt (x : Context) : (x.checkpoint).rplAt = x.rplAt := rfl
@[simp] theorem context_checkpoint_guardAt (x : Context) : (x.checkpoint).guardAt = x.guardAt := rfl
@[simp] theorem context_checkpoint_lastMark (x : Context) : (x.checkpoint).lastMark = x.lastMark := rfl
@[simp] theorem context_checkpoint_order (x : Context) : (x.checkpoint).order = x.order := rfl
@[simp] theorem context_checkpoint_savedNode (x : Context) : (x.checkpoint).savedNode = x.savedNode := rfl
@[simp] theorem context_checkpoint_savedLive (x : Context) : (x.checkpoint).savedLive = x.savedLive := rfl

@[simp] theorem context_restore_shadow (x : Context) : (x.restore).shadow = x.shadow := rfl
@[simp] theorem context_restore_mode (x : Context) : (x.restore).mode = x.mode := rfl
@[simp] theorem context_restore_lid (x : Context) : (x.restore).lid = x.lid := rfl
@[simp] theorem context_restore_coord (x : Context) : (x.restore).coord = x.coord := rfl
@[simp] theorem context_restore_ctxid (x : Context) : (x.restore).ctxid = x.ctxid := rfl
@[simp] theorem context_restore_asid (x : Context) : (x.restore).asid = x.asid := rfl
@[simp] theorem context_restore_cls (x : Context) : (x.restore).cls = x.cls := rfl
@[simp] theorem context_restore_share (x : Context) : (x.restore).share = x.share := rfl
@[simp] theorem context_restore_tick (x : Context) : (x.restore).tick = x.tick := rfl
@[simp] theorem context_restore_cycles (x : Context) : (x.restore).cycles = x.cycles := rfl
@[simp] theorem context_restore_nextId (x : Context) : (x.restore).nextId = x.nextId := rfl
@[simp] theorem context_restore_nextOrder (x : Context) : (x.restore).nextOrder = x.nextOrder := rfl
@[simp] theorem context_restore_wbuf (x : Context) : (x.restore).wbuf = x.wbuf := rfl
@[simp] theorem context_restore_ckptId (x : Context) : (x.restore).ckptId = x.ckptId := rfl
@[simp] theorem context_restore_ckptTick (x : Context) : (x.restore).ckptTick = x.ckptTick := rfl
@[simp] theorem context_restore_hdr (x : Context) : (x.restore).hdr = x.hdr := rfl
@[simp] theorem context_restore_succ (x : Context) : (x.restore).succ = x.succ := rfl
@[simp] theorem context_restore_succRep (x : Context) : (x.restore).succRep = x.succRep := rfl
@[simp] theorem context_restore_pend (x : Context) : (x.restore).pend = x.pend := rfl
@[simp] theorem context_restore_stallSince (x : Context) : (x.restore).stallSince = x.stallSince := rfl
@[simp] theorem context_restore_faultAt (x : Context) : (x.restore).faultAt = x.faultAt := rfl
@[simp] theorem context_restore_ckptDue (x : Context) : (x.restore).ckptDue = x.ckptDue := rfl
@[simp] theorem context_restore_brkAt (x : Context) : (x.restore).brkAt = x.brkAt := rfl
@[simp] theorem context_restore_brkPassed (x : Context) : (x.restore).brkPassed = x.brkPassed := rfl
@[simp] theorem context_restore_brkCode (x : Context) : (x.restore).brkCode = x.brkCode := rfl
@[simp] theorem context_restore_stopReq (x : Context) : (x.restore).stopReq = x.stopReq := rfl
@[simp] theorem context_restore_preReq (x : Context) : (x.restore).preReq = x.preReq := rfl
@[simp] theorem context_restore_traceLeft (x : Context) : (x.restore).traceLeft = x.traceLeft := rfl
@[simp] theorem context_restore_traceArm (x : Context) : (x.restore).traceArm = x.traceArm := rfl
@[simp] theorem context_restore_traceCause (x : Context) : (x.restore).traceCause = x.traceCause := rfl
@[simp] theorem context_restore_lastCause (x : Context) : (x.restore).lastCause = x.lastCause := rfl
@[simp] theorem context_restore_lastLoop (x : Context) : (x.restore).lastLoop = x.lastLoop := rfl
@[simp] theorem context_restore_lastPc (x : Context) : (x.restore).lastPc = x.lastPc := rfl
@[simp] theorem context_restore_logWait (x : Context) : (x.restore).logWait = x.logWait := rfl
@[simp] theorem context_restore_sig (x : Context) : (x.restore).sig = x.sig := rfl
@[simp] theorem context_restore_rplBase (x : Context) : (x.restore).rplBase = x.rplBase := rfl
@[simp] theorem context_restore_rplPos (x : Context) : (x.restore).rplPos = x.rplPos := rfl
@[simp] theorem context_restore_rplOff (x : Context) : (x.restore).rplOff = x.rplOff := rfl
@[simp] theorem context_restore_rplAtCk (x : Context) : (x.restore).rplAtCk = x.rplAtCk := rfl
@[simp] theorem context_restore_guardAt (x : Context) : (x.restore).guardAt = x.guardAt := rfl
@[simp] theorem context_restore_lastMark (x : Context) : (x.restore).lastMark = x.lastMark := rfl
@[simp] theorem context_restore_order (x : Context) : (x.restore).order = x.order := rfl
@[simp] theorem context_restore_savedNode (x : Context) : (x.restore).savedNode = x.savedNode := rfl
@[simp] theorem context_restore_savedLive (x : Context) : (x.restore).savedLive = x.savedLive := rfl

/-! ### Updates of the restorable state -/

@[simp] theorem arch_putLanes_s (x : Arch) (grp r : Nat) (mask : BitVec 16) (ys : List W32) : (x.putLanes grp r mask ys).s = x.s := rfl
@[simp] theorem arch_putLanes_g (x : Arch) (grp r : Nat) (mask : BitVec 16) (ys : List W32) : (x.putLanes grp r mask ys).g = x.g := rfl
@[simp] theorem arch_putLanes_k (x : Arch) (grp r : Nat) (mask : BitVec 16) (ys : List W32) : (x.putLanes grp r mask ys).k = x.k := rfl
@[simp] theorem arch_putLanes_m (x : Arch) (grp r : Nat) (mask : BitVec 16) (ys : List W32) : (x.putLanes grp r mask ys).m = x.m := rfl
@[simp] theorem arch_putLanes_esd (x : Arch) (grp r : Nat) (mask : BitVec 16) (ys : List W32) : (x.putLanes grp r mask ys).esd = x.esd := rfl
@[simp] theorem arch_putLanes_esw (x : Arch) (grp r : Nat) (mask : BitVec 16) (ys : List W32) : (x.putLanes grp r mask ys).esw = x.esw := rfl
@[simp] theorem arch_putLanes_lps (x : Arch) (grp r : Nat) (mask : BitVec 16) (ys : List W32) : (x.putLanes grp r mask ys).lps = x.lps := rfl
@[simp] theorem arch_putLanes_lbuf (x : Arch) (grp r : Nat) (mask : BitVec 16) (ys : List W32) : (x.putLanes grp r mask ys).lbuf = x.lbuf := rfl
@[simp] theorem arch_putLanes_bx (x : Arch) (grp r : Nat) (mask : BitVec 16) (ys : List W32) : (x.putLanes grp r mask ys).bx = x.bx := rfl
@[simp] theorem arch_putLanes_latches (x : Arch) (grp r : Nat) (mask : BitVec 16) (ys : List W32) : (x.putLanes grp r mask ys).latches = x.latches := rfl
@[simp] theorem arch_putLanes_landing (x : Arch) (grp r : Nat) (mask : BitVec 16) (ys : List W32) : (x.putLanes grp r mask ys).landing = x.landing := rfl
@[simp] theorem arch_putLanes_fcr (x : Arch) (grp r : Nat) (mask : BitVec 16) (ys : List W32) : (x.putLanes grp r mask ys).fcr = x.fcr := rfl
@[simp] theorem arch_putLanes_fsr (x : Arch) (grp r : Nat) (mask : BitVec 16) (ys : List W32) : (x.putLanes grp r mask ys).fsr = x.fsr := rfl
@[simp] theorem arch_putLanes_lscale (x : Arch) (grp r : Nat) (mask : BitVec 16) (ys : List W32) : (x.putLanes grp r mask ys).lscale = x.lscale := rfl
@[simp] theorem arch_putLanes_lscfg (x : Arch) (grp r : Nat) (mask : BitVec 16) (ys : List W32) : (x.putLanes grp r mask ys).lscfg = x.lscfg := rfl
@[simp] theorem arch_putLanes_rkey (x : Arch) (grp r : Nat) (mask : BitVec 16) (ys : List W32) : (x.putLanes grp r mask ys).rkey = x.rkey := rfl
@[simp] theorem arch_putLanes_rctr (x : Arch) (grp r : Nat) (mask : BitVec 16) (ys : List W32) : (x.putLanes grp r mask ys).rctr = x.rctr := rfl
@[simp] theorem arch_putLanes_trel (x : Arch) (grp r : Nat) (mask : BitVec 16) (ys : List W32) : (x.putLanes grp r mask ys).trel = x.trel := rfl
@[simp] theorem arch_putLanes_hbase (x : Arch) (grp r : Nat) (mask : BitVec 16) (ys : List W32) : (x.putLanes grp r mask ys).hbase = x.hbase := rfl
@[simp] theorem arch_putLanes_hlimit (x : Arch) (grp r : Nat) (mask : BitVec 16) (ys : List W32) : (x.putLanes grp r mask ys).hlimit = x.hlimit := rfl
@[simp] theorem arch_putLanes_hoffs (x : Arch) (grp r : Nat) (mask : BitVec 16) (ys : List W32) : (x.putLanes grp r mask ys).hoffs = x.hoffs := rfl
@[simp] theorem arch_putLanes_driftcfg (x : Arch) (grp r : Nat) (mask : BitVec 16) (ys : List W32) : (x.putLanes grp r mask ys).driftcfg = x.driftcfg := rfl
@[simp] theorem arch_putLanes_tracecfg (x : Arch) (grp r : Nat) (mask : BitVec 16) (ys : List W32) : (x.putLanes grp r mask ys).tracecfg = x.tracecfg := rfl
@[simp] theorem arch_putLanes_pc (x : Arch) (grp r : Nat) (mask : BitVec 16) (ys : List W32) : (x.putLanes grp r mask ys).pc = x.pc := rfl
@[simp] theorem arch_putLanes_rep (x : Arch) (grp r : Nat) (mask : BitVec 16) (ys : List W32) : (x.putLanes grp r mask ys).rep = x.rep := rfl
@[simp] theorem arch_putLanes_cmdno (x : Arch) (grp r : Nat) (mask : BitVec 16) (ys : List W32) : (x.putLanes grp r mask ys).cmdno = x.cmdno := rfl
@[simp] theorem arch_putLanes_collSeq (x : Arch) (grp r : Nat) (mask : BitVec 16) (ys : List W32) : (x.putLanes grp r mask ys).collSeq = x.collSeq := rfl
@[simp] theorem arch_putLanes_recs (x : Arch) (grp r : Nat) (mask : BitVec 16) (ys : List W32) : (x.putLanes grp r mask ys).recs = x.recs := rfl
@[simp] theorem arch_putLanes_recOpen (x : Arch) (grp r : Nat) (mask : BitVec 16) (ys : List W32) : (x.putLanes grp r mask ys).recOpen = x.recOpen := rfl

@[simp] theorem arch_putEsWords_s (x : Arch) (i n : Nat) (w : EsWords) : (x.putEsWords i n w).s = x.s := rfl
@[simp] theorem arch_putEsWords_g (x : Arch) (i n : Nat) (w : EsWords) : (x.putEsWords i n w).g = x.g := rfl
@[simp] theorem arch_putEsWords_k (x : Arch) (i n : Nat) (w : EsWords) : (x.putEsWords i n w).k = x.k := rfl
@[simp] theorem arch_putEsWords_m (x : Arch) (i n : Nat) (w : EsWords) : (x.putEsWords i n w).m = x.m := rfl
@[simp] theorem arch_putEsWords_v (x : Arch) (i n : Nat) (w : EsWords) : (x.putEsWords i n w).v = x.v := rfl
@[simp] theorem arch_putEsWords_esd (x : Arch) (i n : Nat) (w : EsWords) : (x.putEsWords i n w).esd = x.esd := rfl
@[simp] theorem arch_putEsWords_lps (x : Arch) (i n : Nat) (w : EsWords) : (x.putEsWords i n w).lps = x.lps := rfl
@[simp] theorem arch_putEsWords_lbuf (x : Arch) (i n : Nat) (w : EsWords) : (x.putEsWords i n w).lbuf = x.lbuf := rfl
@[simp] theorem arch_putEsWords_bx (x : Arch) (i n : Nat) (w : EsWords) : (x.putEsWords i n w).bx = x.bx := rfl
@[simp] theorem arch_putEsWords_latches (x : Arch) (i n : Nat) (w : EsWords) : (x.putEsWords i n w).latches = x.latches := rfl
@[simp] theorem arch_putEsWords_landing (x : Arch) (i n : Nat) (w : EsWords) : (x.putEsWords i n w).landing = x.landing := rfl
@[simp] theorem arch_putEsWords_fcr (x : Arch) (i n : Nat) (w : EsWords) : (x.putEsWords i n w).fcr = x.fcr := rfl
@[simp] theorem arch_putEsWords_fsr (x : Arch) (i n : Nat) (w : EsWords) : (x.putEsWords i n w).fsr = x.fsr := rfl
@[simp] theorem arch_putEsWords_lscale (x : Arch) (i n : Nat) (w : EsWords) : (x.putEsWords i n w).lscale = x.lscale := rfl
@[simp] theorem arch_putEsWords_lscfg (x : Arch) (i n : Nat) (w : EsWords) : (x.putEsWords i n w).lscfg = x.lscfg := rfl
@[simp] theorem arch_putEsWords_rkey (x : Arch) (i n : Nat) (w : EsWords) : (x.putEsWords i n w).rkey = x.rkey := rfl
@[simp] theorem arch_putEsWords_rctr (x : Arch) (i n : Nat) (w : EsWords) : (x.putEsWords i n w).rctr = x.rctr := rfl
@[simp] theorem arch_putEsWords_trel (x : Arch) (i n : Nat) (w : EsWords) : (x.putEsWords i n w).trel = x.trel := rfl
@[simp] theorem arch_putEsWords_hbase (x : Arch) (i n : Nat) (w : EsWords) : (x.putEsWords i n w).hbase = x.hbase := rfl
@[simp] theorem arch_putEsWords_hlimit (x : Arch) (i n : Nat) (w : EsWords) : (x.putEsWords i n w).hlimit = x.hlimit := rfl
@[simp] theorem arch_putEsWords_hoffs (x : Arch) (i n : Nat) (w : EsWords) : (x.putEsWords i n w).hoffs = x.hoffs := rfl
@[simp] theorem arch_putEsWords_driftcfg (x : Arch) (i n : Nat) (w : EsWords) : (x.putEsWords i n w).driftcfg = x.driftcfg := rfl
@[simp] theorem arch_putEsWords_tracecfg (x : Arch) (i n : Nat) (w : EsWords) : (x.putEsWords i n w).tracecfg = x.tracecfg := rfl
@[simp] theorem arch_putEsWords_pc (x : Arch) (i n : Nat) (w : EsWords) : (x.putEsWords i n w).pc = x.pc := rfl
@[simp] theorem arch_putEsWords_rep (x : Arch) (i n : Nat) (w : EsWords) : (x.putEsWords i n w).rep = x.rep := rfl
@[simp] theorem arch_putEsWords_cmdno (x : Arch) (i n : Nat) (w : EsWords) : (x.putEsWords i n w).cmdno = x.cmdno := rfl
@[simp] theorem arch_putEsWords_collSeq (x : Arch) (i n : Nat) (w : EsWords) : (x.putEsWords i n w).collSeq = x.collSeq := rfl
@[simp] theorem arch_putEsWords_recs (x : Arch) (i n : Nat) (w : EsWords) : (x.putEsWords i n w).recs = x.recs := rfl
@[simp] theorem arch_putEsWords_recOpen (x : Arch) (i n : Nat) (w : EsWords) : (x.putEsWords i n w).recOpen = x.recOpen := rfl

@[simp] theorem arch_zeroEs_s (x : Arch) (i : Nat) : (x.zeroEs i).s = x.s := rfl
@[simp] theorem arch_zeroEs_g (x : Arch) (i : Nat) : (x.zeroEs i).g = x.g := rfl
@[simp] theorem arch_zeroEs_k (x : Arch) (i : Nat) : (x.zeroEs i).k = x.k := rfl
@[simp] theorem arch_zeroEs_m (x : Arch) (i : Nat) : (x.zeroEs i).m = x.m := rfl
@[simp] theorem arch_zeroEs_v (x : Arch) (i : Nat) : (x.zeroEs i).v = x.v := rfl
@[simp] theorem arch_zeroEs_esd (x : Arch) (i : Nat) : (x.zeroEs i).esd = x.esd := rfl
@[simp] theorem arch_zeroEs_lps (x : Arch) (i : Nat) : (x.zeroEs i).lps = x.lps := rfl
@[simp] theorem arch_zeroEs_lbuf (x : Arch) (i : Nat) : (x.zeroEs i).lbuf = x.lbuf := rfl
@[simp] theorem arch_zeroEs_bx (x : Arch) (i : Nat) : (x.zeroEs i).bx = x.bx := rfl
@[simp] theorem arch_zeroEs_latches (x : Arch) (i : Nat) : (x.zeroEs i).latches = x.latches := rfl
@[simp] theorem arch_zeroEs_landing (x : Arch) (i : Nat) : (x.zeroEs i).landing = x.landing := rfl
@[simp] theorem arch_zeroEs_fcr (x : Arch) (i : Nat) : (x.zeroEs i).fcr = x.fcr := rfl
@[simp] theorem arch_zeroEs_fsr (x : Arch) (i : Nat) : (x.zeroEs i).fsr = x.fsr := rfl
@[simp] theorem arch_zeroEs_lscale (x : Arch) (i : Nat) : (x.zeroEs i).lscale = x.lscale := rfl
@[simp] theorem arch_zeroEs_lscfg (x : Arch) (i : Nat) : (x.zeroEs i).lscfg = x.lscfg := rfl
@[simp] theorem arch_zeroEs_rkey (x : Arch) (i : Nat) : (x.zeroEs i).rkey = x.rkey := rfl
@[simp] theorem arch_zeroEs_rctr (x : Arch) (i : Nat) : (x.zeroEs i).rctr = x.rctr := rfl
@[simp] theorem arch_zeroEs_trel (x : Arch) (i : Nat) : (x.zeroEs i).trel = x.trel := rfl
@[simp] theorem arch_zeroEs_hbase (x : Arch) (i : Nat) : (x.zeroEs i).hbase = x.hbase := rfl
@[simp] theorem arch_zeroEs_hlimit (x : Arch) (i : Nat) : (x.zeroEs i).hlimit = x.hlimit := rfl
@[simp] theorem arch_zeroEs_hoffs (x : Arch) (i : Nat) : (x.zeroEs i).hoffs = x.hoffs := rfl
@[simp] theorem arch_zeroEs_driftcfg (x : Arch) (i : Nat) : (x.zeroEs i).driftcfg = x.driftcfg := rfl
@[simp] theorem arch_zeroEs_tracecfg (x : Arch) (i : Nat) : (x.zeroEs i).tracecfg = x.tracecfg := rfl
@[simp] theorem arch_zeroEs_pc (x : Arch) (i : Nat) : (x.zeroEs i).pc = x.pc := rfl
@[simp] theorem arch_zeroEs_rep (x : Arch) (i : Nat) : (x.zeroEs i).rep = x.rep := rfl
@[simp] theorem arch_zeroEs_cmdno (x : Arch) (i : Nat) : (x.zeroEs i).cmdno = x.cmdno := rfl
@[simp] theorem arch_zeroEs_collSeq (x : Arch) (i : Nat) : (x.zeroEs i).collSeq = x.collSeq := rfl
@[simp] theorem arch_zeroEs_recs (x : Arch) (i : Nat) : (x.zeroEs i).recs = x.recs := rfl
@[simp] theorem arch_zeroEs_recOpen (x : Arch) (i : Nat) : (x.zeroEs i).recOpen = x.recOpen := rfl

@[simp] theorem arch_setEs_s (x : Arch) (i : Nat) (d : BitVec 128) : (x.setEs i d).s = x.s := rfl
@[simp] theorem arch_setEs_g (x : Arch) (i : Nat) (d : BitVec 128) : (x.setEs i d).g = x.g := rfl
@[simp] theorem arch_setEs_k (x : Arch) (i : Nat) (d : BitVec 128) : (x.setEs i d).k = x.k := rfl
@[simp] theorem arch_setEs_m (x : Arch) (i : Nat) (d : BitVec 128) : (x.setEs i d).m = x.m := rfl
@[simp] theorem arch_setEs_v (x : Arch) (i : Nat) (d : BitVec 128) : (x.setEs i d).v = x.v := rfl
@[simp] theorem arch_setEs_esw (x : Arch) (i : Nat) (d : BitVec 128) : (x.setEs i d).esw = x.esw := rfl
@[simp] theorem arch_setEs_lps (x : Arch) (i : Nat) (d : BitVec 128) : (x.setEs i d).lps = x.lps := rfl
@[simp] theorem arch_setEs_lbuf (x : Arch) (i : Nat) (d : BitVec 128) : (x.setEs i d).lbuf = x.lbuf := rfl
@[simp] theorem arch_setEs_bx (x : Arch) (i : Nat) (d : BitVec 128) : (x.setEs i d).bx = x.bx := rfl
@[simp] theorem arch_setEs_latches (x : Arch) (i : Nat) (d : BitVec 128) : (x.setEs i d).latches = x.latches := rfl
@[simp] theorem arch_setEs_landing (x : Arch) (i : Nat) (d : BitVec 128) : (x.setEs i d).landing = x.landing := rfl
@[simp] theorem arch_setEs_fcr (x : Arch) (i : Nat) (d : BitVec 128) : (x.setEs i d).fcr = x.fcr := rfl
@[simp] theorem arch_setEs_fsr (x : Arch) (i : Nat) (d : BitVec 128) : (x.setEs i d).fsr = x.fsr := rfl
@[simp] theorem arch_setEs_lscale (x : Arch) (i : Nat) (d : BitVec 128) : (x.setEs i d).lscale = x.lscale := rfl
@[simp] theorem arch_setEs_lscfg (x : Arch) (i : Nat) (d : BitVec 128) : (x.setEs i d).lscfg = x.lscfg := rfl
@[simp] theorem arch_setEs_rkey (x : Arch) (i : Nat) (d : BitVec 128) : (x.setEs i d).rkey = x.rkey := rfl
@[simp] theorem arch_setEs_rctr (x : Arch) (i : Nat) (d : BitVec 128) : (x.setEs i d).rctr = x.rctr := rfl
@[simp] theorem arch_setEs_trel (x : Arch) (i : Nat) (d : BitVec 128) : (x.setEs i d).trel = x.trel := rfl
@[simp] theorem arch_setEs_hbase (x : Arch) (i : Nat) (d : BitVec 128) : (x.setEs i d).hbase = x.hbase := rfl
@[simp] theorem arch_setEs_hlimit (x : Arch) (i : Nat) (d : BitVec 128) : (x.setEs i d).hlimit = x.hlimit := rfl
@[simp] theorem arch_setEs_hoffs (x : Arch) (i : Nat) (d : BitVec 128) : (x.setEs i d).hoffs = x.hoffs := rfl
@[simp] theorem arch_setEs_driftcfg (x : Arch) (i : Nat) (d : BitVec 128) : (x.setEs i d).driftcfg = x.driftcfg := rfl
@[simp] theorem arch_setEs_tracecfg (x : Arch) (i : Nat) (d : BitVec 128) : (x.setEs i d).tracecfg = x.tracecfg := rfl
@[simp] theorem arch_setEs_pc (x : Arch) (i : Nat) (d : BitVec 128) : (x.setEs i d).pc = x.pc := rfl
@[simp] theorem arch_setEs_rep (x : Arch) (i : Nat) (d : BitVec 128) : (x.setEs i d).rep = x.rep := rfl
@[simp] theorem arch_setEs_cmdno (x : Arch) (i : Nat) (d : BitVec 128) : (x.setEs i d).cmdno = x.cmdno := rfl
@[simp] theorem arch_setEs_collSeq (x : Arch) (i : Nat) (d : BitVec 128) : (x.setEs i d).collSeq = x.collSeq := rfl
@[simp] theorem arch_setEs_recs (x : Arch) (i : Nat) (d : BitVec 128) : (x.setEs i d).recs = x.recs := rfl
@[simp] theorem arch_setEs_recOpen (x : Arch) (i : Nat) (d : BitVec 128) : (x.setEs i d).recOpen = x.recOpen := rfl

@[simp] theorem arch_raise_s (x : Arch) (f : BitVec 6) : (x.raise f).s = x.s := rfl
@[simp] theorem arch_raise_g (x : Arch) (f : BitVec 6) : (x.raise f).g = x.g := rfl
@[simp] theorem arch_raise_k (x : Arch) (f : BitVec 6) : (x.raise f).k = x.k := rfl
@[simp] theorem arch_raise_m (x : Arch) (f : BitVec 6) : (x.raise f).m = x.m := rfl
@[simp] theorem arch_raise_v (x : Arch) (f : BitVec 6) : (x.raise f).v = x.v := rfl
@[simp] theorem arch_raise_esd (x : Arch) (f : BitVec 6) : (x.raise f).esd = x.esd := rfl
@[simp] theorem arch_raise_esw (x : Arch) (f : BitVec 6) : (x.raise f).esw = x.esw := rfl
@[simp] theorem arch_raise_lps (x : Arch) (f : BitVec 6) : (x.raise f).lps = x.lps := rfl
@[simp] theorem arch_raise_lbuf (x : Arch) (f : BitVec 6) : (x.raise f).lbuf = x.lbuf := rfl
@[simp] theorem arch_raise_bx (x : Arch) (f : BitVec 6) : (x.raise f).bx = x.bx := rfl
@[simp] theorem arch_raise_latches (x : Arch) (f : BitVec 6) : (x.raise f).latches = x.latches := rfl
@[simp] theorem arch_raise_landing (x : Arch) (f : BitVec 6) : (x.raise f).landing = x.landing := rfl
@[simp] theorem arch_raise_fcr (x : Arch) (f : BitVec 6) : (x.raise f).fcr = x.fcr := rfl
@[simp] theorem arch_raise_lscale (x : Arch) (f : BitVec 6) : (x.raise f).lscale = x.lscale := rfl
@[simp] theorem arch_raise_lscfg (x : Arch) (f : BitVec 6) : (x.raise f).lscfg = x.lscfg := rfl
@[simp] theorem arch_raise_rkey (x : Arch) (f : BitVec 6) : (x.raise f).rkey = x.rkey := rfl
@[simp] theorem arch_raise_rctr (x : Arch) (f : BitVec 6) : (x.raise f).rctr = x.rctr := rfl
@[simp] theorem arch_raise_trel (x : Arch) (f : BitVec 6) : (x.raise f).trel = x.trel := rfl
@[simp] theorem arch_raise_hbase (x : Arch) (f : BitVec 6) : (x.raise f).hbase = x.hbase := rfl
@[simp] theorem arch_raise_hlimit (x : Arch) (f : BitVec 6) : (x.raise f).hlimit = x.hlimit := rfl
@[simp] theorem arch_raise_hoffs (x : Arch) (f : BitVec 6) : (x.raise f).hoffs = x.hoffs := rfl
@[simp] theorem arch_raise_driftcfg (x : Arch) (f : BitVec 6) : (x.raise f).driftcfg = x.driftcfg := rfl
@[simp] theorem arch_raise_tracecfg (x : Arch) (f : BitVec 6) : (x.raise f).tracecfg = x.tracecfg := rfl
@[simp] theorem arch_raise_pc (x : Arch) (f : BitVec 6) : (x.raise f).pc = x.pc := rfl
@[simp] theorem arch_raise_rep (x : Arch) (f : BitVec 6) : (x.raise f).rep = x.rep := rfl
@[simp] theorem arch_raise_cmdno (x : Arch) (f : BitVec 6) : (x.raise f).cmdno = x.cmdno := rfl
@[simp] theorem arch_raise_collSeq (x : Arch) (f : BitVec 6) : (x.raise f).collSeq = x.collSeq := rfl
@[simp] theorem arch_raise_recs (x : Arch) (f : BitVec 6) : (x.raise f).recs = x.recs := rfl
@[simp] theorem arch_raise_recOpen (x : Arch) (f : BitVec 6) : (x.raise f).recOpen = x.recOpen := rfl

end Sys2Proof.Laws
end

