-- ==== Sys2Proof/Laws/Store.lean ====
section
/-! SUPPORT. The laws of indexed stores: reading after writing, and the canonical form that every write keeps (Memory is one such
store). -/

set_option Elab.async false

namespace Sys2Proof.Laws

open Sys2Proof.Machine

variable {n : Nat}

theorem wfFrom_mono {lo lo' : Nat} (h : lo' ≤ lo) : ∀ {m : Store n}, Store.wfFrom lo m = true → Store.wfFrom lo' m = true
  | [], _ => rfl
  | (k, v) :: t, hm => by
    simp only [Store.wfFrom, Bool.and_eq_true, decide_eq_true_eq] at hm ⊢
    exact ⟨⟨Nat.le_trans h hm.1.1, hm.1.2⟩, hm.2⟩

theorem put_wfFrom {a : Nat} {v : BitVec n} : ∀ {lo : Nat} {m : Store n}, lo ≤ a → Store.wfFrom lo m = true →
    Store.wfFrom lo (m.put a v) = true
  | lo, [], ha, _ => by
    by_cases hv : v = 0
    · simp [Store.put, hv, Store.wfFrom]
    · simp only [Store.put, hv, ↓reduceIte, Store.wfFrom, Bool.and_eq_true, decide_eq_true_eq]; exact ⟨⟨ha, hv⟩, trivial⟩
  | lo, (k, x) :: t, ha, hm => by
    simp only [Store.wfFrom, Bool.and_eq_true, decide_eq_true_eq] at hm
    obtain ⟨⟨hlo, hx⟩, ht⟩ := hm
    unfold Store.put
    by_cases h1 : a < k
    · by_cases hv : v = 0
      · simp only [h1, hv, ↓reduceIte, Store.wfFrom, Bool.and_eq_true, decide_eq_true_eq]; exact ⟨⟨hlo, hx⟩, ht⟩
      · simp only [h1, hv, ↓reduceIte, Store.wfFrom, Bool.and_eq_true, decide_eq_true_eq]
        exact ⟨⟨ha, hv⟩, ⟨by omega, hx⟩, ht⟩
    · by_cases h2 : a = k
      · by_cases hv : v = 0
        · simp only [h2, hv, ↓reduceIte, Nat.lt_irrefl]; exact wfFrom_mono (by omega) ht
        · simp only [h2, hv, ↓reduceIte, Nat.lt_irrefl, Store.wfFrom, Bool.and_eq_true, decide_eq_true_eq]
          exact ⟨⟨by omega, hv⟩, ht⟩
      · simp only [h1, h2, ↓reduceIte, Store.wfFrom, Bool.and_eq_true, decide_eq_true_eq]
        exact ⟨⟨hlo, hx⟩, put_wfFrom (by omega) ht⟩

/-- A write keeps the canonical form. -/
theorem put_wf {m : Store n} (a : Nat) (v : BitVec n) (h : m.wf = true) : (m.put a v).wf = true :=
  put_wfFrom (Nat.zero_le _) h

theorem putList_wf : ∀ {m : Store n} (a : Nat) (vs : List (BitVec n)), m.wf = true → (m.putList a vs).wf = true
  | _, _, [], h => h
  | _, _, v :: vs, h => putList_wf _ vs (put_wf _ v h)

theorem putAll_wf : ∀ {m : Store n} (ps : List (Nat × BitVec n)), m.wf = true → (m.putAll ps).wf = true
  | _, [], h => h
  | _, (a, v) :: t, h => putAll_wf t (put_wf a v h)

/-- Consecutive values are as good as the list of their places and values. -/
theorem putAll_range : ∀ {m : Store n} (a : Nat) (vs : List (BitVec n)), m.putAll ((List.range' a vs.length).zip vs) = m.putList a vs
  | _, _, [] => rfl
  | m, a, v :: vs => by
    simp only [List.length_cons, List.range'_succ, List.zip_cons_cons, Store.putAll, Store.putList]
    exact putAll_range (a + 1) vs

theorem filter_wfFrom (p : Nat × BitVec n → Bool) : ∀ {lo : Nat} {m : Store n}, Store.wfFrom lo m = true →
    Store.wfFrom lo (m.filter p) = true
  | _, [], _ => rfl
  | lo, (k, v) :: t, h => by
    simp only [Store.wfFrom, Bool.and_eq_true, decide_eq_true_eq] at h
    obtain ⟨⟨hlo, hv⟩, ht⟩ := h
    cases hp : p (k, v)
    · rw [List.filter_cons_of_neg (by simp [hp])]; exact wfFrom_mono (by omega) (filter_wfFrom p ht)
    · rw [List.filter_cons_of_pos hp]
      simp only [Store.wfFrom, Bool.and_eq_true, decide_eq_true_eq]; exact ⟨⟨hlo, hv⟩, filter_wfFrom p ht⟩

/-- Dropping entries keeps the canonical form. -/
theorem filter_wf {m : Store n} (p : Nat × BitVec n → Bool) (h : m.wf = true) : Store.wf (m.filter p) = true := filter_wfFrom p h

theorem get_of_lt {a : Nat} : ∀ {lo : Nat} {m : Store n}, Store.wfFrom lo m = true → a < lo → m.get a = 0
  | _, [], _, _ => rfl
  | lo, (k, v) :: t, h, ha => by
    simp only [Store.wfFrom, Bool.and_eq_true, decide_eq_true_eq] at h
    have : a < k := by omega
    simp [Store.get, this]

theorem get_put_from {a b : Nat} {v : BitVec n} : ∀ {lo : Nat} {m : Store n}, Store.wfFrom lo m = true →
    (m.put a v).get b = if b = a then v else m.get b
  | _, [], _ => by
    by_cases hv : v = 0
    · subst hv; by_cases h : b = a <;> simp [Store.put, Store.get, h]
    · simp only [Store.put, hv, ↓reduceIte, Store.get]
      by_cases h : b = a
      · simp [h]
      · by_cases h2 : b < a <;> simp [h, h2]
  | lo, (k, x) :: t, hm => by
    simp only [Store.wfFrom, Bool.and_eq_true, decide_eq_true_eq] at hm
    obtain ⟨⟨hlo, hx⟩, ht⟩ := hm
    unfold Store.put
    by_cases h1 : a < k
    · by_cases hv : v = 0
      · subst hv
        simp only [h1, ↓reduceIte]
        by_cases h : b = a
        · subst h; simp [Store.get, h1]
        · simp [h]
      · simp only [h1, hv, ↓reduceIte, Store.get]
        by_cases h : b = a
        · simp [h]
        · by_cases h2 : b < a
          · have : b < k := by omega
            simp [h, h2, this]
          · simp [h, h2]
    · by_cases h2 : a = k
      · subst h2
        by_cases hv : v = 0
        · subst hv
          simp only [Nat.lt_irrefl, ↓reduceIte]
          by_cases h : b = a
          · subst h; simp [get_of_lt ht (by omega : b < b + 1)]
          · by_cases h3 : b < a
            · simp [Store.get, h, h3, get_of_lt ht (by omega : b < a + 1)]
            · simp [Store.get, h, h3]
        · simp only [Nat.lt_irrefl, hv, ↓reduceIte, Store.get]
          by_cases h : b = a
          · simp [h]
          · simp [h]
      · simp only [h1, h2, ↓reduceIte, Store.get, get_put_from (a := a) (b := b) (v := v) ht]
        by_cases h : b = a
        · subst h; simp [h1, h2]
        · simp [h]

/-- A read after a write of a canonical store: the value at the place written, the old one elsewhere. -/
theorem get_put {m : Store n} (a b : Nat) (v : BitVec n) (h : m.wf = true) :
    (m.put a v).get b = if b = a then v else m.get b := get_put_from h

/-- A read outside consecutive writes gives the old value. -/
theorem get_putList_of_lt_or_ge : ∀ {m : Store n} (a b : Nat) (vs : List (BitVec n)), m.wf = true → (b < a ∨ a + vs.length ≤ b) →
    (m.putList a vs).get b = m.get b
  | _, _, _, [], _, _ => rfl
  | m, a, b, v :: vs, h, hb => by
    have hne : b ≠ a := by simp only [List.length_cons] at hb; omega
    rw [Store.putList, get_putList_of_lt_or_ge (a + 1) b vs (put_wf a v h) (by simp only [List.length_cons] at hb; omega),
      get_put a b v h, if_neg hne]

/-- A read inside consecutive writes gives the value written. -/
theorem get_putList : ∀ {m : Store n} (a : Nat) (vs : List (BitVec n)) (i : Nat), m.wf = true → (hi : i < vs.length) →
    (m.putList a vs).get (a + i) = vs[i]
  | _, _, [], _, _, hi => absurd hi (Nat.not_lt_zero _)
  | m, a, v :: vs, 0, h, _ => by
    show ((m.put a v).putList (a + 1) vs).get a = v
    rw [get_putList_of_lt_or_ge (a + 1) a vs (put_wf a v h) (by omega), get_put a a v h, if_pos rfl]
  | m, a, v :: vs, i + 1, h, hi => by
    have e : a + (i + 1) = a + 1 + i := by omega
    rw [e]; exact get_putList (a + 1) vs i (put_wf a v h) (by simpa using hi)

end Sys2Proof.Laws
end

