-- ==== Sys2Proof/Laws/Memory.lean ====
section
/-! SUPPORT. The operations that write memory keep its canonical form, taking a fatal fault among them; memory after reset has it. -/

set_option Elab.async false

namespace Sys2Proof.Laws

open Sys2Proof Sys2Proof.Machine

theorem reset_mem_wf : Memory.wf State.reset.mem = true := rfl

/-- A fold of steps that each keep a property keeps it. -/
theorem foldl_keeps {α β : Type} (P : α → Prop) (f : α → β → α) (hf : ∀ a b, P a → P (f a b)) : ∀ (l : List β) (a : α), P a → P (l.foldl f a)
  | [], _, h => h
  | b :: t, a, h => foldl_keeps P f hf t (f a b) (hf a b h)

theorem memWrite_wf {s : State} (cells : List (Nat × Byte)) (h : Memory.wf s.mem = true) : Memory.wf (s.memWrite cells).mem = true :=
  putAll_wf cells h

/-- Memory after a write of consecutive bytes. -/
theorem memPut_mem (s : State) (pa : Nat) (bs : List Byte) : (s.memPut pa bs).mem = Store.putList s.mem pa bs := putAll_range pa bs

theorem memPut_wf {s : State} (pa : Nat) (bs : List Byte) (h : Memory.wf s.mem = true) : Memory.wf (s.memPut pa bs).mem = true :=
  memWrite_wf _ h

/-- A byte read outside the bytes that `memPut` writes. -/
theorem memPut_get_outside {s : State} (pa : Nat) (bs : List Byte) (a : Nat) (h : Memory.wf s.mem = true) (ha : a < pa ∨ pa + bs.length ≤ a) :
    (s.memPut pa bs).mem.get a = s.mem.get a := by rw [memPut_mem]; exact get_putList_of_lt_or_ge pa a bs h ha

/-- A byte read among those that `memPut` writes. -/
theorem memPut_get_inside {s : State} (pa : Nat) (bs : List Byte) (i : Nat) (h : Memory.wf s.mem = true) (hi : i < bs.length) :
    (s.memPut pa bs).mem.get (pa + i) = bs[i] := by rw [memPut_mem]; exact get_putList pa bs i h hi

@[simp] theorem dropClean_mem (s : State) (pas : List Nat) : (s.dropClean pas).mem = s.mem := rfl

theorem homePut_wf {s : State} (pa : Nat) (bs : List Byte) (h : Memory.wf s.mem = true) : Memory.wf (s.homePut pa bs).mem = true :=
  memPut_wf pa bs h

/-! ### A fatal fault -/

theorem undoDrn_wf {s : State} (c : Fin 4) (e : EpiRun) (h : Memory.wf s.mem = true) : Memory.wf (undoDrn s c e).mem = true := by
  simp only [undoDrn, mod_mem]
  apply foldl_keeps (fun u : State => Memory.wf u.mem = true)
  · intro u p hu; rw [setTile_mem]; exact hu
  · exact putAll_wf e.undoMem h

@[simp] theorem chunksRelease_mem (s : State) (k : Cmd) : (s.chunksRelease k).mem = s.mem := by
  unfold State.chunksRelease
  split
  · rfl
  · apply foldl_keeps (fun u : State => u.mem = s.mem)
    · intro u p h; exact h
    · rfl

theorem endCmd_mem (code : Byte) (s : State) (lid : BitVec 32) (k : Cmd) : (endCmd code s lid k).mem = s.mem := by
  have key : ∀ (u : State), (u.copyReleases k).mem = u.mem := by
    intro u; unfold State.copyReleases; split
    · rfl
    · dsimp only; split <;> rfl
  unfold endCmd
  split
  · rfl
  · dsimp only
    split <;> simp only [modLaunch_mem, key, chunksRelease_mem] <;> split <;> rfl

theorem endCall_mem (s : State) (lid : BitVec 32) (k : Call) : (endCall s lid k).mem = s.mem := by
  unfold endCall; split <;> rfl

theorem endRun_wf {s : State} (code : Byte) (x : Context) (r : CallRun) (h : Memory.wf s.mem = true) :
    Memory.wf (endRun code s x r).mem = true := by
  have key : ∀ (u : State) (n : BitVec 8) (p : Prop) [Decidable p] (inc : Nat), (if p then u.semFail n inc code else u).mem = u.mem := by
    intro u n p _ inc; split <;> rfl
  unfold endRun
  dsimp only
  simp only [modLaunch_mem, key]
  cases he : r.epi with
  | none => simpa using h
  | some e => simpa using undoDrn_wf r.ctx e h

@[simp] theorem countRecs_mem (s : State) (c : Fin 4) : (s.countRecs c).mem = s.mem := by
  simp only [State.countRecs, mod_mem, modLaunch_mem]

@[simp] theorem dropSkupds_mem (s : State) (c : Fin 4) (a : Arch) : (s.dropSkupds c a).mem = s.mem := by
  simp only [State.dropSkupds, mod_mem]

@[simp] theorem endedCtx_mem (s : State) (c : Fin 4) : (endedCtx s c).mem = s.mem := by
  simp only [endedCtx, countRecs_mem, dropSkupds_mem]

theorem endCtx_wf {s : State} (code : Byte) (hold : Bool) (c : Fin 4) (h : Memory.wf s.mem = true) :
    Memory.wf (endCtx code hold s c).mem = true := by
  unfold endCtx
  simp only [mod_mem]
  have fold1 : ∀ (l : List Cmd) (lid : BitVec 32) (u : State), Memory.wf u.mem = true →
      Memory.wf (l.foldl (fun s k => endCmd code s lid k) u).mem = true :=
    fun l lid => foldl_keeps (fun u : State => Memory.wf u.mem = true) _ (fun u k hu => by rw [endCmd_mem]; exact hu) l
  have fold2 : ∀ (l : List Call) (lid : BitVec 32) (u : State), Memory.wf u.mem = true →
      Memory.wf (l.foldl (fun s k => endCall s lid k) u).mem = true :=
    fun l lid => foldl_keeps (fun u : State => Memory.wf u.mem = true) _ (fun u k hu => by rw [endCall_mem]; exact hu) l
  apply fold2
  split
  · split
    · exact endRun_wf code _ _ (fold1 _ _ _ (by simpa using h))
    · exact fold1 _ _ _ (by simpa using h)
  · exact fold1 _ _ _ (by simpa using h)

theorem withAway_wf {s : State} (p : Fin 4 × Context) (f : State → State) (hf : ∀ u : State, Memory.wf u.mem = true → Memory.wf (f u).mem = true)
    (h : Memory.wf s.mem = true) : Memory.wf (s.withAway p f).1.mem = true := by
  simp only [State.withAway, setCtx_mem]
  exact hf _ (by simpa using h)

theorem endAway_wf {s : State} (lid : BitVec 32) (code : Byte) (hold : Bool) (h : Memory.wf s.mem = true) :
    Memory.wf (s.endAway lid code hold).mem = true :=
  foldl_keeps (fun u : State => Memory.wf u.mem = true) _
    (fun _ p hu => withAway_wf p _ (fun _ hv => endCtx_wf code hold p.1 hv) hu) _ _ h

theorem endLaunch_wf {s : State} (lid : BitVec 32) (r : FaultRec) (h : Memory.wf s.mem = true) :
    Memory.wf (s.endLaunch lid r).mem = true := by
  unfold State.endLaunch
  split
  · exact h
  · split
    · simpa using h
    · split
      · exact h
      apply endAway_wf
      refine foldl_keeps (fun u : State => Memory.wf u.mem = true) _ (fun u c hu => ?_) _ _ (by simpa using h)
      split
      · exact hu
      · split
        · rw [endedCtx_mem]; exact hu
        · exact endCtx_wf _ _ c hu

/-- Taking a fatal fault keeps the canonical form of memory. -/
theorem fatal_wf {s : State} (c : Fin 4) (code : Byte) (bundle : Nat) (cmd : W32) (h : Memory.wf s.mem = true) :
    Memory.wf (s.fatal c code bundle cmd).mem = true := by
  unfold State.fatal
  dsimp only
  split
  · simpa using h
  · exact endLaunch_wf _ _ h

theorem issueFault_wf {s : State} (code : Byte) (h : Memory.wf s.mem = true) : Memory.wf (s.issueFault code).mem = true :=
  fatal_wf s.cur code _ _ h

theorem callFault_wf {s : State} (r : CallRun) (code : Byte) (h : Memory.wf s.mem = true) : Memory.wf (s.callFault r code).mem = true :=
  fatal_wf r.ctx code _ _ h

/-- Ending a launch for a failing word keeps it too. -/
theorem metBy_wf {s : State} (b : BadWord) (c : Fin 4) (bundle : Nat) (h : Memory.wf s.mem = true) : Memory.wf (s.metBy b c bundle).mem = true :=
  fatal_wf c _ bundle 0 h

/-! ### The stations and home -/

theorem endTorn_wf {s : State} (bs : List StByte) (h : Memory.wf s.mem = true) : Memory.wf (s.endTorn bs).mem = true :=
  foldl_keeps (fun u : State => Memory.wf u.mem = true) _ (fun u c hu => by
    dsimp only
    split
    · exact metBy_wf _ c 0 hu
    · exact hu) _ _ h

theorem bringHome_wf {s : State} (lines : List Nat) (h : Memory.wf s.mem = true) : Memory.wf (s.bringHome lines).mem = true :=
  endTorn_wf _ (memWrite_wf _ (memWrite_wf _ (memWrite_wf _ h)))

theorem flush_mem (s : State) (lines : List Nat) : (s.flush lines).mem = (s.bringHome lines).mem := by simp only [State.flush]

theorem flush_wf {s : State} (lines : List Nat) (h : Memory.wf s.mem = true) : Memory.wf (s.flush lines).mem = true := by
  rw [flush_mem]
  exact bringHome_wf lines h

theorem writeBack_mem (s : State) (lines : List Nat) : (s.writeBack lines).mem = (s.bringHome lines).mem := by simp only [State.writeBack]

theorem writeBack_wf {s : State} (lines : List Nat) (h : Memory.wf s.mem = true) : Memory.wf (s.writeBack lines).mem = true := by
  rw [writeBack_mem]
  exact bringHome_wf lines h

theorem putStation_wf {s : State} (lvl : Nat) (bs : List StByte) (h : Memory.wf s.mem = true) : Memory.wf (s.putStation lvl bs).mem = true := by
  unfold State.putStation
  split
  · exact h
  · exact h
  · exact h
  · exact memWrite_wf _ h

theorem putUpTo_wf {s : State} (lvl : Nat) (bs : List StByte) (h : Memory.wf s.mem = true) : Memory.wf (s.putUpTo lvl bs).mem = true :=
  foldl_keeps (fun s : State => Memory.wf s.mem = true) _ (fun _ _ hs => putStation_wf _ _ hs) _ _ (putStation_wf lvl bs h)

/-- A write through a context's translations: it fails, or it writes bytes of memory. -/
theorem vaWrite_cases {s t : State} {a : Arch} {asid : BitVec 16} {va : Nat} {bs : List Byte} (e : s.vaWrite a asid va bs = .ok t) :
    ∃ ps, s.vaPas a asid .write va bs.length = .ok ps ∧ t = s.memWrite (ps.zip bs) := by
  unfold State.vaWrite at e
  split at e
  · next ps h => cases e; exact ⟨ps, h, rfl⟩
  · cases e

/-- It keeps the canonical form. -/
theorem vaWrite_wf {s t : State} {a : Arch} {asid : BitVec 16} {va : Nat} {bs : List Byte} (e : s.vaWrite a asid va bs = .ok t)
    (h : Memory.wf s.mem = true) : Memory.wf t.mem = true := by
  obtain ⟨_, _, rfl⟩ := vaWrite_cases e
  exact memWrite_wf _ h

/-! ### A recoverable trap -/

/-- Taking a recoverable trap leaves memory as it is. -/
theorem trapRestore_wf {s : State} (c : Fin 4) (h : Memory.wf s.mem = true) : Memory.wf (s.trapRestore c).mem = true := by simpa using h

end Sys2Proof.Laws
end

