-- ==== Sys2Proof/Laws/Ops.lean ====
section
/-! SUPPORT. What each shared operation can do, said once: the shapes of the slot operations, of the engine commands, of the
microprogram words and of the epilogue instructions, and what `step` makes of `exec`. -/

set_option Elab.async false

namespace Sys2Proof.Laws

open Sys2Proof Sys2Proof.Machine

/-! ### Slots (R89) -/

/-- With a true guard a slot has its effect. -/
theorem slotOp_true {g : BitVec 4} {s : State} {eff : State → State} (h : s.me.arch.rg g.toNat = true) : slotOp g s eff = .next (eff s) :=
  if_pos h

/-- With a false guard a slot has none. -/
theorem slotOp_false {g : BitVec 4} {s : State} {eff : State → State} (h : s.me.arch.rg g.toNat = false) : slotOp g s eff = .next s := by
  simp [slotOp, h]

/-- A slot always answers a next state: its effect, or the state as it was. -/
theorem slotOp_cases (g : BitVec 4) (s : State) (eff : State → State) :
    (s.me.arch.rg g.toNat = true ∧ slotOp g s eff = .next (eff s)) ∨ (s.me.arch.rg g.toNat = false ∧ slotOp g s eff = .next s) := by
  cases h : s.me.arch.rg g.toNat
  · exact .inr ⟨rfl, slotOp_false h⟩
  · exact .inl ⟨rfl, slotOp_true h⟩

/-- What holds of the state before and of the effect holds after a slot. -/
theorem slotOp_keeps {P : State → Prop} {g : BitVec 4} {s t : State} {eff : State → State} (h : slotOp g s eff = .next t)
    (h0 : P s) (h1 : s.me.arch.rg g.toNat = true → P (eff s)) : P t := by
  rcases slotOp_cases g s eff with ⟨hg, e⟩ | ⟨_, e⟩
  · rw [e] at h; cases h; exact h1 hg
  · rw [e] at h; cases h; exact h0

theorem rg_zero (a : Arch) : a.rg 0 = true := rfl
theorem rk_zero (a : Arch) : a.rk 0 = BitVec.allOnes 128 := rfl

/-- An integer operation of the A slot writes the landing buffer and nothing else (R106, R108). -/
theorem aluReg_cases (k : Nat) (op : Nat → Nat → Nat → Nat) (f : AF) (s : State) :
    (s.me.arch.rg f.g.toNat = true ∧ aluReg k op f s =
      .next (s.land k 1 (.s f.d.toNat (wide f.width (op f.width ((s.aA f).toNat % 2 ^ f.width) ((s.aB f).toNat % 2 ^ f.width)))))) ∨
    (s.me.arch.rg f.g.toNat = false ∧ aluReg k op f s = .next s) := slotOp_cases f.g s _

/-- A scalar float operation blocks for its random word or writes the landing buffer (R106, R132, R465). -/
theorem scalarF_cases (f : AF) (s : State) (op : FCtl → W32 → Nat × BitVec 6) :
    (s.me.arch.rg f.g.toNat = false ∧ scalarF f s op = .next s) ∨
    (s.me.arch.rg f.g.toNat = true ∧ s.me.arch.fctl.srd = true ∧ s.me.q0gen = false ∧ scalarF f s op = .next s.block) ∨
    (s.me.arch.rg f.g.toNat = true ∧ (s.me.arch.fctl.srd = true → s.me.q0gen = true) ∧ scalarF f s op =
      .next (s.land 3 1 (.s f.d.toNat (BitVec.ofNat 64 (op s.me.arch.fctl (s.rnd 0)).1)) (op s.me.arch.fctl (s.rnd 0)).2)) := by
  cases hg : s.me.arch.rg f.g.toNat
  · exact .inl ⟨rfl, slotOp_false hg⟩
  · cases hs : s.me.arch.fctl.srd <;> cases hq : s.me.q0gen
    · refine .inr (.inr ⟨rfl, by simp, ?_⟩); simp [scalarF, slotOp_true hg, State.needRnd, hs]
    · refine .inr (.inr ⟨rfl, by simp, ?_⟩); simp [scalarF, slotOp_true hg, State.needRnd, hs]
    · refine .inr (.inl ⟨rfl, rfl, rfl, ?_⟩); simp [scalarF, slotOp_true hg, State.needRnd, hs, hq]
    · refine .inr (.inr ⟨rfl, by simp, ?_⟩); simp [scalarF, slotOp_true hg, State.needRnd, hs, hq]

/-- A tile-table instruction has its effect, or faults on a handle outside the share (R125). -/
theorem tileOp_cases (f : AF) (s : State) (eff : Nat → State → State) :
    (s.me.arch.rg f.g.toNat = false ∧ tileOp f s eff = .next s) ∨
    (s.me.arch.rg f.g.toNat = true ∧ s.me.share.hasTile (fld f.imm 0 8) = true ∧ tileOp f s eff = .next (eff (s.tileKey (fld f.imm 0 8)) s)) ∨
    (s.me.arch.rg f.g.toNat = true ∧ s.me.share.hasTile (fld f.imm 0 8) = false ∧ tileOp f s eff = .next (s.issueFault cACCESS_PROT)) := by
  cases hg : s.me.arch.rg f.g.toNat
  · exact .inl ⟨rfl, slotOp_false hg⟩
  · cases ht : s.me.share.hasTile (fld f.imm 0 8)
    · exact .inr (.inr ⟨rfl, rfl, by simp [tileOp, slotOp_true hg, ht]⟩)
    · exact .inr (.inl ⟨rfl, rfl, by simp [tileOp, slotOp_true hg, ht]⟩)

/-- A write of an es register has its effect, or faults while a call names the register (R56, R131). -/
theorem esWrite_cases (f : AF) (s : State) (eff : State → State) :
    (s.me.arch.rg f.g.toNat = false ∧ esWrite f s eff = .next s) ∨
    (s.me.arch.rg f.g.toNat = true ∧ s.esBusy f.d.toNat = false ∧ esWrite f s eff = .next (eff s)) ∨
    (s.me.arch.rg f.g.toNat = true ∧ s.esBusy f.d.toNat = true ∧ esWrite f s eff = .next (s.issueFault cSHAPER_BUSY)) := by
  cases hg : s.me.arch.rg f.g.toNat
  · exact .inl ⟨rfl, slotOp_false hg⟩
  · cases hb : s.esBusy f.d.toNat
    · exact .inr (.inl ⟨rfl, rfl, by simp [esWrite, slotOp_true hg, hb]⟩)
    · exact .inr (.inr ⟨rfl, rfl, by simp [esWrite, slotOp_true hg, hb]⟩)

/-- A control operation that no body may hold: the fault there whatever the guard, else a slot operation (R139). -/
theorem outsideLoop_cases (f : SF) (s : State) (eff : State → State) :
    (s.me.arch.inLoop = true ∧ outsideLoop f s eff = .next (s.issueFault cILLEGAL_OPERAND)) ∨
    (s.me.arch.inLoop = false ∧ outsideLoop f s eff = slotOp f.g s eff) := by
  cases h : s.me.arch.inLoop <;> simp [outsideLoop, h]

/-- A loop instruction: the fault of R139 whatever the guard, else a slot operation. -/
theorem loopOp_cases (f : SF) (s : State) (eff : State → State) :
    (loopAllowed f s = false ∧ loopOp f s eff = .next (s.issueFault cILLEGAL_OPERAND)) ∨
    (loopAllowed f s = true ∧ loopOp f s eff = slotOp f.g s eff) := by
  cases h : loopAllowed f s <;> simp [loopOp, h]

/-- An operation on a hasp barrier (R249). -/
theorem haspOp_cases (f : SF) (s : State) (eff : State → State) :
    (s.me.arch.rg f.g.toNat = false ∧ haspOp f s eff = .next s) ∨
    (s.me.arch.rg f.g.toNat = true ∧ f.n = 0 ∧ haspOp f s eff = .next (s.issueFault cILLEGAL_OPERAND)) ∨
    (s.me.arch.rg f.g.toNat = true ∧ f.n ≠ 0 ∧ s.me.share.hasHasp f.n = false ∧ haspOp f s eff = .next (s.issueFault cACCESS_PROT)) ∨
    (s.me.arch.rg f.g.toNat = true ∧ f.n ≠ 0 ∧ s.me.share.hasHasp f.n = true ∧ haspOp f s eff = .next (eff s)) := by
  cases hg : s.me.arch.rg f.g.toNat
  · exact .inl ⟨rfl, slotOp_false hg⟩
  · by_cases h0 : f.n = 0
    · exact .inr (.inl ⟨rfl, h0, by simp [haspOp, slotOp_true hg, h0]⟩)
    · cases hh : s.me.share.hasHasp f.n
      · exact .inr (.inr (.inl ⟨rfl, h0, rfl, by simp [haspOp, slotOp_true hg, h0, hh]⟩))
      · exact .inr (.inr (.inr ⟨rfl, h0, rfl, by simp [haspOp, slotOp_true hg, h0, hh]⟩))

/-- An O operation: outside the share, past the last row, waiting for a call, or its effect (R182). -/
theorem accOpn_cases (f : OF) (s : State) (eff : Nat → State → State) :
    (s.me.arch.rg f.g.toNat = false ∧ accOpn f s eff = .next s) ∨
    (s.me.share.hasAcc f.acc.toNat = false ∧ accOpn f s eff = .next (s.issueFault cACCESS_PROT)) ∨
    (128 < s.me.arch.rowOf f.st f.row + f.cnt.toNat + 1 ∧ accOpn f s eff = .next (s.issueFault cILLEGAL_OPERAND)) ∨
    accOpn f s eff = .next (s.stall 3) ∨ accOpn f s eff = .next (s.ensureCkpt.stall 3) ∨
    (s.me.arch.rg f.g.toNat = true ∧ s.me.share.hasAcc f.acc.toNat = true ∧ s.me.arch.rowOf f.st f.row + f.cnt.toNat + 1 ≤ 128 ∧
      accOpn f s eff = .next (eff (s.me.arch.rowOf f.st f.row) s)) := by
  cases hg : s.me.arch.rg f.g.toNat
  · exact .inl ⟨rfl, slotOp_false hg⟩
  · unfold accOpn
    rw [slotOp_true hg]
    dsimp only
    cases ha : s.me.share.hasAcc f.acc.toNat
    · exact .inr (.inl ⟨rfl, by simp⟩)
    · by_cases hr : 128 < s.me.arch.rowOf f.st f.row + f.cnt.toNat + 1
      · exact .inr (.inr (.inl ⟨hr, by simp [hr]⟩))
      · simp only [Bool.not_true, Bool.false_eq_true, if_false, hr]
        split
        · split
          · exact .inr (.inr (.inr (.inr (.inl rfl))))
          · exact .inr (.inr (.inr (.inl rfl)))
        · exact .inr (.inr (.inr (.inr (.inr ⟨trivial, trivial, by omega, rfl⟩))))

/-- A command that reads a descriptor: outside its limits, outside the share, waiting for its bytes, meeting a failing word
(R428), or as its entry's checks say (R229, R409). -/
theorem cmdOp_cases (f : EF) (s : State) (check : List Byte → State → Got Unit) (go : List Byte → State → State) :
    cmdOp f s check go = .next s ∨ cmdOp f s check go = .next (s.issueFault cILLEGAL_OPERAND) ∨
    cmdOp f s check go = .next (s.issueFault cACCESS_PROT) ∨ cmdOp f s check go = .next (s.stall 2) ∨
    (∃ d c, check d s = .fault c ∧ cmdOp f s check go = .next (s.issueFault c)) ∨
    (∃ d, check d s = .wait ∧ cmdOp f s check go = .next s.tileStall) ∨
    (∃ b, cmdOp f s check go = .next (s.metBy b s.cur s.me.arch.pc)) ∨
    (∃ d, check d s = .got () ∧ cmdOp f s check go = .next (go d s)) := by
  cases hg : s.me.arch.rg f.g.toNat
  · exact .inl (slotOp_false hg)
  · unfold cmdOp
    rw [slotOp_true hg]
    dsimp only
    split
    · exact .inr (.inl rfl)
    · split
      · exact .inr (.inr (.inl rfl))
      · split
        · exact .inr (.inr (.inr (.inl rfl)))
        · split
          · next b _ => exact .inr (.inr (.inr (.inr (.inr (.inr (.inl ⟨b, rfl⟩))))))
          · split
            · next c hc => exact .inr (.inr (.inr (.inr (.inl ⟨_, c, hc, rfl⟩))))
            · next b _ => exact .inr (.inr (.inr (.inr (.inr (.inr (.inl ⟨b, rfl⟩))))))
            · next hc => exact .inr (.inr (.inr (.inr (.inr (.inl ⟨_, hc, rfl⟩)))))
            · next hc => exact .inr (.inr (.inr (.inr (.inr (.inr (.inr ⟨_, hc, rfl⟩))))))

/-- A queued command or a blocked repetition (R229 to R231). -/
theorem queueCmd_cases (s : State) (f : EF) (e : Engine) (op : Nat) (d : List Byte) (k : CollRun) :
    s.queueCmd f e op d k = s.block ∨ ∃ c : Cmd, c.eng = e ∧ c.op = op ∧ c.desc = d ∧ c.ef = f ∧ c.committed = false ∧ c.id = s.me.arch.cmdno ∧
      s.queueCmd f e op d k = s.modMe (fun x => { x with cmds := x.cmds ++ [{ c with trel := x.arch.trel, fcr := x.arch.fcr, rkey := x.arch.rkey, bundle := x.arch.pc, order := x.nextOrder, id := x.arch.cmdno }], nextOrder := x.nextOrder + 1, arch := { x.arch with cmdno := x.arch.cmdno + 1 } }) := by
  unfold State.queueCmd
  dsimp only
  split
  · exact .inl rfl
  · exact .inr ⟨{ id := s.me.arch.cmdno, eng := e, op, timed := decide (f.toff ≠ 0xFFFF), ef := f, desc := d, trel := 0, fcr := 0, rkey := 0, bundle := 0, order := 0, coll := k }, rfl, rfl, rfl, rfl, rfl, rfl, rfl⟩

/-! ### Words and epilogue instructions -/

/-- A microprogram word: nothing, a fault named by the call, a failing word, a wait timed from its start, or its effect (R191, R199, R274,
R428). -/
theorem wordOp_cases (i : Instr) (s : State) (eff : CallRun → Got State) :
    wordOp i s eff = .next s ∨ ∃ r, s.run = some r ∧
      ((∃ c, wordOp i s eff = .next (s.callFault r c)) ∨ (∃ b, eff r = .meets b ∧ wordOp i s eff = .next (s.callMeets r b)) ∨
       (eff r = .wait ∧ wordOp i s eff = .next { s with run := some { r with stallSince := some (r.stallSince.getD s.gtb) } }) ∨
       (∃ t, eff r = .got t ∧ wordOp i s eff = .next t)) := by
  unfold wordOp
  cases hr : s.run with
  | none => exact .inl rfl
  | some r =>
    dsimp only
    split
    · exact .inl rfl
    · split
      · exact .inr ⟨r, rfl, .inl ⟨_, rfl⟩⟩
      · split
        · next t ht => exact .inr ⟨r, rfl, .inr (.inr (.inr ⟨t, ht, rfl⟩))⟩
        · next ht => exact .inr ⟨r, rfl, .inr (.inr (.inl ⟨ht, rfl⟩))⟩
        · next c ht => exact .inr ⟨r, rfl, .inl ⟨c, rfl⟩⟩
        · next b ht => exact .inr ⟨r, rfl, .inr (.inl ⟨b, ht, rfl⟩)⟩

/-- An epilogue instruction: nothing, a fault named by the call, a failing word, a wait, or its effect (R191, R216, R428). -/
theorem epiOp_cases (i : Instr) (s : State) (eff : CallRun → EpiRun → Got State) :
    epiOp i s eff = .next s ∨ ∃ r e, s.run = some r ∧ r.epi = some e ∧
      ((∃ c, epiOp i s eff = .next (s.callFault r c)) ∨ (∃ b, eff r e = .meets b ∧ epiOp i s eff = .next (s.callMeets r b)) ∨
       (eff r e = .wait ∧ epiOp i s eff = .next { s with run := some { r with stallSince := some (r.stallSince.getD s.gtb) } }) ∨
       (∃ t, eff r e = .got t ∧ epiOp i s eff = .next t)) := by
  unfold epiOp
  cases hr : s.run with
  | none => exact .inl rfl
  | some r =>
    dsimp only
    cases he : r.epi with
    | none => exact .inl rfl
    | some e =>
      dsimp only
      split
      · exact .inr ⟨r, e, rfl, he, .inl ⟨_, rfl⟩⟩
      · split
        · next t ht => exact .inr ⟨r, e, rfl, he, .inr (.inr (.inr ⟨t, ht, rfl⟩))⟩
        · next ht => exact .inr ⟨r, e, rfl, he, .inr (.inr (.inl ⟨ht, by rw [← he]⟩))⟩
        · next c ht => exact .inr ⟨r, e, rfl, he, .inl ⟨c, rfl⟩⟩
        · next b ht => exact .inr ⟨r, e, rfl, he, .inr (.inl ⟨b, ht, rfl⟩)⟩

/-! ### Faults (R324 to R326) -/

/-- A context that no launch owns just ends; otherwise the launch does. -/
theorem fatal_cases (s : State) (c : Fin 4) (code : Byte) (bundle : Nat) (cmd : W32) :
    (s.launchOf (s.ctx c).lid = none ∧ s.fatal c code bundle cmd = s.mod c (fun x => { x with mode := .ended, wait := .run, hold := [] })) ∨
    (∃ l, s.launchOf (s.ctx c).lid = some l ∧ s.fatal c code bundle cmd =
      s.endLaunch (s.ctx c).lid { code, coord := (s.ctx c).coord28, bundle, cmd, gtb := s.gtb }) := by
  unfold State.fatal
  dsimp only
  cases h : s.launchOf (s.ctx c).lid with
  | none => exact .inl ⟨rfl, rfl⟩
  | some l => exact .inr ⟨l, rfl, rfl⟩

/-! ### The step -/

/-- A next state of `step` is what the next instruction or event gives, with the time it takes. -/
theorem step_next {s t : State} (h : step s = .next t) : ∃ i u v, s.upNext = .ok (i, u) ∧ exec i u = .next v ∧ t = v.passTime := by
  unfold step at h
  split at h
  · cases h
  · next i u hu =>
    split at h
    · next v hv => cases h; exact ⟨i, u, v, hu, hv, rfl⟩
    · cases h
    · cases h

end Sys2Proof.Laws
end

