-- ==== Sys2Proof/Laws/PerInstr.lean ====
section
/-! SUPPORT. Statements made per instruction. Family EncodeDecode: what the encoder writes for a well-formed instruction, the decoder
reads back, among the instructions of its place; a machine event has no words. -/

set_option Elab.async false

namespace Sys2Proof.Laws

open Sys2Proof Sys2Proof.Machine

set_option linter.unusedSimpArgs false

/-- The instruction is read back from its words at its place; an event has none. -/
def EncodeDecode.Statement (i : Instr) : Prop :=
  i.wf = true → ∀ stop, if i.place = .event then encode stop i = [] else i ∈ decodeAt i.place (encode stop i)

theorem event_reads {i : Instr} (hp : i.place = .event) (he : ∀ stop, encode stop i = []) : EncodeDecode.Statement i := by
  intro _ stop; rw [hp]; simpa using he stop

theorem word_reads {i : Instr} {p : Place} (hp : i.place = p) (hne : p ≠ .event)
    (h : i.wf = true → ∀ stop, i ∈ decodeAt p (encode stop i)) : EncodeDecode.Statement i := by
  intro hw stop; rw [hp, if_neg hne]; exact h hw stop

theorem mem_of_some {α : Type} {o : Option α} {a : α} (h : o = some a) : a ∈ o.toList := by rw [h]; exact List.mem_singleton_self a

theorem s_reads {i : Instr} {f : SF} (n : Nat) (hn : n < 64) (hp : i.place = .slot 0) (he : ∀ stop, encode stop i = encS n f stop)
    (hd : ∀ w, i.wf = true → opField w = n → sfOf w = f → decodeS w = some i) : EncodeDecode.Statement i := by
  refine word_reads hp (by decide) (fun hw stop => ?_)
  obtain ⟨w, e, hf, ho⟩ := encS_fields n hn f stop
  rw [he, e]; exact mem_of_some (hd w hw ho hf)

theorem m_reads {i : Instr} {f : SF} (n : Nat) (hn : n < 64) (hp : i.place = .slot 2) (he : ∀ stop, encode stop i = encS n f stop)
    (hd : ∀ w, i.wf = true → opField w = n → sfOf w = f → decodeM w = some i) : EncodeDecode.Statement i := by
  refine word_reads hp (by decide) (fun hw stop => ?_)
  obtain ⟨w, e, hf, ho⟩ := encS_fields n hn f stop
  rw [he, e]; exact mem_of_some (hd w hw ho hf)

theorem x_reads {i : Instr} {f : XF} (n : Nat) (hn : n < 64) (hp : i.place = .slot 5) (he : ∀ stop, encode stop i = encX n f stop)
    (hd : ∀ w, i.wf = true → opField w = n → xfOf w = f → decodeX w = some i) : EncodeDecode.Statement i := by
  refine word_reads hp (by decide) (fun hw stop => ?_)
  obtain ⟨w, e, hf, ho⟩ := encX_fields n hn f stop
  rw [he, e]; exact mem_of_some (hd w hw ho hf)

theorem a_reads {i : Instr} {f : AF} (n : Nat) (hn : n < 64) (hp : i.place = .slot 1) (he : ∀ stop, encode stop i = encA n f stop)
    (hd : ∀ w0 w1, i.wf = true → opField w0 = n → afOf w0 w1 = f → decodeA w0 w1 = some i) : EncodeDecode.Statement i := by
  refine word_reads hp (by decide) (fun hw stop => ?_)
  obtain ⟨w0, w1, e, hf, ho⟩ := encA_fields n hn f stop
  rw [he, e]; exact mem_of_some (hd w0 w1 hw ho hf)

theorem e_reads {i : Instr} {f : EF} (n : Nat) (hn : n < 64) (hp : i.place = .slot 3) (he : ∀ stop, encode stop i = encE n f stop)
    (hd : ∀ w0 w1, i.wf = true → opField w0 = n → efOf w0 w1 = f → decodeE w0 w1 = some i) : EncodeDecode.Statement i := by
  refine word_reads hp (by decide) (fun hw stop => ?_)
  obtain ⟨w0, w1, e, hf, ho⟩ := encE_fields n hn f stop
  rw [he, e]; exact mem_of_some (hd w0 w1 hw ho hf)

theorem o_reads {i : Instr} {f : OF} (n : Nat) (hn : n < 64) (hp : i.place = .slot 4) (he : ∀ stop, encode stop i = encO n f stop)
    (hd : ∀ w0 w1, i.wf = true → opField w0 = n → ofOf w0 w1 = f → decodeO w0 w1 = some i) : EncodeDecode.Statement i := by
  refine word_reads hp (by decide) (fun hw stop => ?_)
  obtain ⟨w0, w1, e, hf, ho⟩ := encO_fields n hn f stop
  rw [he, e]; exact mem_of_some (hd w0 w1 hw ho hf)

theorem v_reads {i : Instr} {f : VF} (n : Nat) (hn : n < 64) (hp : i.place = .slot 6) (he : ∀ stop, encode stop i = encV n f stop)
    (hd : ∀ w0 w1, i.wf = true → opField w0 = n → vfOf w0 w1 = f → decodeV w0 w1 = some i) : EncodeDecode.Statement i := by
  refine word_reads hp (by decide) (fun hw stop => ?_)
  obtain ⟨w0, w1, e, hf, ho⟩ := encV_fields n hn f stop
  rw [he, e]; exact mem_of_some (hd w0 w1 hw ho hf)

theorem p_reads {i : Instr} {f : PF} (n : Nat) (hn : n < 32) (hp : i.place = .epi) (he : ∀ stop, encode stop i = encP n f)
    (hd : ∀ w, i.wf = true → nfld w.toNat 0 5 = n → pfOf w = f → decodeEpi w = some i) : EncodeDecode.Statement i := by
  refine word_reads hp (by decide) (fun hw stop => ?_)
  obtain ⟨w, e, hf, ho⟩ := encP_fields n hn f
  rw [he, e]; exact mem_of_some (hd w hw ho hf)

theorem w_reads {i : Instr} {f : WF} (n : Nat) (hn : n < 64) (hp : i.place = .word) (he : ∀ stop, encode stop i = encW n f)
    (hd : ∀ w, i.wf = true → nfld w.toNat 0 6 = n → wfOf w = f → decodeWord w = some i) : EncodeDecode.Statement i := by
  refine word_reads hp (by decide) (fun hw stop => ?_)
  obtain ⟨w0, w1, e, hf, ho⟩ := encW_fields n hn f
  rw [he, e]; exact mem_of_some (hd _ hw ho hf)

theorem h_reads {i : Instr} {f : RF} (n : Nat) (hn : n < 8) (hp : i.place = .mgmt) (he : ∀ stop, encode stop i = encH n f)
    (hd : ∀ w, nfld w.toNat 0 7 = 0x0B ∧ nfld w.toNat 25 7 = 0 → nfld w.toNat 12 3 = n → rfOf w = f → decodeMgmt w = some i) :
    EncodeDecode.Statement i := by
  refine word_reads hp (by decide) (fun hw stop => ?_)
  obtain ⟨w, e, hf, h0, h1, h2⟩ := encH_fields n hn f
  rw [he, e]; exact mem_of_some (hd w ⟨h0, h1⟩ h2 hf)

/-- A triad's unit is read back, where its opcode's row of the decoder gives it. -/
theorem triad_reads {i : Instr} {f : TF} (c : Nat) (hp : i.place = f.place) (hw : i.wf = true → okUnit f c = true)
    (hi : unitInstr c f = some i) (he : ∀ stop, encode stop i = encT f stop) : EncodeDecode.Statement i := by
  refine word_reads hp (by simp [TF.place]) (fun h stop => ?_)
  have h := hw h
  obtain ⟨w0, w1, e, hw⟩ := encT_fields f stop
  simp only [okUnit, Bool.and_eq_true, beq_iff_eq] at h
  have hu : (tfOf f.grp .alpha w0 w1).unitsOk = true := by rw [hw]; exact h.1.2
  simp only [decodeAt, TF.place, he, e, nth, List.getD_cons_zero, List.getD_cons_succ, decodeSlot_triad, decodeT, hu, ↓reduceIte]
  refine List.mem_filterMap.2 ⟨f.pos, ?_, ?_⟩
  · cases f.pos <;> simp
  · rw [hw]; simpa only [h.1.1] using hi

theorem EncodeDecode.resultLand (c : Fin 4) : EncodeDecode.Statement (.resultLand c) :=
  event_reads rfl (fun _ => rfl)

theorem EncodeDecode.loadReturn (c : Fin 4) : EncodeDecode.Statement (.loadReturn c) :=
  event_reads rfl (fun _ => rfl)

theorem EncodeDecode.queueEntryVisible (c : Fin 4) (q : Fin 8) (arr : Option QEntry) : EncodeDecode.Statement (.queueEntryVisible c q arr) :=
  event_reads rfl (fun _ => rfl)

theorem EncodeDecode.skqryAnswer (c : Fin 4) : EncodeDecode.Statement (.skqryAnswer c) :=
  event_reads rfl (fun _ => rfl)

theorem EncodeDecode.semWaitSatisfied (n : BitVec 8) : EncodeDecode.Statement (.semWaitSatisfied n) :=
  event_reads rfl (fun _ => rfl)

theorem EncodeDecode.ssigSignal (c : Fin 4) : EncodeDecode.Statement (.ssigSignal c) :=
  event_reads rfl (fun _ => rfl)

theorem EncodeDecode.commandStart (c : Fin 4) (e : Engine) (timed : Bool) : EncodeDecode.Statement (.commandStart c e timed) :=
  event_reads rfl (fun _ => rfl)

theorem EncodeDecode.copyElement (c : Fin 4) (id : BitVec 16) : EncodeDecode.Statement (.copyElement c id) :=
  event_reads rfl (fun _ => rfl)

theorem EncodeDecode.commandComplete (c : Fin 4) (id : BitVec 16) : EncodeDecode.Statement (.commandComplete c id) :=
  event_reads rfl (fun _ => rfl)

theorem EncodeDecode.weightBlockDeliver (c : Fin 4) : EncodeDecode.Statement (.weightBlockDeliver c) :=
  event_reads rfl (fun _ => rfl)

theorem EncodeDecode.bankAccess (bank : BankEvent) : EncodeDecode.Statement (.bankAccess bank) :=
  event_reads rfl (fun _ => rfl)

theorem EncodeDecode.tileDrainComplete (t : BitVec 8) : EncodeDecode.Statement (.tileDrainComplete t) :=
  event_reads rfl (fun _ => rfl)

theorem EncodeDecode.tileStallTimeout (w : TileWaiter) : EncodeDecode.Statement (.tileStallTimeout w) :=
  event_reads rfl (fun _ => rfl)

theorem EncodeDecode.storePerform (c : Fin 4) (id : Nat) : EncodeDecode.Statement (.storePerform c id) :=
  event_reads rfl (fun _ => rfl)

theorem EncodeDecode.propagateStep (lvl : Level) (id : Nat) : EncodeDecode.Statement (.propagateStep lvl id) :=
  event_reads rfl (fun _ => rfl)

theorem EncodeDecode.fillStep (lvl : Level) (pa : BitVec 56) : EncodeDecode.Statement (.fillStep lvl pa) :=
  event_reads rfl (fun _ => rfl)

theorem EncodeDecode.dropStep (lvl : Level) (pa : BitVec 56) : EncodeDecode.Statement (.dropStep lvl pa) :=
  event_reads rfl (fun _ => rfl)

theorem EncodeDecode.loadStep (c : Fin 4) (id : Nat) : EncodeDecode.Statement (.loadStep c id) :=
  event_reads rfl (fun _ => rfl)

theorem EncodeDecode.releaseComplete (c : Fin 4) : EncodeDecode.Statement (.releaseComplete c) :=
  event_reads rfl (fun _ => rfl)

theorem EncodeDecode.homeServe (id : Nat) : EncodeDecode.Statement (.homeServe id) :=
  event_reads rfl (fun _ => rfl)

theorem EncodeDecode.haspReleaseDelivery (c : Fin 4) : EncodeDecode.Statement (.haspReleaseDelivery c) :=
  event_reads rfl (fun _ => rfl)

theorem EncodeDecode.trapRestore (c : Fin 4) : EncodeDecode.Statement (.trapRestore c) :=
  event_reads rfl (fun _ => rfl)

theorem EncodeDecode.parityTrap (c : Fin 4) (p : ParityEvent) : EncodeDecode.Statement (.parityTrap c p) :=
  event_reads rfl (fun _ => rfl)

theorem EncodeDecode.debuggerStop (c : Fin 4) : EncodeDecode.Statement (.debuggerStop c) :=
  event_reads rfl (fun _ => rfl)

theorem EncodeDecode.launchEnd (lid : BitVec 32) : EncodeDecode.Statement (.launchEnd lid) :=
  event_reads rfl (fun _ => rfl)

theorem EncodeDecode.timeLimit (lid : BitVec 32) : EncodeDecode.Statement (.timeLimit lid) :=
  event_reads rfl (fun _ => rfl)

theorem EncodeDecode.killed (lid : BitVec 32) : EncodeDecode.Statement (.killed lid) :=
  event_reads rfl (fun _ => rfl)

theorem EncodeDecode.resume (c : Fin 4) : EncodeDecode.Statement (.resume c) :=
  event_reads rfl (fun _ => rfl)

theorem EncodeDecode.tlbWalk (asid : BitVec 16) (va : BitVec 56) : EncodeDecode.Statement (.tlbWalk asid va) :=
  event_reads rfl (fun _ => rfl)

theorem EncodeDecode.writeRetranslate (c : Fin 4) (id : Nat) : EncodeDecode.Statement (.writeRetranslate c id) :=
  event_reads rfl (fun _ => rfl)

theorem EncodeDecode.mcstStamp (g : BitVec 12) (ext : Option McBlock) : EncodeDecode.Statement (.mcstStamp g ext) :=
  event_reads rfl (fun _ => rfl)

theorem EncodeDecode.blockApply (g : BitVec 12) : EncodeDecode.Statement (.blockApply g) :=
  event_reads rfl (fun _ => rfl)

theorem EncodeDecode.viewChange (g : BitVec 12) (v : ViewInfo) : EncodeDecode.Statement (.viewChange g v) :=
  event_reads rfl (fun _ => rfl)

theorem EncodeDecode.packageLoss (p : BitVec 10) : EncodeDecode.Statement (.packageLoss p) :=
  event_reads rfl (fun _ => rfl)

theorem EncodeDecode.digest (c : Fin 4) (id : BitVec 16) (d : MemberDigest) : EncodeDecode.Statement (.digest c id d) :=
  event_reads rfl (fun _ => rfl)

theorem EncodeDecode.sendPermit (c : Fin 4) (id : BitVec 16) (e : PermitEvent) : EncodeDecode.Statement (.sendPermit c id e) :=
  event_reads rfl (fun _ => rfl)

theorem EncodeDecode.chunkReceive (c : Fin 4) (id : BitVec 16) (bytes : List (BitVec 8)) : EncodeDecode.Statement (.chunkReceive c id bytes) :=
  event_reads rfl (fun _ => rfl)

theorem EncodeDecode.selfTest (u : UnitRef) (cause : TestCause) : EncodeDecode.Statement (.selfTest u cause) :=
  event_reads rfl (fun _ => rfl)

theorem EncodeDecode.selfTestResult (u : UnitRef) (pass : Bool) : EncodeDecode.Statement (.selfTestResult u pass) :=
  event_reads rfl (fun _ => rfl)

theorem EncodeDecode.sensorRefresh (die : Fin 6) (n : BitVec 8) (raw : BitVec 16) : EncodeDecode.Statement (.sensorRefresh die n raw) :=
  event_reads rfl (fun _ => rfl)

theorem EncodeDecode.dramRefresh (bank : Nat) : EncodeDecode.Statement (.dramRefresh bank) :=
  event_reads rfl (fun _ => rfl)

theorem EncodeDecode.activationAlert (bank : Nat) : EncodeDecode.Statement (.activationAlert bank) :=
  event_reads rfl (fun _ => rfl)

theorem EncodeDecode.boot (fail : Option (Fin 6)) (rollback : BitVec 32) : EncodeDecode.Statement (.boot fail rollback) :=
  event_reads rfl (fun _ => rfl)

theorem EncodeDecode.attestationReport (nonce : BitVec 256) (lid : BitVec 32) : EncodeDecode.Statement (.attestationReport nonce lid) :=
  event_reads rfl (fun _ => rfl)

theorem EncodeDecode.hostBar2Access (wr : Bool) (off : BitVec 39) (bytes : List (BitVec 8)) : EncodeDecode.Statement (.hostBar2Access wr off bytes) :=
  event_reads rfl (fun _ => rfl)

theorem EncodeDecode.snop (f : SF) : EncodeDecode.Statement (.snop f) :=
  s_reads 0 (by decide) rfl (fun _ => rfl) (fun _ _ ho hf => by rw [decodeS, ho, hf]; rfl)

theorem EncodeDecode.br (f : SF) : EncodeDecode.Statement (.br f) :=
  s_reads 1 (by decide) rfl (fun _ => rfl) (fun _ _ ho hf => by rw [decodeS, ho, hf]; rfl)

theorem EncodeDecode.bri (f : SF) : EncodeDecode.Statement (.bri f) :=
  s_reads 2 (by decide) rfl (fun _ => rfl) (fun _ _ ho hf => by rw [decodeS, ho, hf]; rfl)

theorem EncodeDecode.callS (f : SF) : EncodeDecode.Statement (.callS f) :=
  s_reads 3 (by decide) rfl (fun _ => rfl) (fun _ _ ho hf => by rw [decodeS, ho, hf]; rfl)

theorem EncodeDecode.ret (f : SF) : EncodeDecode.Statement (.ret f) :=
  s_reads 4 (by decide) rfl (fun _ => rfl) (fun _ _ ho hf => by rw [decodeS, ho, hf]; rfl)

theorem EncodeDecode.loopS (f : SF) : EncodeDecode.Statement (.loopS f) :=
  s_reads 5 (by decide) rfl (fun _ => rfl) (fun _ _ ho hf => by rw [decodeS, ho, hf]; rfl)

theorem EncodeDecode.loopsp (f : SF) : EncodeDecode.Statement (.loopsp f) :=
  s_reads 6 (by decide) rfl (fun _ => rfl) (fun _ _ ho hf => by rw [decodeS, ho, hf]; rfl)

theorem EncodeDecode.lbrk (f : SF) : EncodeDecode.Statement (.lbrk f) :=
  s_reads 7 (by decide) rfl (fun _ => rfl) (fun _ _ ho hf => by rw [decodeS, ho, hf]; rfl)

theorem EncodeDecode.glog (f : SF) : EncodeDecode.Statement (.glog f) :=
  s_reads 8 (by decide) rfl (fun _ => rfl) (fun _ _ ho hf => by rw [decodeS, ho, hf]; rfl)

theorem EncodeDecode.klog (f : SF) : EncodeDecode.Statement (.klog f) :=
  s_reads 9 (by decide) rfl (fun _ => rfl) (fun _ _ ho hf => by rw [decodeS, ho, hf]; rfl)

theorem EncodeDecode.kmovFromK (f : SF) : EncodeDecode.Statement (.kmovFromK f) := by
  refine s_reads 10 (by decide) rfl (fun _ => rfl) (fun w h ho hf => ?_)
  have hv : f.x.getLsbD 11 = false := by
    simp only [Instr.wf, operandsOk, SF.top, SF.f, nfld, Nat.shiftRight_eq_div_pow, Bool.and_eq_true, decide_eq_true_eq, beq_iff_eq] at h
    rw [BitVec.getLsbD, Nat.testBit_eq_decide_div_mod_eq]; simp only [decide_eq_true_eq, decide_eq_false_iff_not]; omega
  have hb := sfOf_bit w f hf 11 (by decide)
  rw [hv] at hb
  simp only [Nat.reduceAdd] at hb
  rw [decodeS, ho, hf]; simp only [hb]; rfl

theorem EncodeDecode.kmovToK (f : SF) : EncodeDecode.Statement (.kmovToK f) := by
  refine s_reads 10 (by decide) rfl (fun _ => rfl) (fun w h ho hf => ?_)
  have hv : f.x.getLsbD 11 = true := by
    simp only [Instr.wf, operandsOk, SF.top, SF.f, nfld, Nat.shiftRight_eq_div_pow, Bool.and_eq_true, decide_eq_true_eq, beq_iff_eq] at h
    rw [BitVec.getLsbD, Nat.testBit_eq_decide_div_mod_eq]; simp only [decide_eq_true_eq, decide_eq_false_iff_not]; omega
  have hb := sfOf_bit w f hf 11 (by decide)
  rw [hv] at hb
  simp only [Nat.reduceAdd] at hb
  rw [decodeS, ho, hf]; simp only [hb]; rfl

theorem EncodeDecode.markS (f : SF) : EncodeDecode.Statement (.markS f) :=
  s_reads 11 (by decide) rfl (fun _ => rfl) (fun _ _ ho hf => by rw [decodeS, ho, hf]; rfl)

theorem EncodeDecode.nodeS (f : SF) : EncodeDecode.Statement (.nodeS f) :=
  s_reads 12 (by decide) rfl (fun _ => rfl) (fun _ _ ho hf => by rw [decodeS, ho, hf]; rfl)

theorem EncodeDecode.endCtx (f : SF) : EncodeDecode.Statement (.endCtx f) :=
  s_reads 13 (by decide) rfl (fun _ => rfl) (fun _ _ ho hf => by rw [decodeS, ho, hf]; rfl)

theorem EncodeDecode.sstep (f : SF) : EncodeDecode.Statement (.sstep f) :=
  s_reads 14 (by decide) rfl (fun _ => rfl) (fun _ _ ho hf => by rw [decodeS, ho, hf]; rfl)

theorem EncodeDecode.bara (f : SF) : EncodeDecode.Statement (.bara f) :=
  s_reads 15 (by decide) rfl (fun _ => rfl) (fun _ _ ho hf => by rw [decodeS, ho, hf]; rfl)

theorem EncodeDecode.barw (f : SF) : EncodeDecode.Statement (.barw f) :=
  s_reads 16 (by decide) rfl (fun _ => rfl) (fun _ _ ho hf => by rw [decodeS, ho, hf]; rfl)

theorem EncodeDecode.swait (f : SF) : EncodeDecode.Statement (.swait f) :=
  s_reads 17 (by decide) rfl (fun _ => rfl) (fun _ _ ho hf => by rw [decodeS, ho, hf]; rfl)

theorem EncodeDecode.ssig (f : SF) : EncodeDecode.Statement (.ssig f) := by
  refine s_reads 18 (by decide) rfl (fun _ => rfl) (fun w h ho hf => ?_)
  have hv : f.x.getLsbD 19 = false := by
    simp only [Instr.wf, operandsOk, SF.top, SF.f, nfld, Nat.shiftRight_eq_div_pow, Bool.and_eq_true, decide_eq_true_eq, beq_iff_eq] at h
    rw [BitVec.getLsbD, Nat.testBit_eq_decide_div_mod_eq]; simp only [decide_eq_true_eq, decide_eq_false_iff_not]; omega
  have hb := sfOf_bit w f hf 19 (by decide)
  rw [hv] at hb
  simp only [Nat.reduceAdd] at hb
  rw [decodeS, ho, hf]; simp only [hb]; rfl

theorem EncodeDecode.ssigClr (f : SF) : EncodeDecode.Statement (.ssigClr f) := by
  refine s_reads 18 (by decide) rfl (fun _ => rfl) (fun w h ho hf => ?_)
  have hv : f.x.getLsbD 19 = true := by
    simp only [Instr.wf, operandsOk, SF.top, SF.f, nfld, Nat.shiftRight_eq_div_pow, Bool.and_eq_true, decide_eq_true_eq, beq_iff_eq] at h
    rw [BitVec.getLsbD, Nat.testBit_eq_decide_div_mod_eq]; simp only [decide_eq_true_eq, decide_eq_false_iff_not]; omega
  have hb := sfOf_bit w f hf 19 (by decide)
  rw [hv] at hb
  simp only [Nat.reduceAdd] at hb
  rw [decodeS, ho, hf]; simp only [hb]; rfl

theorem EncodeDecode.fcrw (f : SF) : EncodeDecode.Statement (.fcrw f) :=
  s_reads 19 (by decide) rfl (fun _ => rfl) (fun _ _ ho hf => by rw [decodeS, ho, hf]; rfl)

theorem EncodeDecode.fsrr (f : SF) : EncodeDecode.Statement (.fsrr f) := by
  refine s_reads 20 (by decide) rfl (fun _ => rfl) (fun w h ho hf => ?_)
  have hv : f.x.getLsbD 12 = false := by
    simp only [Instr.wf, operandsOk, SF.top, SF.f, nfld, Nat.shiftRight_eq_div_pow, Bool.and_eq_true, decide_eq_true_eq, beq_iff_eq] at h
    rw [BitVec.getLsbD, Nat.testBit_eq_decide_div_mod_eq]; simp only [decide_eq_true_eq, decide_eq_false_iff_not]; omega
  have hb := sfOf_bit w f hf 12 (by decide)
  rw [hv] at hb
  simp only [Nat.reduceAdd] at hb
  rw [decodeS, ho, hf]; simp only [hb]; rfl

theorem EncodeDecode.fsrrClear (f : SF) : EncodeDecode.Statement (.fsrrClear f) := by
  refine s_reads 20 (by decide) rfl (fun _ => rfl) (fun w h ho hf => ?_)
  have hv : f.x.getLsbD 12 = true := by
    simp only [Instr.wf, operandsOk, SF.top, SF.f, nfld, Nat.shiftRight_eq_div_pow, Bool.and_eq_true, decide_eq_true_eq, beq_iff_eq] at h
    rw [BitVec.getLsbD, Nat.testBit_eq_decide_div_mod_eq]; simp only [decide_eq_true_eq, decide_eq_false_iff_not]; omega
  have hb := sfOf_bit w f hf 12 (by decide)
  rw [hv] at hb
  simp only [Nat.reduceAdd] at hb
  rw [decodeS, ho, hf]; simp only [hb]; rfl

theorem EncodeDecode.sysr (f : SF) : EncodeDecode.Statement (.sysr f) :=
  s_reads 21 (by decide) rfl (fun _ => rfl) (fun _ _ ho hf => by rw [decodeS, ho, hf]; rfl)

theorem EncodeDecode.sysw (f : SF) : EncodeDecode.Statement (.sysw f) :=
  s_reads 22 (by decide) rfl (fun _ => rfl) (fun _ _ ho hf => by rw [decodeS, ho, hf]; rfl)

theorem EncodeDecode.lsupd (f : SF) : EncodeDecode.Statement (.lsupd f) :=
  s_reads 23 (by decide) rfl (fun _ => rfl) (fun _ _ ho hf => by rw [decodeS, ho, hf]; rfl)

theorem EncodeDecode.rseek (f : SF) : EncodeDecode.Statement (.rseek f) :=
  s_reads 24 (by decide) rfl (fun _ => rfl) (fun _ _ ho hf => by rw [decodeS, ho, hf]; rfl)

theorem EncodeDecode.brk (f : SF) : EncodeDecode.Statement (.brk f) :=
  s_reads 25 (by decide) rfl (fun _ => rfl) (fun _ _ ho hf => by rw [decodeS, ho, hf]; rfl)

theorem EncodeDecode.semrd (f : SF) : EncodeDecode.Statement (.semrd f) :=
  s_reads 26 (by decide) rfl (fun _ => rfl) (fun _ _ ho hf => by rw [decodeS, ho, hf]; rfl)

theorem EncodeDecode.gtbr (f : SF) : EncodeDecode.Statement (.gtbr f) :=
  s_reads 27 (by decide) rfl (fun _ => rfl) (fun _ _ ho hf => by rw [decodeS, ho, hf]; rfl)

theorem EncodeDecode.waitt (f : SF) : EncodeDecode.Statement (.waitt f) :=
  s_reads 28 (by decide) rfl (fun _ => rfl) (fun _ _ ho hf => by rw [decodeS, ho, hf]; rfl)

theorem EncodeDecode.qmask (f : SF) : EncodeDecode.Statement (.qmask f) :=
  s_reads 29 (by decide) rfl (fun _ => rfl) (fun _ _ ho hf => by rw [decodeS, ho, hf]; rfl)

theorem EncodeDecode.anop (f : AF) : EncodeDecode.Statement (.anop f) :=
  a_reads 0 (by decide) rfl (fun _ => rfl) (fun _ _ _ ho hf => by rw [decodeA, ho, hf]; rfl)

theorem EncodeDecode.add (f : AF) : EncodeDecode.Statement (.add f) :=
  a_reads 1 (by decide) rfl (fun _ => rfl) (fun _ _ _ ho hf => by rw [decodeA, ho, hf]; rfl)

theorem EncodeDecode.sub (f : AF) : EncodeDecode.Statement (.sub f) :=
  a_reads 2 (by decide) rfl (fun _ => rfl) (fun _ _ _ ho hf => by rw [decodeA, ho, hf]; rfl)

theorem EncodeDecode.mul (f : AF) : EncodeDecode.Statement (.mul f) :=
  a_reads 3 (by decide) rfl (fun _ => rfl) (fun _ _ _ ho hf => by rw [decodeA, ho, hf]; rfl)

theorem EncodeDecode.mulh (f : AF) : EncodeDecode.Statement (.mulh f) :=
  a_reads 4 (by decide) rfl (fun _ => rfl) (fun _ _ _ ho hf => by rw [decodeA, ho, hf]; rfl)

theorem EncodeDecode.div (f : AF) : EncodeDecode.Statement (.div f) :=
  a_reads 5 (by decide) rfl (fun _ => rfl) (fun _ _ _ ho hf => by rw [decodeA, ho, hf]; rfl)

theorem EncodeDecode.divu (f : AF) : EncodeDecode.Statement (.divu f) :=
  a_reads 6 (by decide) rfl (fun _ => rfl) (fun _ _ _ ho hf => by rw [decodeA, ho, hf]; rfl)

theorem EncodeDecode.andA (f : AF) : EncodeDecode.Statement (.andA f) :=
  a_reads 7 (by decide) rfl (fun _ => rfl) (fun _ _ _ ho hf => by rw [decodeA, ho, hf]; rfl)

theorem EncodeDecode.orA (f : AF) : EncodeDecode.Statement (.orA f) :=
  a_reads 8 (by decide) rfl (fun _ => rfl) (fun _ _ _ ho hf => by rw [decodeA, ho, hf]; rfl)

theorem EncodeDecode.xorA (f : AF) : EncodeDecode.Statement (.xorA f) :=
  a_reads 9 (by decide) rfl (fun _ => rfl) (fun _ _ _ ho hf => by rw [decodeA, ho, hf]; rfl)

theorem EncodeDecode.shl (f : AF) : EncodeDecode.Statement (.shl f) :=
  a_reads 10 (by decide) rfl (fun _ => rfl) (fun _ _ _ ho hf => by rw [decodeA, ho, hf]; rfl)

theorem EncodeDecode.shr (f : AF) : EncodeDecode.Statement (.shr f) :=
  a_reads 11 (by decide) rfl (fun _ => rfl) (fun _ _ _ ho hf => by rw [decodeA, ho, hf]; rfl)

theorem EncodeDecode.sra (f : AF) : EncodeDecode.Statement (.sra f) :=
  a_reads 12 (by decide) rfl (fun _ => rfl) (fun _ _ _ ho hf => by rw [decodeA, ho, hf]; rfl)

theorem EncodeDecode.minA (f : AF) : EncodeDecode.Statement (.minA f) :=
  a_reads 13 (by decide) rfl (fun _ => rfl) (fun _ _ _ ho hf => by rw [decodeA, ho, hf]; rfl)

theorem EncodeDecode.maxA (f : AF) : EncodeDecode.Statement (.maxA f) :=
  a_reads 14 (by decide) rfl (fun _ => rfl) (fun _ _ _ ho hf => by rw [decodeA, ho, hf]; rfl)

theorem EncodeDecode.addi (f : AF) : EncodeDecode.Statement (.addi f) :=
  a_reads 15 (by decide) rfl (fun _ => rfl) (fun _ _ _ ho hf => by rw [decodeA, ho, hf]; rfl)

theorem EncodeDecode.li (f : AF) : EncodeDecode.Statement (.li f) :=
  a_reads 16 (by decide) rfl (fun _ => rfl) (fun _ _ _ ho hf => by rw [decodeA, ho, hf]; rfl)

theorem EncodeDecode.lih (f : AF) : EncodeDecode.Statement (.lih f) := by
  refine a_reads 17 (by decide) rfl (fun _ => rfl) (fun w0 w1 h ho hf => ?_)
  have hv : w0.extractLsb' 30 2 ≠ 1 := by
    rw [afOf_w w0 w1 f hf]
    simp only [Instr.wf, operandsOk, okReg, Bool.and_eq_true, beq_iff_eq, decide_eq_true_eq] at h
    intro hc; simp [hc] at h
  rw [decodeA, ho, hf]; simp only [aVar, hv, ↓reduceIte]

theorem EncodeDecode.lihChunk1 (f : AF) : EncodeDecode.Statement (.lihChunk1 f) := by
  refine a_reads 17 (by decide) rfl (fun _ => rfl) (fun w0 w1 h ho hf => ?_)
  have hv : w0.extractLsb' 30 2 = 1 := by
    rw [afOf_w w0 w1 f hf]
    simp only [Instr.wf, operandsOk, okReg, Bool.and_eq_true, beq_iff_eq, decide_eq_true_eq] at h
    simp only [h]
  rw [decodeA, ho, hf]; simp only [aVar, hv, ↓reduceIte]

theorem EncodeDecode.cmp (f : AF) : EncodeDecode.Statement (.cmp f) := by
  refine a_reads 18 (by decide) rfl (fun _ => rfl) (fun w0 w1 h ho hf => ?_)
  have hv : w0.extractLsb' 30 2 ≠ 1 := by
    rw [afOf_w w0 w1 f hf]
    simp only [Instr.wf, operandsOk, okReg, Bool.and_eq_true, beq_iff_eq, decide_eq_true_eq] at h
    intro hc; simp [hc] at h
  rw [decodeA, ho, hf]; simp only [aVar, hv, ↓reduceIte]

theorem EncodeDecode.cmpImmediate (f : AF) : EncodeDecode.Statement (.cmpImmediate f) := by
  refine a_reads 18 (by decide) rfl (fun _ => rfl) (fun w0 w1 h ho hf => ?_)
  have hv : w0.extractLsb' 30 2 = 1 := by
    rw [afOf_w w0 w1 f hf]
    simp only [Instr.wf, operandsOk, okReg, Bool.and_eq_true, beq_iff_eq, decide_eq_true_eq] at h
    simp only [h]
  rw [decodeA, ho, hf]; simp only [aVar, hv, ↓reduceIte]

theorem EncodeDecode.selA (f : AF) : EncodeDecode.Statement (.selA f) :=
  a_reads 19 (by decide) rfl (fun _ => rfl) (fun _ _ _ ho hf => by rw [decodeA, ho, hf]; rfl)

theorem EncodeDecode.movmToM (f : AF) : EncodeDecode.Statement (.movmToM f) := by
  refine a_reads 20 (by decide) rfl (fun _ => rfl) (fun w0 w1 h ho hf => ?_)
  have hv : w0.extractLsb' 30 2 ≠ 1 := by
    rw [afOf_w w0 w1 f hf]
    simp only [Instr.wf, operandsOk, okReg, Bool.and_eq_true, beq_iff_eq, decide_eq_true_eq] at h
    intro hc; simp [hc] at h
  rw [decodeA, ho, hf]; simp only [aVar, hv, ↓reduceIte]

theorem EncodeDecode.movmFromM (f : AF) : EncodeDecode.Statement (.movmFromM f) := by
  refine a_reads 20 (by decide) rfl (fun _ => rfl) (fun w0 w1 h ho hf => ?_)
  have hv : w0.extractLsb' 30 2 = 1 := by
    rw [afOf_w w0 w1 f hf]
    simp only [Instr.wf, operandsOk, okReg, Bool.and_eq_true, beq_iff_eq, decide_eq_true_eq] at h
    simp only [h]
  rw [decodeA, ho, hf]; simp only [aVar, hv, ↓reduceIte]

theorem EncodeDecode.movsToS (f : AF) : EncodeDecode.Statement (.movsToS f) := by
  refine a_reads 21 (by decide) rfl (fun _ => rfl) (fun w0 w1 h ho hf => ?_)
  have hv : w0.extractLsb' 30 2 ≠ 1 := by
    rw [afOf_w w0 w1 f hf]
    simp only [Instr.wf, operandsOk, okReg, Bool.and_eq_true, beq_iff_eq, decide_eq_true_eq] at h
    intro hc; simp [hc] at h
  rw [decodeA, ho, hf]; simp only [aVar, hv, ↓reduceIte]

theorem EncodeDecode.movsToG (f : AF) : EncodeDecode.Statement (.movsToG f) := by
  refine a_reads 21 (by decide) rfl (fun _ => rfl) (fun w0 w1 h ho hf => ?_)
  have hv : w0.extractLsb' 30 2 = 1 := by
    rw [afOf_w w0 w1 f hf]
    simp only [Instr.wf, operandsOk, okReg, Bool.and_eq_true, beq_iff_eq, decide_eq_true_eq] at h
    simp only [h]
  rw [decodeA, ho, hf]; simp only [aVar, hv, ↓reduceIte]

theorem EncodeDecode.lds (f : AF) : EncodeDecode.Statement (.lds f) :=
  a_reads 22 (by decide) rfl (fun _ => rfl) (fun _ _ _ ho hf => by rw [decodeA, ho, hf]; rfl)

theorem EncodeDecode.sts (f : AF) : EncodeDecode.Statement (.sts f) :=
  a_reads 23 (by decide) rfl (fun _ => rfl) (fun _ _ _ ho hf => by rw [decodeA, ho, hf]; rfl)

theorem EncodeDecode.amo (f : AF) : EncodeDecode.Statement (.amo f) :=
  a_reads 24 (by decide) rfl (fun _ => rfl) (fun _ _ _ ho hf => by rw [decodeA, ho, hf]; rfl)

theorem EncodeDecode.fence (f : AF) : EncodeDecode.Statement (.fence f) :=
  a_reads 25 (by decide) rfl (fun _ => rfl) (fun _ _ _ ho hf => by rw [decodeA, ho, hf]; rfl)

theorem EncodeDecode.probe (f : AF) : EncodeDecode.Statement (.probe f) :=
  a_reads 26 (by decide) rfl (fun _ => rfl) (fun _ _ _ ho hf => by rw [decodeA, ho, hf]; rfl)

theorem EncodeDecode.tdef (f : AF) : EncodeDecode.Statement (.tdef f) :=
  a_reads 27 (by decide) rfl (fun _ => rfl) (fun _ _ _ ho hf => by rw [decodeA, ho, hf]; rfl)

theorem EncodeDecode.tfree (f : AF) : EncodeDecode.Statement (.tfree f) :=
  a_reads 28 (by decide) rfl (fun _ => rfl) (fun _ _ _ ho hf => by rw [decodeA, ho, hf]; rfl)

theorem EncodeDecode.tstat (f : AF) : EncodeDecode.Statement (.tstat f) :=
  a_reads 29 (by decide) rfl (fun _ => rfl) (fun _ _ _ ho hf => by rw [decodeA, ho, hf]; rfl)

theorem EncodeDecode.tdesc (f : AF) : EncodeDecode.Statement (.tdesc f) :=
  a_reads 30 (by decide) rfl (fun _ => rfl) (fun _ _ _ ho hf => by rw [decodeA, ho, hf]; rfl)

theorem EncodeDecode.bfxcfg (f : AF) : EncodeDecode.Statement (.bfxcfg f) :=
  a_reads 31 (by decide) rfl (fun _ => rfl) (fun _ _ _ ho hf => by rw [decodeA, ho, hf]; rfl)

theorem EncodeDecode.ssrcfg (f : AF) : EncodeDecode.Statement (.ssrcfg f) :=
  a_reads 32 (by decide) rfl (fun _ => rfl) (fun _ _ _ ho hf => by rw [decodeA, ho, hf]; rfl)

theorem EncodeDecode.ssrclr (f : AF) : EncodeDecode.Statement (.ssrclr f) := by
  refine a_reads 33 (by decide) rfl (fun _ => rfl) (fun w0 w1 h ho hf => ?_)
  have hv : w0.extractLsb' 30 2 ≠ 1 := by
    rw [afOf_w w0 w1 f hf]
    simp only [Instr.wf, operandsOk, okReg, Bool.and_eq_true, beq_iff_eq, decide_eq_true_eq] at h
    intro hc; simp [hc] at h
  rw [decodeA, ho, hf]; simp only [aVar, hv, ↓reduceIte]

theorem EncodeDecode.ssrclrSatd (f : AF) : EncodeDecode.Statement (.ssrclrSatd f) := by
  refine a_reads 33 (by decide) rfl (fun _ => rfl) (fun w0 w1 h ho hf => ?_)
  have hv : w0.extractLsb' 30 2 = 1 := by
    rw [afOf_w w0 w1 f hf]
    simp only [Instr.wf, operandsOk, okReg, Bool.and_eq_true, beq_iff_eq, decide_eq_true_eq] at h
    simp only [h]
  rw [decodeA, ho, hf]; simp only [aVar, hv, ↓reduceIte]

theorem EncodeDecode.ssrrd (f : AF) : EncodeDecode.Statement (.ssrrd f) :=
  a_reads 34 (by decide) rfl (fun _ => rfl) (fun _ _ _ ho hf => by rw [decodeA, ho, hf]; rfl)

theorem EncodeDecode.ssrwr (f : AF) : EncodeDecode.Statement (.ssrwr f) :=
  a_reads 35 (by decide) rfl (fun _ => rfl) (fun _ _ _ ho hf => by rw [decodeA, ho, hf]; rfl)

theorem EncodeDecode.cvts (f : AF) : EncodeDecode.Statement (.cvts f) :=
  a_reads 36 (by decide) rfl (fun _ => rfl) (fun _ _ _ ho hf => by rw [decodeA, ho, hf]; rfl)

theorem EncodeDecode.fadds (f : AF) : EncodeDecode.Statement (.fadds f) := by
  refine a_reads 37 (by decide) rfl (fun _ => rfl) (fun w0 w1 h ho hf => ?_)
  have hv : w0.extractLsb' 30 2 ≠ 1 := by
    rw [afOf_w w0 w1 f hf]
    simp only [Instr.wf, operandsOk, okReg, Bool.and_eq_true, beq_iff_eq, decide_eq_true_eq] at h
    intro hc; simp [hc] at h
  rw [decodeA, ho, hf]; simp only [aVar, hv, ↓reduceIte]

theorem EncodeDecode.faddsNegated (f : AF) : EncodeDecode.Statement (.faddsNegated f) := by
  refine a_reads 37 (by decide) rfl (fun _ => rfl) (fun w0 w1 h ho hf => ?_)
  have hv : w0.extractLsb' 30 2 = 1 := by
    rw [afOf_w w0 w1 f hf]
    simp only [Instr.wf, operandsOk, okReg, Bool.and_eq_true, beq_iff_eq, decide_eq_true_eq] at h
    simp only [h]
  rw [decodeA, ho, hf]; simp only [aVar, hv, ↓reduceIte]

theorem EncodeDecode.fmuls (f : AF) : EncodeDecode.Statement (.fmuls f) :=
  a_reads 38 (by decide) rfl (fun _ => rfl) (fun _ _ _ ho hf => by rw [decodeA, ho, hf]; rfl)

theorem EncodeDecode.fmas (f : AF) : EncodeDecode.Statement (.fmas f) :=
  a_reads 39 (by decide) rfl (fun _ => rfl) (fun _ _ _ ho hf => by rw [decodeA, ho, hf]; rfl)

theorem EncodeDecode.fcmps (f : AF) : EncodeDecode.Statement (.fcmps f) :=
  a_reads 40 (by decide) rfl (fun _ => rfl) (fun _ _ _ ho hf => by rw [decodeA, ho, hf]; rfl)

theorem EncodeDecode.mnop (f : SF) : EncodeDecode.Statement (.mnop f) :=
  m_reads 0 (by decide) rfl (fun _ => rfl) (fun _ _ ho hf => by rw [decodeM, ho, hf]; rfl)

theorem EncodeDecode.mcall (f : SF) : EncodeDecode.Statement (.mcall f) :=
  m_reads 1 (by decide) rfl (fun _ => rfl) (fun _ _ ho hf => by rw [decodeM, ho, hf]; rfl)

theorem EncodeDecode.mquiet (f : SF) : EncodeDecode.Statement (.mquiet f) :=
  m_reads 2 (by decide) rfl (fun _ => rfl) (fun _ _ ho hf => by rw [decodeM, ho, hf]; rfl)

theorem EncodeDecode.enop (f : EF) : EncodeDecode.Statement (.enop f) :=
  e_reads 0 (by decide) rfl (fun _ => rfl) (fun _ _ _ ho hf => by rw [decodeE, ho, hf]; rfl)

theorem EncodeDecode.copy (f : EF) : EncodeDecode.Statement (.copy f) :=
  e_reads 1 (by decide) rfl (fun _ => rfl) (fun _ _ _ ho hf => by rw [decodeE, ho, hf]; rfl)

theorem EncodeDecode.tload (f : EF) : EncodeDecode.Statement (.tload f) :=
  e_reads 2 (by decide) rfl (fun _ => rfl) (fun _ _ _ ho hf => by rw [decodeE, ho, hf]; rfl)

theorem EncodeDecode.coll (f : EF) : EncodeDecode.Statement (.coll f) :=
  e_reads 3 (by decide) rfl (fun _ => rfl) (fun _ _ _ ho hf => by rw [decodeE, ho, hf]; rfl)

theorem EncodeDecode.mcst (f : EF) : EncodeDecode.Statement (.mcst f) :=
  e_reads 4 (by decide) rfl (fun _ => rfl) (fun _ _ _ ho hf => by rw [decodeE, ho, hf]; rfl)

theorem EncodeDecode.skadd (f : EF) : EncodeDecode.Statement (.skadd f) :=
  e_reads 5 (by decide) rfl (fun _ => rfl) (fun _ _ _ ho hf => by rw [decodeE, ho, hf]; rfl)

theorem EncodeDecode.skscl (f : EF) : EncodeDecode.Statement (.skscl f) :=
  e_reads 6 (by decide) rfl (fun _ => rfl) (fun _ _ _ ho hf => by rw [decodeE, ho, hf]; rfl)

theorem EncodeDecode.skzero (f : EF) : EncodeDecode.Statement (.skzero f) :=
  e_reads 7 (by decide) rfl (fun _ => rfl) (fun _ _ _ ho hf => by rw [decodeE, ho, hf]; rfl)

theorem EncodeDecode.muload (f : EF) : EncodeDecode.Statement (.muload f) :=
  e_reads 8 (by decide) rfl (fun _ => rfl) (fun _ _ _ ho hf => by rw [decodeE, ho, hf]; rfl)

theorem EncodeDecode.epload (f : EF) : EncodeDecode.Statement (.epload f) :=
  e_reads 9 (by decide) rfl (fun _ => rfl) (fun _ _ _ ho hf => by rw [decodeE, ho, hf]; rfl)

theorem EncodeDecode.equiet (f : EF) : EncodeDecode.Statement (.equiet f) :=
  e_reads 10 (by decide) rfl (fun _ => rfl) (fun _ _ _ ho hf => by rw [decodeE, ho, hf]; rfl)

theorem EncodeDecode.onop (f : OF) : EncodeDecode.Statement (.onop f) :=
  o_reads 0 (by decide) rfl (fun _ => rfl) (fun _ _ _ ho hf => by rw [decodeO, ho, hf]; rfl)

theorem EncodeDecode.ord (f : OF) : EncodeDecode.Statement (.ord f) :=
  o_reads 1 (by decide) rfl (fun _ => rfl) (fun _ _ _ ho hf => by rw [decodeO, ho, hf]; rfl)

theorem EncodeDecode.owr (f : OF) : EncodeDecode.Statement (.owr f) :=
  o_reads 2 (by decide) rfl (fun _ => rfl) (fun _ _ _ ho hf => by rw [decodeO, ho, hf]; rfl)

theorem EncodeDecode.oadd (f : OF) : EncodeDecode.Statement (.oadd f) :=
  o_reads 3 (by decide) rfl (fun _ => rfl) (fun _ _ _ ho hf => by rw [decodeO, ho, hf]; rfl)

theorem EncodeDecode.ozero (f : OF) : EncodeDecode.Statement (.ozero f) :=
  o_reads 4 (by decide) rfl (fun _ => rfl) (fun _ _ _ ho hf => by rw [decodeO, ho, hf]; rfl)

theorem EncodeDecode.oscl (f : OF) : EncodeDecode.Statement (.oscl f) :=
  o_reads 5 (by decide) rfl (fun _ => rfl) (fun _ _ _ ho hf => by rw [decodeO, ho, hf]; rfl)

theorem EncodeDecode.xnop (f : XF) : EncodeDecode.Statement (.xnop f) :=
  x_reads 0 (by decide) rfl (fun _ => rfl) (fun _ _ ho hf => by rw [decodeX, ho, hf]; rfl)

theorem EncodeDecode.xcp (f : XF) : EncodeDecode.Statement (.xcp f) :=
  x_reads 1 (by decide) rfl (fun _ => rfl) (fun _ _ ho hf => by rw [decodeX, ho, hf]; rfl)

theorem EncodeDecode.xbc (f : XF) : EncodeDecode.Statement (.xbc f) :=
  x_reads 2 (by decide) rfl (fun _ => rfl) (fun _ _ ho hf => by rw [decodeX, ho, hf]; rfl)

theorem EncodeDecode.xsum (f : XF) : EncodeDecode.Statement (.xsum f) :=
  x_reads 3 (by decide) rfl (fun _ => rfl) (fun _ _ ho hf => by rw [decodeX, ho, hf]; rfl)

theorem EncodeDecode.xmax (f : XF) : EncodeDecode.Statement (.xmax f) :=
  x_reads 4 (by decide) rfl (fun _ => rfl) (fun _ _ ho hf => by rw [decodeX, ho, hf]; rfl)

theorem EncodeDecode.xshf (f : XF) : EncodeDecode.Statement (.xshf f) :=
  x_reads 5 (by decide) rfl (fun _ => rfl) (fun _ _ ho hf => by rw [decodeX, ho, hf]; rfl)

theorem EncodeDecode.xs2v (f : XF) : EncodeDecode.Statement (.xs2v f) :=
  x_reads 6 (by decide) rfl (fun _ => rfl) (fun _ _ ho hf => by rw [decodeX, ho, hf]; rfl)

theorem EncodeDecode.xv2s (f : XF) : EncodeDecode.Statement (.xv2s f) :=
  x_reads 7 (by decide) rfl (fun _ => rfl) (fun _ _ ho hf => by rw [decodeX, ho, hf]; rfl)

theorem EncodeDecode.vnop (f : VF) : EncodeDecode.Statement (.vnop f) :=
  v_reads 0 (by decide) rfl (fun _ => rfl) (fun _ _ _ ho hf => by rw [decodeV, ho, hf]; rfl)

theorem EncodeDecode.ldv (f : VF) : EncodeDecode.Statement (.ldv f) :=
  v_reads 1 (by decide) rfl (fun _ => rfl) (fun _ _ _ ho hf => by rw [decodeV, ho, hf]; rfl)

theorem EncodeDecode.stv (f : VF) : EncodeDecode.Statement (.stv f) :=
  v_reads 2 (by decide) rfl (fun _ => rfl) (fun _ _ _ ho hf => by rw [decodeV, ho, hf]; rfl)

theorem EncodeDecode.ldg (f : VF) : EncodeDecode.Statement (.ldg f) :=
  v_reads 3 (by decide) rfl (fun _ => rfl) (fun _ _ _ ho hf => by rw [decodeV, ho, hf]; rfl)

theorem EncodeDecode.stg (f : VF) : EncodeDecode.Statement (.stg f) :=
  v_reads 4 (by decide) rfl (fun _ => rfl) (fun _ _ _ ho hf => by rw [decodeV, ho, hf]; rfl)

theorem EncodeDecode.ldt (f : VF) : EncodeDecode.Statement (.ldt f) :=
  v_reads 5 (by decide) rfl (fun _ => rfl) (fun _ _ _ ho hf => by rw [decodeV, ho, hf]; rfl)

theorem EncodeDecode.ldx (f : VF) : EncodeDecode.Statement (.ldx f) :=
  v_reads 6 (by decide) rfl (fun _ => rfl) (fun _ _ _ ho hf => by rw [decodeV, ho, hf]; rfl)

theorem EncodeDecode.unpk (f : VF) : EncodeDecode.Statement (.unpk f) :=
  v_reads 7 (by decide) rfl (fun _ => rfl) (fun _ _ _ ho hf => by rw [decodeV, ho, hf]; rfl)

theorem EncodeDecode.gath (f : VF) : EncodeDecode.Statement (.gath f) :=
  v_reads 8 (by decide) rfl (fun _ => rfl) (fun _ _ _ ho hf => by rw [decodeV, ho, hf]; rfl)

theorem EncodeDecode.scat (f : VF) : EncodeDecode.Statement (.scat f) :=
  v_reads 9 (by decide) rfl (fun _ => rfl) (fun _ _ _ ho hf => by rw [decodeV, ho, hf]; rfl)

theorem EncodeDecode.vamo (f : VF) : EncodeDecode.Statement (.vamo f) :=
  v_reads 10 (by decide) rfl (fun _ => rfl) (fun _ _ _ ho hf => by rw [decodeV, ho, hf]; rfl)

theorem EncodeDecode.skupd (f : VF) : EncodeDecode.Statement (.skupd f) :=
  v_reads 11 (by decide) rfl (fun _ => rfl) (fun _ _ _ ho hf => by rw [decodeV, ho, hf]; rfl)

theorem EncodeDecode.skqry (f : VF) : EncodeDecode.Statement (.skqry f) :=
  v_reads 12 (by decide) rfl (fun _ => rfl) (fun _ _ _ ho hf => by rw [decodeV, ho, hf]; rfl)

theorem EncodeDecode.pushq (f : VF) : EncodeDecode.Statement (.pushq f) :=
  v_reads 13 (by decide) rfl (fun _ => rfl) (fun _ _ _ ho hf => by rw [decodeV, ho, hf]; rfl)

theorem EncodeDecode.unitNone (f : TF) : EncodeDecode.Statement (.unitNone f) :=
  triad_reads 0 rfl (fun h => h) rfl (fun _ => rfl)

theorem EncodeDecode.iadd (f : TF) : EncodeDecode.Statement (.iadd f) :=
  triad_reads 1 rfl (fun h => h) rfl (fun _ => rfl)

theorem EncodeDecode.isub (f : TF) : EncodeDecode.Statement (.isub f) :=
  triad_reads 2 rfl (fun h => h) rfl (fun _ => rfl)

theorem EncodeDecode.imul (f : TF) : EncodeDecode.Statement (.imul f) :=
  triad_reads 3 rfl (fun h => h) rfl (fun _ => rfl)

theorem EncodeDecode.imulh (f : TF) : EncodeDecode.Statement (.imulh f) :=
  triad_reads 4 rfl (fun h => h) rfl (fun _ => rfl)

theorem EncodeDecode.triadAnd (f : TF) : EncodeDecode.Statement (.triadAnd f) :=
  triad_reads 5 rfl (fun h => h) rfl (fun _ => rfl)

theorem EncodeDecode.triadOr (f : TF) : EncodeDecode.Statement (.triadOr f) :=
  triad_reads 6 rfl (fun h => h) rfl (fun _ => rfl)

theorem EncodeDecode.triadXor (f : TF) : EncodeDecode.Statement (.triadXor f) :=
  triad_reads 7 rfl (fun h => h) rfl (fun _ => rfl)

theorem EncodeDecode.triadShl (f : TF) : EncodeDecode.Statement (.triadShl f) :=
  triad_reads 8 rfl (fun h => h) rfl (fun _ => rfl)

theorem EncodeDecode.triadShr (f : TF) : EncodeDecode.Statement (.triadShr f) :=
  triad_reads 9 rfl (fun h => h) rfl (fun _ => rfl)

theorem EncodeDecode.triadSra (f : TF) : EncodeDecode.Statement (.triadSra f) :=
  triad_reads 10 rfl (fun h => h) rfl (fun _ => rfl)

theorem EncodeDecode.imin (f : TF) : EncodeDecode.Statement (.imin f) :=
  triad_reads 11 rfl (fun h => h) rfl (fun _ => rfl)

theorem EncodeDecode.imax (f : TF) : EncodeDecode.Statement (.imax f) :=
  triad_reads 12 rfl (fun h => h) rfl (fun _ => rfl)

theorem EncodeDecode.fadd (f : TF) : EncodeDecode.Statement (.fadd f) :=
  triad_reads 13 rfl (fun h => h) rfl (fun _ => rfl)

theorem EncodeDecode.fsub (f : TF) : EncodeDecode.Statement (.fsub f) :=
  triad_reads 14 rfl (fun h => h) rfl (fun _ => rfl)

theorem EncodeDecode.fmul (f : TF) : EncodeDecode.Statement (.fmul f) :=
  triad_reads 15 rfl (fun h => h) rfl (fun _ => rfl)

theorem EncodeDecode.fmin (f : TF) : EncodeDecode.Statement (.fmin f) :=
  triad_reads 16 rfl (fun h => h) rfl (fun _ => rfl)

theorem EncodeDecode.fmax (f : TF) : EncodeDecode.Statement (.fmax f) :=
  triad_reads 17 rfl (fun h => h) rfl (fun _ => rfl)

theorem EncodeDecode.cmplt (f : TF) : EncodeDecode.Statement (.cmplt f) :=
  triad_reads 18 rfl (fun h => h) rfl (fun _ => rfl)

theorem EncodeDecode.cmpeq (f : TF) : EncodeDecode.Statement (.cmpeq f) :=
  triad_reads 19 rfl (fun h => h) rfl (fun _ => rfl)

theorem EncodeDecode.triadSel (f : TF) : EncodeDecode.Statement (.triadSel f) :=
  triad_reads 20 rfl (fun h => h) rfl (fun _ => rfl)

theorem EncodeDecode.triadCvt (f : TF) : EncodeDecode.Statement (.triadCvt f) :=
  triad_reads 21 rfl (fun h => h) rfl (fun _ => rfl)

theorem EncodeDecode.triadNrw (f : TF) : EncodeDecode.Statement (.triadNrw f) :=
  triad_reads 22 rfl (fun h => h) rfl (fun _ => rfl)

theorem EncodeDecode.srnd (f : TF) : EncodeDecode.Statement (.srnd f) :=
  triad_reads 23 rfl (fun h => h) rfl (fun _ => rfl)

theorem EncodeDecode.triadExp2 (f : TF) : EncodeDecode.Statement (.triadExp2 f) :=
  triad_reads 24 rfl (fun h => h) rfl (fun _ => rfl)

theorem EncodeDecode.triadLog2 (f : TF) : EncodeDecode.Statement (.triadLog2 f) :=
  triad_reads 25 rfl (fun h => h) rfl (fun _ => rfl)

theorem EncodeDecode.triadRcp (f : TF) : EncodeDecode.Statement (.triadRcp f) :=
  triad_reads 26 rfl (fun h => h) rfl (fun _ => rfl)

theorem EncodeDecode.triadRsq (f : TF) : EncodeDecode.Statement (.triadRsq f) :=
  triad_reads 27 rfl (fun h => h) rfl (fun _ => rfl)

theorem EncodeDecode.perm (f : TF) : EncodeDecode.Statement (.perm f) :=
  triad_reads 28 rfl (fun h => h) rfl (fun _ => rfl)

theorem EncodeDecode.triadAbs (f : TF) : EncodeDecode.Statement (.triadAbs f) :=
  triad_reads 29 rfl (fun h => h) rfl (fun _ => rfl)

theorem EncodeDecode.pack (f : TF) : EncodeDecode.Statement (.pack f) :=
  triad_reads 30 rfl (fun h => h) rfl (fun _ => rfl)

theorem EncodeDecode.munop (f : WF) : EncodeDecode.Statement (.munop f) :=
  w_reads 0 (by decide) rfl (fun _ => rfl) (fun _ _ ho hf => by rw [decodeWord, ho, hf]; rfl)

theorem EncodeDecode.zacc (f : WF) : EncodeDecode.Statement (.zacc f) :=
  w_reads 1 (by decide) rfl (fun _ => rfl) (fun _ _ ho hf => by rw [decodeWord, ho, hf]; rfl)

theorem EncodeDecode.wld (f : WF) : EncodeDecode.Statement (.wld f) :=
  w_reads 2 (by decide) rfl (fun _ => rfl) (fun _ _ ho hf => by rw [decodeWord, ho, hf]; rfl)

theorem EncodeDecode.wstr (f : WF) : EncodeDecode.Statement (.wstr f) :=
  w_reads 3 (by decide) rfl (fun _ => rfl) (fun _ _ ho hf => by rw [decodeWord, ho, hf]; rfl)

theorem EncodeDecode.astr (f : WF) : EncodeDecode.Statement (.astr f) :=
  w_reads 4 (by decide) rfl (fun _ => rfl) (fun _ _ ho hf => by rw [decodeWord, ho, hf]; rfl)

theorem EncodeDecode.achn (f : WF) : EncodeDecode.Statement (.achn f) :=
  w_reads 5 (by decide) rfl (fun _ => rfl) (fun _ _ ho hf => by rw [decodeWord, ho, hf]; rfl)

theorem EncodeDecode.runW (f : WF) : EncodeDecode.Statement (.runW f) :=
  w_reads 6 (by decide) rfl (fun _ => rfl) (fun _ _ ho hf => by rw [decodeWord, ho, hf]; rfl)

theorem EncodeDecode.oprk (f : WF) : EncodeDecode.Statement (.oprk f) :=
  w_reads 7 (by decide) rfl (fun _ => rfl) (fun _ _ ho hf => by rw [decodeWord, ho, hf]; rfl)

theorem EncodeDecode.spsel (f : WF) : EncodeDecode.Statement (.spsel f) :=
  w_reads 8 (by decide) rfl (fun _ => rfl) (fun _ _ ho hf => by rw [decodeWord, ho, hf]; rfl)

theorem EncodeDecode.drn (f : WF) : EncodeDecode.Statement (.drn f) :=
  w_reads 9 (by decide) rfl (fun _ => rfl) (fun _ _ ho hf => by rw [decodeWord, ho, hf]; rfl)

theorem EncodeDecode.cksv (f : WF) : EncodeDecode.Statement (.cksv f) :=
  w_reads 10 (by decide) rfl (fun _ => rfl) (fun _ _ ho hf => by rw [decodeWord, ho, hf]; rfl)

theorem EncodeDecode.mlp (f : WF) : EncodeDecode.Statement (.mlp f) :=
  w_reads 11 (by decide) rfl (fun _ => rfl) (fun _ _ ho hf => by rw [decodeWord, ho, hf]; rfl)

theorem EncodeDecode.mbrn (f : WF) : EncodeDecode.Statement (.mbrn f) :=
  w_reads 12 (by decide) rfl (fun _ => rfl) (fun _ _ ho hf => by rw [decodeWord, ho, hf]; rfl)

theorem EncodeDecode.mend (f : WF) : EncodeDecode.Statement (.mend f) :=
  w_reads 13 (by decide) rfl (fun _ => rfl) (fun _ _ ho hf => by rw [decodeWord, ho, hf]; rfl)

theorem EncodeDecode.mwait (f : WF) : EncodeDecode.Statement (.mwait f) :=
  w_reads 14 (by decide) rfl (fun _ => rfl) (fun _ _ ho hf => by rw [decodeWord, ho, hf]; rfl)

theorem EncodeDecode.msig (f : WF) : EncodeDecode.Statement (.msig f) :=
  w_reads 15 (by decide) rfl (fun _ => rfl) (fun _ _ ho hf => by rw [decodeWord, ho, hf]; rfl)

theorem EncodeDecode.padd (f : WF) : EncodeDecode.Statement (.padd f) :=
  w_reads 16 (by decide) rfl (fun _ => rfl) (fun _ _ ho hf => by rw [decodeWord, ho, hf]; rfl)

theorem EncodeDecode.pset (f : WF) : EncodeDecode.Statement (.pset f) :=
  w_reads 17 (by decide) rfl (fun _ => rfl) (fun _ _ ho hf => by rw [decodeWord, ho, hf]; rfl)

theorem EncodeDecode.epiDone (f : PF) : EncodeDecode.Statement (.epiDone f) :=
  p_reads 0 (by decide) rfl (fun _ => rfl) (fun _ _ ho hf => by rw [decodeEpi, ho, hf]; rfl)

theorem EncodeDecode.ldb (f : PF) : EncodeDecode.Statement (.ldb f) :=
  p_reads 1 (by decide) rfl (fun _ => rfl) (fun _ _ ho hf => by rw [decodeEpi, ho, hf]; rfl)

theorem EncodeDecode.epiAdd (f : PF) : EncodeDecode.Statement (.epiAdd f) :=
  p_reads 2 (by decide) rfl (fun _ => rfl) (fun _ _ ho hf => by rw [decodeEpi, ho, hf]; rfl)

theorem EncodeDecode.epiMul (f : PF) : EncodeDecode.Statement (.epiMul f) :=
  p_reads 3 (by decide) rfl (fun _ => rfl) (fun _ _ ho hf => by rw [decodeEpi, ho, hf]; rfl)

theorem EncodeDecode.epiFma (f : PF) : EncodeDecode.Statement (.epiFma f) :=
  p_reads 4 (by decide) rfl (fun _ => rfl) (fun _ _ ho hf => by rw [decodeEpi, ho, hf]; rfl)

theorem EncodeDecode.epiMax (f : PF) : EncodeDecode.Statement (.epiMax f) :=
  p_reads 5 (by decide) rfl (fun _ => rfl) (fun _ _ ho hf => by rw [decodeEpi, ho, hf]; rfl)

theorem EncodeDecode.epiMin (f : PF) : EncodeDecode.Statement (.epiMin f) :=
  p_reads 6 (by decide) rfl (fun _ => rfl) (fun _ _ ho hf => by rw [decodeEpi, ho, hf]; rfl)

theorem EncodeDecode.relu (f : PF) : EncodeDecode.Statement (.relu f) :=
  p_reads 7 (by decide) rfl (fun _ => rfl) (fun _ _ ho hf => by rw [decodeEpi, ho, hf]; rfl)

theorem EncodeDecode.epiTbl (f : PF) : EncodeDecode.Statement (.epiTbl f) :=
  p_reads 8 (by decide) rfl (fun _ => rfl) (fun _ _ ho hf => by rw [decodeEpi, ho, hf]; rfl)

theorem EncodeDecode.epiExp2 (f : PF) : EncodeDecode.Statement (.epiExp2 f) :=
  p_reads 9 (by decide) rfl (fun _ => rfl) (fun _ _ ho hf => by rw [decodeEpi, ho, hf]; rfl)

theorem EncodeDecode.epiCvt (f : PF) : EncodeDecode.Statement (.epiCvt f) :=
  p_reads 10 (by decide) rfl (fun _ => rfl) (fun _ _ ho hf => by rw [decodeEpi, ho, hf]; rfl)

theorem EncodeDecode.epiNrw (f : PF) : EncodeDecode.Statement (.epiNrw f) :=
  p_reads 11 (by decide) rfl (fun _ => rfl) (fun _ _ ho hf => by rw [decodeEpi, ho, hf]; rfl)

theorem EncodeDecode.rmax (f : PF) : EncodeDecode.Statement (.rmax f) :=
  p_reads 12 (by decide) rfl (fun _ => rfl) (fun _ _ ho hf => by rw [decodeEpi, ho, hf]; rfl)

theorem EncodeDecode.rsum (f : PF) : EncodeDecode.Statement (.rsum f) :=
  p_reads 13 (by decide) rfl (fun _ => rfl) (fun _ _ ho hf => by rw [decodeEpi, ho, hf]; rfl)

theorem EncodeDecode.wrt (f : PF) : EncodeDecode.Statement (.wrt f) :=
  p_reads 14 (by decide) rfl (fun _ => rfl) (fun _ _ ho hf => by rw [decodeEpi, ho, hf]; rfl)

theorem EncodeDecode.epiPush (f : PF) : EncodeDecode.Statement (.epiPush f) :=
  p_reads 15 (by decide) rfl (fun _ => rfl) (fun _ _ ho hf => by rw [decodeEpi, ho, hf]; rfl)

theorem EncodeDecode.scal (f : PF) : EncodeDecode.Statement (.scal f) :=
  p_reads 16 (by decide) rfl (fun _ => rfl) (fun _ _ ho hf => by rw [decodeEpi, ho, hf]; rfl)

theorem EncodeDecode.clmp (f : PF) : EncodeDecode.Statement (.clmp f) :=
  p_reads 17 (by decide) rfl (fun _ => rfl) (fun _ _ ho hf => by rw [decodeEpi, ho, hf]; rfl)

theorem EncodeDecode.epiSel (f : PF) : EncodeDecode.Statement (.epiSel f) :=
  p_reads 18 (by decide) rfl (fun _ => rfl) (fun _ _ ho hf => by rw [decodeEpi, ho, hf]; rfl)

theorem EncodeDecode.htlbi (f : RF) : EncodeDecode.Statement (.htlbi f) :=
  h_reads 0 (by decide) rfl (fun _ => rfl) (fun _ h ho hf => by rw [decodeMgmt, if_pos h, ho, hf]; rfl)

theorem EncodeDecode.htlbf (f : RF) : EncodeDecode.Statement (.htlbf f) :=
  h_reads 1 (by decide) rfl (fun _ => rfl) (fun _ h ho hf => by rw [decodeMgmt, if_pos h, ho, hf]; rfl)

theorem EncodeDecode.debuggerResume (c : Fin 4) : EncodeDecode.Statement (.debuggerResume c) :=
  event_reads rfl (fun _ => rfl)

theorem EncodeDecode.preemptionOrder (c : Fin 4) : EncodeDecode.Statement (.preemptionOrder c) :=
  event_reads rfl (fun _ => rfl)

theorem EncodeDecode.randomEntryGenerated (c : Fin 4) : EncodeDecode.Statement (.randomEntryGenerated c) :=
  event_reads rfl (fun _ => rfl)

theorem EncodeDecode.tlbInvalidationApplied (t : TlbRef) : EncodeDecode.Statement (.tlbInvalidationApplied t) :=
  event_reads rfl (fun _ => rfl)

theorem EncodeDecode.managementCoreAccess (wr : Bool) (pa : BitVec 56) (bytes : List (BitVec 8)) : EncodeDecode.Statement (.managementCoreAccess wr pa bytes) :=
  event_reads rfl (fun _ => rfl)

theorem EncodeDecode.wholeCoreSelfTest (pass : Bool) : EncodeDecode.Statement (.wholeCoreSelfTest pass) :=
  event_reads rfl (fun _ => rfl)

theorem EncodeDecode.linkRetry (port : BitVec 8) : EncodeDecode.Statement (.linkRetry port) :=
  event_reads rfl (fun _ => rfl)

theorem EncodeDecode.fabricPathLoss (p : BitVec 10) : EncodeDecode.Statement (.fabricPathLoss p) :=
  event_reads rfl (fun _ => rfl)

theorem EncodeDecode.bundleIssue : EncodeDecode.Statement (.bundleIssue) :=
  event_reads rfl (fun _ => rfl)

theorem EncodeDecode.bundleSkip : EncodeDecode.Statement (.bundleSkip) :=
  event_reads rfl (fun _ => rfl)

theorem EncodeDecode.contextSwitch : EncodeDecode.Statement (.contextSwitch) :=
  event_reads rfl (fun _ => rfl)

theorem EncodeDecode.callSelect : EncodeDecode.Statement (.callSelect) :=
  event_reads rfl (fun _ => rfl)

theorem EncodeDecode.callComplete : EncodeDecode.Statement (.callComplete) :=
  event_reads rfl (fun _ => rfl)

theorem EncodeDecode.schedulerPass : EncodeDecode.Statement (.schedulerPass) :=
  event_reads rfl (fun _ => rfl)

theorem EncodeDecode.ballastAdmit : EncodeDecode.Statement (.ballastAdmit) :=
  event_reads rfl (fun _ => rfl)

theorem EncodeDecode.invalidate : EncodeDecode.Statement (.invalidate) :=
  event_reads rfl (fun _ => rfl)

theorem EncodeDecode.chunkSend : EncodeDecode.Statement (.chunkSend) :=
  event_reads rfl (fun _ => rfl)

theorem EncodeDecode.holdRelease : EncodeDecode.Statement (.holdRelease) :=
  event_reads rfl (fun _ => rfl)

theorem EncodeDecode.holdTimeout : EncodeDecode.Statement (.holdTimeout) :=
  event_reads rfl (fun _ => rfl)

theorem EncodeDecode.sample : EncodeDecode.Statement (.sample) :=
  event_reads rfl (fun _ => rfl)

theorem EncodeDecode.thermalEvaluation : EncodeDecode.Statement (.thermalEvaluation) :=
  event_reads rfl (fun _ => rfl)

theorem EncodeDecode.qtail : EncodeDecode.Statement (.qtail) :=
  event_reads rfl (fun _ => rfl)

theorem EncodeDecode.qstat : EncodeDecode.Statement (.qstat) :=
  event_reads rfl (fun _ => rfl)

theorem EncodeDecode.iqtail : EncodeDecode.Statement (.iqtail) :=
  event_reads rfl (fun _ => rfl)

theorem EncodeDecode.pfack : EncodeDecode.Statement (.pfack) :=
  event_reads rfl (fun _ => rfl)

theorem EncodeDecode.errdrop : EncodeDecode.Statement (.errdrop) :=
  event_reads rfl (fun _ => rfl)

theorem EncodeDecode.dbgsel : EncodeDecode.Statement (.dbgsel) :=
  event_reads rfl (fun _ => rfl)

theorem EncodeDecode.thcfg : EncodeDecode.Statement (.thcfg) :=
  event_reads rfl (fun _ => rfl)

theorem EncodeDecode.thstat : EncodeDecode.Statement (.thstat) :=
  event_reads rfl (fun _ => rfl)

theorem EncodeDecode.pwrcfg : EncodeDecode.Statement (.pwrcfg) :=
  event_reads rfl (fun _ => rfl)

theorem EncodeDecode.mgmtRegWrite : EncodeDecode.Statement (.mgmtRegWrite) :=
  event_reads rfl (fun _ => rfl)

theorem EncodeDecode.gtbTargetReached : EncodeDecode.Statement (.gtbTargetReached) :=
  event_reads rfl (fun _ => rfl)

theorem EncodeDecode.powerOff : EncodeDecode.Statement (.powerOff) :=
  event_reads rfl (fun _ => rfl)

end Sys2Proof.Laws
end

