-- ==== Sys2Proof/Tests/Slice0.lean ====
section
/-! SUPPORT. Tests: ill-formed terms that the checks refuse, words written out from the spec's encodings, and for each statement of
Certificates/Slice0/Obligations.lean a state and operands that meet its hypotheses, with single steps whose results are worked out by hand
from the rule that is cited. -/

set_option Elab.async false

namespace Sys2Proof.Tests

open Sys2Proof Sys2Proof.Machine

/-! ### Terms and states -/

def af : AF := ⟨0, 0, 0, 0, 0, 0, 0, 0, false⟩
def sf : SF := ⟨0, 0, false⟩
def xf : XF := ⟨0, 0, 0, 0, 0, 0, false⟩
def ef : EF := ⟨0, 0, 0, 0, 0, 0xFFFF, 0, 0, 0, false⟩
def vf : VF := ⟨false, 0, 0, 0, 0, 0, 0, 0, 0, false⟩
def oacc : OF := ⟨0, 0, 0, 0, 0, 0, 0, 0, 0, 0, 0, false⟩
def tf : TF := { grp := 0, pos := .gamma, fuse := false, srcA := 0, ga := 1, be := 0, al := 0, k := 0, g := 0, st := false, z := false, sel := 0, ty := 0, dest := 3, srcD := 0, srcC := 2, srcB := 1 }
def wf : WF := ⟨0, 0, 0, 0, 0, 0⟩
def pf : PF := ⟨0, 0, 0, 0, 0⟩

/-- Everything a core shares out. -/
def all : Share := { tile := (0, 255), sem := (0, 255), hasp := (1, 47), acc := 0xFF, q := 0xF, qbind := [1, 1, 1, 1], qpush := 0xF }

/-- A page at virtual address 0, readable, writable and executable, at physical address 0. -/
def page0 : TlbEnt := { asid := 0, sz := 2, va := 0, pa := 0, r := true, w := true, x := true, wp := false }

/-- A live context of launch 7 that has everything, with a checkpoint taken. -/
def ctx7 : Context := { mode := .live, lid := 7, share := all, ckptDone := true, qs := List.replicate 8 {} }

def launch7 : Launch := { lid := 7, queue := 0, desc := [], cls := 1, tstart := 0 }

/-- Slot 0 holds context `x`, whose launch owns the core's stores; page 0 is in the TLB. -/
def with0 (x : Context) : State :=
  { State.reset with booted := true, c0 := x, launches := [launch7], sched := { owner := some 7 }, tlb := [page0] }

/-- The same with registers `a`. -/
def regs (a : Arch) : State := with0 { ctx7 with arch := a }

/-- The state that an instruction leads to. -/
def after (i : Instr) (s : State) : State :=
  match exec i s with
  | .next t => t
  | _ => s

/-- The fault that a launch has after an event. -/
def faultOf (i : Instr) (s : State) : Option Byte := ((after i s).launchOf 7).bind (fun l => l.fault.map FaultRec.code)

def bytesOf (ws : List W32) : List Byte := ws.flatMap (fun w => leBytes 4 w.toNat)

/-! ### Ill-formed terms (R75, check 8) -/

theorem test_wf_scalar : ∀ i ∈ ([.add { af with w := 2 }, .add { af with imm := 1 }, .cmp { af with q := 7 }, .cmp { af with d := 16 }, .addi { af with b := 1 },
    .li { af with a := 1 }, .selA { af with imm := 16 }, .lds { af with q := 2 }, .sts { af with b := 6 }, .amo { af with imm := 12 }, .fence af,
    .probe { af with w := 3 }, .tstat { af with imm := 256 }, .cvts { af with imm := 7 }, .bfxcfg { af with d := 4 }] : List Instr), i.wf = false := by
  decide +kernel

theorem test_wf_control : ∀ i ∈ ([.snop { sf with x := 1 }, .bri { sf with x := 64 }, .loopS { sf with x := 0x180 }, .glog { sf with x := 0x05100 },
    .swait sf, .ssig sf, .sysr sf, .bara { sf with x := 48 }, .kmovToK sf, .mcall { sf with x := 256 }] : List Instr), i.wf = false := by
  decide +kernel

theorem test_wf_wide : ∀ i ∈ ([.copy { ef with q := 1 }, .copy { ef with wsem := 1 }, .equiet { ef with toff := 0 }, .ord { oacc with gs := 9 },
    .ozero { oacc with row := 127, cnt := 1 }, .xshf { xf with fn := 2 }, .xsum { xf with j := 6 }, .ldv { vf with ty := 9 }, .stv { vf with q := 1, ty := 1 },
    .gath { vf with v := 31 }, .vamo { vf with ty := 6 }, .unpk { vf with ty := 4 }] : List Instr), i.wf = false := by
  decide +kernel

theorem test_wf_triad : ∀ i ∈ ([.iadd { tf with z := true }, .iadd { tf with dest := 52 }, .iadd { tf with fuse := true }, .iadd { tf with sel := 1 },
    .imul { tf with ga := 3 }, .fadd { tf with ga := 13, ty := 0 }, .triadCvt { tf with ga := 21, ty := 7, sel := 6 }] : List Instr), i.wf = false := by
  decide +kernel

theorem test_wf_words : ∀ i ∈ ([.munop { wf with imm := 1 }, .zacc { wf with f3 := 127, f4 := 1 }, .wstr { wf with f1 := 4, imm := 1 }, .mlp { wf with imm := 255 },
    .epiAdd { pf with c := 1 }, .htlbi ⟨0, 0, 1⟩] : List Instr), i.wf = false := by
  decide +kernel

/-! ### Words written out from the encodings (R93, R94, R96, R103, R199, R216, R261) -/

/-- `br` with offset −2 under g1: opcode 1 in [11:6], the guard in [5:2], the offset in [31:12]. -/
theorem test_decode_br : decodeSlot 0 0xFFFFE044 0 = [.br { x := 0xFFFFE, g := 1, st := false }] := by decide +kernel

/-- `mcall 5`: opcode 1 of the M slot. -/
theorem test_decode_mcall : decodeSlot 2 0x00005040 0 = [.mcall { x := 5, g := 0, st := false }] := by decide +kernel

/-- `lds` of 8 bytes, s5, class 2, s4 − 8: opcode 0x16; w [31:30], a [23:18], d [17:12]; class [28:25], imm24 [24:1]. -/
theorem test_decode_lds : decodeSlot 1 0xC0105580 0x05FFFFF0 = [.lds { af with w := 3, a := 4, d := 5, cls := 2, imm := 0xFFFFF8 }] := by decide +kernel

/-- `copy.at 120.vc2 s20, wait sem3 1, sig sem7 1`, the form that R228 prints. -/
theorem test_decode_copy : decodeSlot 3 0x07103040 0x1003C282 =
    [.copy { sig := 7, thr := 1, wsem := 3, q := 0, vc := 2, toff := 120, dreg := 20, inc := 1, g := 0, st := false }] := by decide +kernel

/-- OADD of v3 to segment 4, row 5 of tile 2, in group 1. -/
theorem test_decode_oadd : decodeSlot 4 0x20C2A0C0 0x00000002 = [.oadd { oacc with seg := 4, v := 3, row := 5, acc := 2, gs := 1 }] := by decide +kernel

/-- `xcp t5.v2, t1.v9, k0`, printed in R179. -/
theorem test_decode_xcp : decodeSlot 5 0x01269040 0 = [.xcp { xf with d := 2, v := 9, h := 5, j := 1 }] := by decide +kernel

/-- LDG of i16 elements into v9 of all groups from s4 + 16. -/
theorem test_decode_ldg : decodeSlot 6 0x089090C0 0x00000020 = [.ldg { vf with ty := 1, base := 4, gs := 8, v := 9, imm := 16 }] := by decide +kernel

/-- A triad in group 0 whose γ is IADD, with dest v3, srcC v2 and srcB v1, and whose α and β are NONE. -/
theorem test_decode_triad : decodeSlot 7 0x00100000 0x00180102 =
    [.unitNone { tf with pos := .alpha }, .unitNone { tf with pos := .beta }, .iadd tf] := by decide +kernel

/-- MUNOP and MEND: opcodes 0 and 13 in [5:0]. -/
theorem test_decode_word : decodeWord 0 = some (.munop wf) ∧ decodeWord 13 = some (.mend wf) := by decide +kernel

/-- DONE and ADD x1 := x2 + x3: opcode in [4:0], d, a, b in [7:5], [10:8], [13:11]. -/
theorem test_decode_epi : decodeEpi 0 = some (.epiDone pf) ∧
    decodeEpi (2 + 1 * 32 + 2 * 256 + 3 * 2048) = some (.epiAdd ⟨0, 0, 3, 2, 1⟩) := by decide +kernel

/-- HTLBI and HTLBF, printed in R261. -/
theorem test_decode_mgmt : decodeMgmt 0x00B5000B = some (.htlbi ⟨11, 10, 0⟩) ∧ decodeMgmt 0x0000100B = some (.htlbf ⟨0, 0, 0⟩) := by decide +kernel

theorem wit_RoundTrip : Instr.wf (.ldv vf) = true ∧ Instr.place (.ldv vf) = .slot 6 ∧ Instr.wf (.iadd tf) = true ∧ Instr.place (.iadd tf) = .slot 7 ∧ tf.unitsOk = true := by
  decide +kernel

/-- The error of a bundle, if any. -/
def bundleError (ws : List W32) : Option Byte :=
  match decodeBundle ws with
  | .ok _ => none
  | .error e => some e

/-- A reserved header bit, an empty template without its stop bit, a last syllable without it, opcode 41 of the A slot, w = 2 of ADD, and a bundle that passes. -/
theorem wit_BundleChecks : bundleError [0x20000001] = some 0x02 ∧ bundleError [0] = some 0x02 ∧ bundleError [0x8000, 0x40, 0] = some 0x02 ∧
    bundleError [0x8000, 0xA40, 1] = some 0x03 ∧ bundleError [0x8000, 0x80000040, 1] = some 0x14 ∧ bundleError [0x8000, 0x40, 1] = none ∧ bundleError [1] = none ∧
    41 ≤ opField 0xA40 ∧ (tfOf 0 .alpha 0 0).unitsOk = true ∧ ({ tf with ga := 28 } : TF).unitsOk = false := by decide +kernel

/-- A branch beside rep and a sticky one (R79); a NODE with a pop, a checkpoint or another slot, and alone (R80); opcode 30 of the S slot. -/
theorem wit_BundleChecks_alone : bundleError [0x4004, 0xFFFFA049] = some 0x02 ∧ bundleError [0x4000, 0xFFFFA04B] = some 0x02 ∧ bundleError [0x4040, 0x301] = some 0x02 ∧
    bundleError [0x4002, 0x301] = some 0x02 ∧ bundleError [0xC000, 0x300, 0x40, 1] = some 0x02 ∧ bundleError [0x4000, 0x301] = none ∧
    (splitSlots (encoded 0x4004) [0xFFFFA049]).map (fun s => (s.pos, isControl (opField s.w0))) = [(0, true)] ∧ opField 0x301 = 0x0C ∧
    bundleError [0x4000, 0x781] = some 0x03 := by decide +kernel

/-! ### Scalar slots -/

/-- What an instruction adds to the landing buffer of context 0. -/
def landed (i : Instr) (s : State) : List Land := (after i s).me.arch.landing.map LandEntry.act

def ones : W64 := 0xFFFF_FFFF_FFFF_FFFF
def minW : W64 := 0x8000_0000_0000_0000

/-- s1 = −1, s2 = −2^63, s4 = 2^32 − 1; s3 and s5 are 0. -/
def alu : State := regs { s := [(1, ones), (2, minW), (4, 0xFFFF_FFFF)] }

def ab (a b : BitVec 6) : AF := { af with a, b, d := 7 }

/-- The corner cases of R109, and 32-bit results sign-extended (R108). -/
theorem wit_IntegerResults : Guarded af.g alu ∧
    landed (.add (ab 1 1)) alu = [.s 7 (ones - 1)] ∧ landed (.add { ab 4 4 with w := 1 }) alu = [.s 7 (ones - 1)] ∧
    landed (.div (ab 1 3)) alu = [.s 7 ones] ∧ landed (.divu (ab 2 3)) alu = [.s 7 ones] ∧ landed (.div (ab 2 1)) alu = [.s 7 minW] ∧
    landed (.mulh (ab 2 1)) alu = [.s 7 0] ∧ landed (.sra (ab 2 1)) alu = [.s 7 ones] ∧ landed (.shr (ab 2 1)) alu = [.s 7 1] ∧
    landed (.minA (ab 1 3)) alu = [.s 7 ones] := by
  unfold Guarded; decide +kernel

/-- An immediate of −1; the two chunks of LIH over a register of ones (R110). -/
theorem wit_ImmediateResults : Guarded af.g alu ∧
    landed (.li { af with d := 7, imm := 0xFFFFFF }) alu = [.s 7 ones] ∧
    landed (.addi { ab 4 0 with w := 1, imm := 1 }) alu = [.s 7 0] ∧
    landed (.lih { af with d := 1 }) alu = [.s 1 0xFFFF_0000_00FF_FFFF] ∧ landed (.lihChunk1 { af with d := 1 }) alu = [.s 1 0x0000_FFFF_FFFF_FFFF] ∧
    landed (.selA { ab 1 2 with imm := 15 }) alu = [.s 7 minW] ∧ landed (.movsToS { af with d := 7 }) alu = [.s 7 1] := by
  unfold Guarded; decide +kernel

/-- −1 < 0 signed and not unsigned (R111); −0 equals +0, and a NaN is only unequal (R134). -/
theorem wit_CompareResults : Guarded af.g alu ∧
    landed (.cmp { ab 1 3 with d := 2, q := 2 }) alu = [.g 4 4] ∧ landed (.cmp { ab 1 3 with d := 2, q := 4 }) alu = [.g 4 0] ∧
    landed (.cmp { ab 3 3 with d := 15, q := 5 }) alu = [.g 0x8000 0x8000] ∧
    landed (.fcmps { ab 1 1 with d := 2, q := 0 }) alu = [.g 4 0] ∧ landed (.fcmps { ab 1 1 with d := 2, q := 1 }) alu = [.g 4 4] := by
  unfold Guarded; decide +kernel

/-- GLOG code 3 (a AND NOT b) on g0 and g1 into g2; KLOG code 5 (NOT a) of k0; KMOV towards the high half of k1 (R141, R142). -/
theorem wit_LogicResults : Guarded sf.g alu ∧
    landed (.glog { sf with x := 0x03102 }) alu = [.g 4 4] ∧
    landed (.klog { sf with x := 0x05001 }) alu = [.k 1 (BitVec.allOnes 128) 0] ∧
    landed (.kmovToK { sf with x := 0x00441 }) alu = [.k 1 0xFFFF_FFFF_FFFF_FFFF_0000_0000_0000_0000 0xFFFF_FFFF_FFFF_FFFF_0000_0000_0000_0000] := by
  unfold Guarded; decide +kernel

/-- A mode that needs no random word, one that has it, and one that waits for it (R20, R132, R465). -/
theorem wit_ScalarFloatResults : Guarded af.g alu ∧ alu.me.arch.fctl.srd = false ∧
    (let s := with0 { ctx7 with q0gen := true, arch := { fcr := 16 } }
     Guarded af.g s ∧ s.me.arch.fctl.srd = true ∧ s.me.q0gen = true) ∧
    (let s := regs { fcr := 16 }
     Guarded af.g s ∧ s.me.arch.fctl.srd = true ∧ s.me.q0gen = false ∧ (after (.fadds af) s).me.wait = .blocked ∧ (after (.fmas af) s).me.wait = .blocked ∧
      (after (.cvts { af with imm := 0x100 }) s).me.wait = .blocked) ∧
    landed (.fadds (ab 1 2)) (regs { s := [(1, 0x3F800000), (2, 0x40000000)] }) = [.s 7 0x40400000] ∧
    landed (.fmuls (ab 1 2)) (regs { s := [(1, 0x3F800000), (2, 0xC0000000)] }) = [.s 7 0xC0000000] := by
  unfold Guarded; decide +kernel

/-- The largest FCR that FCRW takes, and the flags that `fsrr.clr` clears (R144, R145). -/
theorem wit_StatusResults : (let s := regs { s := [(1, 63)], fsr := 0x2A }
    Guarded sf.g s ∧ (s.me.arch.rs 1).toNat < 64 ∧ landed (.fcrw { sf with x := 1 }) s = [.fcr 63] ∧ s.me.arch.rs 1 ≠ 0 ∧
      landed (.fsrrClear { sf with x := 0x042 }) s = [.s 2 0x2A, .fsrClear 63]) := by
  unfold Guarded; decide +kernel

/-- A target that is not word aligned, an FCR of 64, an address of 2^56 and one that is odd. -/
theorem wit_ScalarFaults : (let s := regs { s := [(1, 6), (2, 64), (3, 0x100_0000_0000_0000), (63, 2)] }
    Guarded sf.g s ∧ s.me.arch.inLoop = false ∧ (s.me.arch.rs 1).toNat % 4 ≠ 0 ∧ (s.me.arch.rs 63).toNat % 4 ≠ 0 ∧ 64 ≤ (s.me.arch.rs 2).toNat ∧
      2 ^ 56 ≤ (s.aA { af with a := 3 } + s.aImm af).toNat ∧ (s.aA { af with imm := 1 } + s.aImm { af with imm := 1 }).toNat % 2 ^ 1 ≠ 0 ∧
      (after (.fcrw { sf with x := 2 }) s).me.mode = .ended ∧ (after (.bri { sf with x := 1 }) s).me.mode = .ended) := by
  unfold Guarded; decide +kernel

theorem wit_RegisterOnlyFrame : registerOnly (.add af) = true ∧ registerOnly (.xshf xf) = true ∧ registerOnly (.vnop vf) = true := by decide +kernel

/-- A guard of g1, which is false at a context's start. -/
theorem wit_FalseGuard : inSlot (.sts { af with g := 1 }) = true ∧ alu.me.arch.rg (guardField (.sts { af with g := 1 })).toNat = false ∧
    alu.me.arch.inLoop = false ∧ inSlot (.iadd { tf with g := 1 }) = true ∧ (guardField (.iadd { tf with g := 1 })) = 1 := by decide +kernel

/-! ### Control -/

/-- A backward branch of one word, the highest word-aligned target, and CALL's link past its one-syllable bundle (R136). -/
theorem wit_Transfers : (let s := regs { s := [(1, 0xFF_FFFF_FFFF_FFFC), (63, 8)], pc := 0x40 }
    Guarded sf.g s ∧ s.me.arch.inLoop = false ∧ (s.me.arch.rs 1).toNat % 4 = 0 ∧ (s.me.arch.rs 1).toNat < 2 ^ 56 ∧ (s.me.arch.rs 63).toNat % 4 = 0 ∧
      (after (.br { sf with x := 0xFFFFF }) s).me.nextPc = some 0x3C ∧ (after (.ret sf) s).me.nextPc = some 8 ∧
      (after (.bri { sf with x := 1 }) s).me.nextPc = some 0xFF_FFFF_FFFF_FFFC ∧
      landed (.callS { sf with x := 2 }) s = [.s 63 0x44]) := by
  unfold Guarded; decide +kernel

/-- A context inside the body of lp0, from 0x100 to 0x140. -/
def looping : State := regs { s := [(1, 1), (2, 3)], pc := 0x100, lps := [{ active := true, levels := [(0, 2)], passes := 2, start := 0x100, stop := 0x140 }, {}, {}, {}] }

/-- A BR whose guard is false; a LOOP that names the active lp0, and one of lp1 whose body cannot end within the enclosing one (R139). -/
theorem wit_LoopBodyFaults : looping.me.arch.inLoop = true ∧ (after (.br { sf with g := 1 }) looping).me.mode = .ended ∧
    (looping.me.arch.loop.map Prod.fst) = some 0 ∧ (looping.me.arch.lps.getD 0 {}).active = true ∧ (looping.me.arch.lps.getD 1 {}).active = false ∧
    0x140 < looping.bodyEnd looping.cur 64 (looping.me.arch.pc + 4 * bundleLen looping.me.hdr) ∧ (after (.loopS { sf with g := 1 }) looping).me.mode = .ended ∧
    (after (.loopsp { sf with g := 1, x := 0x1FA00 }) looping).me.mode = .ended := by decide +kernel

/-- Code of one-bundle bodies at address 4, after a LOOP at 0 whose counts are in s0 to s2, in the body of lp0 up to 0x40. -/
def inner (n : W64) (ws : List W32) : State :=
  { with0 { ctx7 with arch := { s := [(0, n), (1, 1), (2, 3)], lps := [{ active := true, levels := [(0, 2)], passes := 2, start := 0, stop := 0x40 }, {}, {}, {}] } } with
    mem := Store.putList [] 0 (bytesOf ws) }

/-- A LOOP of lp1 inside lp0's body whose own body ends within it; counts of 0, whose body is passed over, or is not a bundle (R137 to R139). -/
theorem wit_LoopEffects_inner : (let b : List W32 := [1, 0x8000, 0x40, 1]
    let s := inner 2 b
    let z := inner 0 b
    let e := inner 0 [1, 0, 0, 0]
    Guarded sf.g s ∧ (s.me.arch.loop.map (fun p => (p.1, p.2.stop))) = some (0, 0x40) ∧ (s.me.arch.lps.getD 1 {}).active = false ∧
      s.bodyEnd s.cur 1 (s.me.arch.pc + 4 * bundleLen s.me.hdr) ≤ 0x40 ∧ (after (.loopS { sf with x := 0x200 }) s).me.arch.lps.map LoopReg.passes = [2, 2, 0, 0] ∧
      (z.bodyCheck z.cur 1 (z.me.arch.pc + 4 * bundleLen z.me.hdr)).toOption = some (4 + 4 * 3) ∧ (after (.loopS { sf with x := 0x200 }) z).me.nextPc = some 16 ∧
      (after (.loopsp { sf with x := 0x240 }) z).me.nextPc = some 16 ∧ landed (.loopsp { sf with x := 0x240 }) z = [.g 0x300 0] ∧
      (e.bodyCheck e.cur 1 (e.me.arch.pc + 4 * bundleLen e.me.hdr)).toOption = none ∧ (after (.loopS { sf with x := 0x200 }) e).me.mode = .ended) := by
  unfold Guarded; decide +kernel

/-- A nest of counts 1 and 3, a trip count of 1, an LBRK of an active loop and of an idle one (R137 to R140). -/
theorem wit_LoopEffects : (let s := regs { s := [(1, 1), (2, 3)] }
    Guarded sf.g s ∧ s.me.arch.inLoop = false ∧ (∀ k ∈ [(s.me.arch.rs 1).toNat % 2 ^ 32, (s.me.arch.rs 2).toNat % 2 ^ 32], k ≠ 0) ∧
      ((after (.loopS { sf with x := 0x00041 }) s).me.arch.lps.map LoopReg.passes) = [3, 0, 0, 0] ∧
      ((after (.loopsp { sf with x := 0x00041 }) s).me.arch.lps.map LoopReg.passes) = [2, 0, 0, 0]) ∧
    Guarded sf.g looping ∧ (looping.me.arch.lps.getD 0 {}).active = true ∧ (after (.lbrk sf) looping).me.nextPc = some 0x140 ∧
    (looping.me.arch.lps.getD 1 {}).active = false ∧ after (.lbrk { sf with x := 1 }) looping = looping := by
  unfold Guarded; decide +kernel

/-- FCR 63 through SYSW; q0's head generated, an entry at the head of q1, a latch with none, and a latch outside the share. -/
theorem wit_SystemWrites : (let s := with0 { ctx7 with q0gen := true, arch := { s := [(1, 63)] }, qs := [{}, { ents := [{ e := ⟨5, []⟩, vis := true, due := 0, tok := 0, born := 0 }] }, {}, {}, {}, {}, {}, {}] }
    Guarded sf.g s ∧ s.me.rmode = 0 ∧ (s.me.arch.rs 1).toNat < 64 ∧ s.me.q0gen = true ∧ s.me.share.mayRead 1 = true ∧ (s.me.qHead 1).map QEntry.mask = some 5 ∧
      s.me.share.mayRead 2 = true ∧ s.me.qHead 2 = none ∧ s.me.share.hasSem 255 = true ∧
      landed (.sysw { sf with x := 0x00041 }) s = [.fcr 63] ∧ landed (.qmask { sf with x := 0x00042 }) s = [.s 2 5]) ∧
    (let s := with0 { ctx7 with share := { all with qbind := [0, 0, 0, 0], qpush := 0 } }
     Guarded sf.g s ∧ s.me.share.mayRead 4 = false) := by
  unfold Guarded; decide +kernel

/-- FCR 64; a loss scale that is a power of two and one that is not; LSCFG at its bounds and below them; the reserved bits of DRIFTCFG and TRACECFG
(R256 to R258, R437, R439). -/
theorem wit_SystemWrites_selectors : (let s := regs { s := [(1, 64), (2, 0x7F00_0000), (3, 0x3F80_0001), (4, 0x3_0000_7F82), (5, 0x7F81), (6, ones)], lscfg := 0x7_0000_0000 }
    let w := fun (sel r : Nat) => Instr.sysw { sf with x := BitVec.ofNat 20 (64 * sel + r) }
    Guarded sf.g s ∧ s.me.rmode = 0 ∧ 64 ≤ (s.me.arch.rs 1).toNat ∧ (after (w 1 1) s).me.mode = .ended ∧
      landed (w 3 2) s = [.sys 3 0x7F00_0000] ∧ (after (w 3 3) s).me.mode = .ended ∧ landed (w 4 4) s = [.sys 4 0x4_0000_7F82] ∧
      (after (w 4 5) s).me.mode = .ended ∧ landed (w 13 6) s = [.sys 13 0xF0FF_FFFF_FFFF_FFFF] ∧ landed (w 14 6) s = [.sys 14 0xE7FF_8FFF_FFFF_FFFF]) := by
  unfold Guarded; decide +kernel

/-- A semaphore at its threshold and one below it, the highest semaphore, one outside the share; targets that have and have not passed. -/
theorem wit_WaitsAndSignals : (let s := { regs { s := [(1, 5), (2, 6)] } with semVal := [(3, 1023)], gtb := 5 }
    let wait := fun (n t : Nat) => BitVec.ofNat 20 (n + 256 * t)
    Guarded sf.g s ∧ s.me.share.hasSem 3 = true ∧ s.me.hold = [] ∧ s.semLatched 3 = false ∧ 1023 ≤ (s.semVal.get 3).toNat ∧ s.swaitBefore s.cur 3 = false ∧
      ((after (.swait { sf with x := wait 3 1023 }) s).semVal.get 3).toNat = 0 ∧ (after (.swait { sf with x := wait 3 1023 }) s).me.wait = .run ∧
      (s.semVal.get 255).toNat < 1 ∧ (after (.swait { sf with x := wait 255 1 }) s).me.wait = .swait 255 1 false false ∧
      (after (.ssig { sf with x := wait 3 1 }) s).me.hold.map Acc.inc = [1] ∧
      (after (.waitt { sf with x := 1 }) s) = s ∧ (after (.waitt { sf with x := 2 }) s).me.wait = .waitt 6) ∧
    (let s := with0 { ctx7 with share := { all with sem := (0, 15) } }
     Guarded sf.g s ∧ s.me.share.hasSem 16 = false ∧ s.me.hold = []) ∧
    (let s := { regs {} with semLatch := [(3, 1)], semCode := [(3, 7)] }
     Guarded sf.g s ∧ s.me.share.hasSem 3 = true ∧ s.me.hold = [] ∧ s.semLatched 3 = true ∧ faultOf (.swait { sf with x := 0x103 }) s = some 7) := by
  unfold Guarded; decide +kernel

/-- hasp47 with this context not yet arrived, and arrived; an SSTEP with no timed command. -/
theorem wit_Barriers : (let s := with0 ctx7
    let t := { s with hasps := [(47, { members := 2, arrived := 1, phase := 4 })] }
    Guarded sf.g s ∧ s.me.share.hasHasp 47 = true ∧ (s.hasp 47).arrived.getLsbD s.cur.val = false ∧ Guarded sf.g t ∧
      (t.hasp 47).arrived.getLsbD t.cur.val = true ∧ (after (.bara { sf with x := 47 }) t).me.wait = .bara 47 4 ∧
      (after (.barw { sf with x := 47 }) t).me.wait = .barw 47 4 ∧ (after (.barw { sf with x := 47 }) s).me.wait = .run ∧
      s.me.arch.inLoop = false ∧ s.me.ckptDone = true ∧ s.me.cmds = [] ∧ (after (.sstep sf) s).me.wait = .sstepHasp ∧
      faultOf (.bara sf) s = some 0x14) ∧
    (let s := with0 { ctx7 with share := { all with hasp := (1, 3) } }
     Guarded sf.g s ∧ s.me.share.hasHasp 4 = false ∧ faultOf (.barw { sf with x := 4 }) s = some 5) := by
  unfold Guarded; decide +kernel

/-- NODE with an empty landing buffer and with a result still due (R253). -/
theorem wit_NodesAndEnds : (let s := regs {}
    let t := regs { landing := [{ due := 1, pos := 1, act := .nothing }] }
    Guarded sf.g s ∧ s.me.arch.inLoop = false ∧ s.me.ckptDone = true ∧ s.me.arch.landing = [] ∧ Guarded sf.g t ∧ t.me.arch.inLoop = false ∧
      t.me.ckptDone = true ∧ t.me.arch.landing ≠ [] ∧ (after (.nodeS { sf with x := 0xFFFF7 }) s).me.wait = .node 0xFFF 7 ∧
      (after (.endCtx sf) s).me.wait = .ending ∧ (after (.nodeS sf) t).me.mode = .ended) := by
  unfold Guarded; decide +kernel

/-- A replay whose next entry is the signature, matching and not, under RMODE 2 and 3 (R448). -/
theorem wit_Markers_replay : (let s := fun (mode sig : W64) => ({ with0 { ctx7 with rplBase := 0x8000, sig, arch := { tracecfg := mode <<< 59, pc := 0x40 } } with
      mem := Store.putList (Store.putList [] 0x8000 [1, 0, 0, 0, 0, 0, 0, 0, 1]) 0x8040 ([6] ++ List.replicate 7 0 ++ [5]) } : State)
    Guarded sf.g (s 2 5) ∧ (s 2 5).me.rmode = 2 ∧ (s 3 5).me.rmode = 3 ∧ (s 2 5).rplNext 0 kSIG = some (0, 5) ∧ (s 3 4).rplNext 0 kSIG = some (0, 5) ∧ (s 2 5).me.arch.driftcfg.toNat / 2 ^ 12 % 2 ^ 44 = 0 ∧
      (s 2 5).me.mode = .live ∧ 2 ≤ (s 2 5).me.rmode ∧ (s 3 5).me.arch.tracecfg.getLsbD 62 = false ∧ (after (.markS sf) (s 2 5)).me.rplAt.getD kSIG 0 = 1 ∧
      (after (.markS sf) (s 2 5)).me.lastMark = some 0x40 ∧ faultOf (.markS sf) (s 2 4) = some 0x13 ∧
      (after (.markS sf) (s 3 4)).diverged = [{ lid := 7, bundle := 0x40, sig := 4, recorded := 5, last := none }] ∧ (after (.markS sf) (s 3 4)).me.rplOff = true) := by
  unfold Guarded; decide +kernel

/-- No drift log; a drift that arms the trace; a log at 0x1000; a breakpoint disabled, enabled, and passed by once (R255, R438, R443). -/
theorem wit_Markers : (let s := regs {}
    let t := regs { tracecfg := 0x4000_0000_0000_0000, driftcfg := 0 }
    let u := regs { driftcfg := 0x0000_0000_0000_1FFF }
    let w := { u with tlb := [{ page0 with wp := true }] }
    let at_ := fun (s : State) (va : Nat) => (s.logTr s.cur va).toOption.map (fun t => (t.pa, t.wp))
    Guarded sf.g s ∧ s.me.rmode = 0 ∧ after (.markS sf) s = s ∧ Guarded sf.g t ∧ t.me.rmode = 0 ∧ (after (.markS { sf with x := 1 }) t).me.traceArm = some 256 ∧
      Guarded sf.g u ∧ u.me.rmode = 0 ∧ u.me.logWait = [] ∧ at_ u 0x1000 = some (0x1000, false) ∧ at_ u 0x1040 = some (0x1040, false) ∧
      at_ (u.memPut 0x1000 (leBytes 8 1)) 0x1040 = some (0x1040, false) ∧ (after (.markS sf) u).memNat 0x1000 8 = 1 ∧
      at_ w 0x1000 = some (0x1000, true) ∧ (after (.markS sf) w).me.logWait.map LogRec.base = [0x1000]) ∧
    (let s := regs {}
     let t := regs { tracecfg := 0x8000_0000_0000_0000 }
     let u := with0 { ctx7 with brkPassed := true, arch := { tracecfg := 0x8000_0000_0000_0000 } }
     Guarded sf.g s ∧ s.me.arch.inLoop = false ∧ s.me.arch.tracecfg.getLsbD 63 = false ∧ Guarded sf.g t ∧ t.me.arch.inLoop = false ∧
      t.me.arch.tracecfg.getLsbD 63 = true ∧ t.me.brkPassed = false ∧ (after (.brk { sf with x := 5 }) t).me.mode = .stopped ∧
      Guarded sf.g u ∧ u.me.arch.inLoop = false ∧ u.me.arch.tracecfg.getLsbD 63 = true ∧ u.me.brkPassed = true ∧ u.me.brkAt = u.me.arch.pc ∧
      (after (.brk sf) u).me.mode = .live) := by
  unfold Guarded; decide +kernel

/-! ### Scalar memory, tiles, shaper registers -/

/-- s1 = 0x1F8, the last doubleword below 0x200; s2 = −8. -/
def memS : State := { regs { s := [(1, 0x1F8), (2, 0xFFFF_FFFF_FFFF_FFF8)] } with mem := [(0x1F8, 0xFE)] }

/-- A load of 8 bytes, and a store of one byte, in page 0 (R115, R116). -/
theorem wit_ScalarLoads : Guarded af.g memS ∧ (let f := { af with w := 3, a := 1, d := 5 }
    let va := (memS.aA f + memS.aImm f).toNat
    va < 2 ^ 56 ∧ va % 8 = 0 ∧ (memS.access memS.me.arch memS.me.asid .read va).toOption.map (fun t => (t.pa, memS.remote t.pa)) = some (0x1F8, false) ∧ (after (.lds f) memS).me.queue.map Acc.addrs = [List.range' 0x1F8 8]) := by
  unfold Guarded; decide +kernel

theorem wit_ScalarStores : Guarded af.g memS ∧ (let f := { af with w := 0, a := 1, d := 2, imm := 7 }
    let va := (memS.aA f + memS.aImm f).toNat
    f.q ≠ 2 ∧ va < 2 ^ 56 ∧ va % 1 = 0 ∧ (memS.access memS.me.arch memS.me.asid .write va).toOption.map Tr.pa = some 0x1FF ∧ (after (.sts f) memS).me.hold.map Acc.cells = [[(0x1FF, 0xF8)]]) := by
  unfold Guarded; decide +kernel

/-- An AMO of 8 bytes; a FENCE with nothing and with a held store before it; a PROBE of page 0 and of a page that is not mapped. -/
theorem wit_AtomicsFencesProbes : (let s := memS
    let t := { with0 { ctx7 with hold := [{ id := 0, kind := .store, cells := [(0x40, 1)] }] } with gtb := 0 }
    let u := with0 { ctx7 with hdr := 2, arch := { s := [(1, 0x4000_0000)] } }
    let pkg : BitVec 24 := 4 * 65536 + 0xFFFF
    Guarded af.g s ∧ s.me.ckptDone = true ∧ (s.aA { af with a := 1 }).toNat % 8 = 0 ∧ (s.access s.me.arch s.me.asid .both 0x1F8).toOption.map Tr.pa = some 0x1F8 ∧ s.me.replay = [] ∧ (after (.amo { af with w := 1, a := 1, b := 2 }) s).me.queue.map Acc.operand = [0xFFFF_FFFF_FFFF_FFF8] ∧
      s.relPending s.cur s.me.nextId 0xFFFF 4 = false ∧ after (.fence { af with q := 2, imm := pkg }) s = s ∧
      Guarded af.g t ∧ t.me.ckptDone = true ∧ t.relPending t.cur t.me.nextId 0xFFFF 4 = true ∧ (after (.fence { af with q := 2, imm := pkg }) t).me.wait = .stall 4 ∧
      Guarded af.g u ∧ u.me.ckptDone = true ∧ u.me.repeats = false ∧ u.me.hdr.getLsbD 1 = true ∧ (u.translate u.me.arch u.me.asid 0).isSome = true ∧
      u.translate u.me.arch u.me.asid 0x4000_0000 = none ∧ landed (.probe { af with d := 3 }) u = [.s 3 3]) := by
  unfold Guarded; decide +kernel

/-- AMOs that a replay has the results of, and has not yet; AMOs of 4 bytes and with `.sc` at both scopes; FENCEs that acquire while a store is held (R121, R298, R301). -/
theorem wit_AtomicsFencesProbes_replay : (let s := fun (x : Context) => ({ with0 { x with ckptDone := true, arch := { s := [(1, 0x1F8)] } } with mem := [(0x1F8, 0xFE)] } : State)
    let r := s { ctx7 with replay := [(9, some 5)] }
    let w := s { ctx7 with replay := [(9, none)] }
    let sc := { s ctx7 with mreg := Store.put resetRegs regDOMTUMB 0x8000 }
    let f := fun (w : BitVec 2) (q : BitVec 3) (n : BitVec 24) => ({ af with w, q, a := 1, d := 5, imm := n } : AF)
    (r.aA (f 1 0 0)).toNat % 8 = 0 ∧ (r.access r.me.arch r.me.asid .both 0x1F8).toOption.map Tr.pa = some 0x1F8 ∧ r.me.replay = (9, some 5) :: [] ∧ w.me.replay = (9, none) :: [] ∧
      landed (.amo (f 1 0 0)) r = [.s 5 5] ∧ (after (.amo (f 1 0 0)) w).me.arch.landing.map LandEntry.tok = [9] ∧ (after (.amo (f 0 0 0)) sc).me.queue.map Acc.width = [4] ∧
      sc.me.rmode = 0 ∧ sc.tumblerOk 4 = true ∧ sc.tumblerOk 5 = true ∧ (after (.amo (f 1 4 0x40)) sc).me.queue.map (fun a => (a.tumbler, a.ticket)) = [(1, 1)] ∧
      (after (.amo (f 1 4 0x50)) sc).me.queue.map (fun a => (a.tumbler, a.ticket)) = [(2, 1)] ∧ r.walkBad r.me.arch r.me.asid 0x1F8 = none ∧
      (let t := { with0 { ctx7 with hold := [{ id := 0, kind := .store, cells := [(0x40, 1)] }] } with gtb := 0 }
       t.relPending t.cur t.me.nextId 0xFFFF 4 = true ∧ (after (.fence { af with q := 1, imm := 0x4FFFF }) t).me.wait = .run ∧
        (after (.fence { af with q := 3, imm := 0x4FFFF }) t).me.wait = .stall 4)) := by
  decide +kernel

/-- Tiles 0 EMPTY, 1 READY, 2 FILLING, 3 DRAINING of core 0. -/
def tileS : State := { regs { s := [(1, 0x1000), (2, 0x400000040)] } with
  tiles := [(1, { state := 2, base := 0x40, size := 0x40, expected := 16, arrived := 16 }), (2, { state := 1 }), (3, { state := 3 })] }

theorem wit_TileTable : Guarded af.g tileS ∧ tileS.me.share.hasTile 255 = true ∧ tileS.me.share.hasTile 0 = true ∧ 256 * tileS.myX = 0 ∧
    (tileS.tile 0).state = 0 ∧ (tileS.tile 1).state = 2 ∧ (tileS.tile 2).state = 1 ∧ (tileS.tile 3).state = 3 ∧ (tileS.tile 1).reserved = false ∧
    (tileS.tile 1).arrived < 2 ^ 24 ∧ tdefOk (tileS.aA { af with a := 1 }) (tileS.aB { af with b := 2 }) = true ∧
    landed (.tstat { af with d := 4, imm := 1 }) tileS = [.s 4 0x0000_0010_0000_1002] ∧
    ((after (.tdef { ab 1 2 with imm := 1 }) tileS).tile 1).base = 0x1000 ∧ ((after (.tfree { af with imm := 1 }) tileS).tile 1).state = 3 ∧
    (after (.tfree { af with imm := 2 }) tileS).me.wait = .stall 1 := by
  unfold Guarded; decide +kernel

/-- A pattern and a descriptor that are valid, the last word of an es register, the words 384 and 385, and a register that a call names. -/
theorem wit_ShaperRegisters : (let s := regs { s := [(1, 383), (2, 384), (3, 385)], esd := [(0, 0)] }
    let t := with0 { ctx7 with calls := [{ routine := 0, m := [], rkey := 0, bundle := 0, ess := 1, nrwEs := 1 }] }
    Guarded af.g s ∧ s.esBusy 0 = false ∧ esOwn 0 ≠ 3 ∧ esFmt 0 ≤ 8 ∧ (s.aA { af with a := 1 }).toNat < 384 ∧ (s.aB { af with b := 1 }).toNat < 384 ∧
      (s.aB { af with b := 2 }).toNat = 384 ∧ (s.aB { af with b := 3 }).toNat = 385 ∧ esOwn (s.me.arch.es 0) ≠ 2 ∧
      Guarded af.g t ∧ t.esBusy 0 = true ∧ (after (.ssrcfg af) t).me.mode = .ended ∧
      landed (.ssrwr { ab 1 2 with d := 1 }) s = [.esWord 1 383 384]) := by
  unfold Guarded; decide +kernel

/-! ### Matrix, engine, accumulator, cross-lane and vector slots -/

/-- What a check or a read gives. -/
def got {α : Type} : Got α → Option α
  | .got a => some a
  | _ => none

def call0 : Call := { routine := 0, m := [], rkey := 0, bundle := 0 }

/-- A launch that owns the stores with three calls outstanding and with four, one that does not own them, and no call (R185, R190). -/
theorem wit_MatrixCalls : (let s := with0 { ctx7 with calls := List.replicate 3 call0 }
    let t := with0 { ctx7 with calls := List.replicate 4 call0 }
    let u := { with0 ctx7 with sched := { owner := none } }
    Guarded sf.g s ∧ s.sched.owner = some s.me.lid ∧ (s.callsOf s.cur).length < 4 ∧ s.me.ckptDone = true ∧
      (after (.mcall { sf with x := 255 }) s).me.calls.map Call.routine = [0, 0, 0, 255] ∧ (after (.mquiet sf) s).me.wait = .stall 3 ∧
      Guarded sf.g t ∧ 4 ≤ (t.callsOf t.cur).length ∧ (after (.mcall sf) t).me.wait = .blocked ∧
      Guarded sf.g u ∧ u.sched.owner ≠ some u.me.lid ∧ (u.callsOf u.cur).length = 0 ∧ after (.mquiet sf) u = u ∧ (after (.mcall sf) u).me.mode = .ended) := by
  unfold Guarded; decide +kernel

/-- A descriptor of 128 bytes with fields at offset, width and value. -/
def desc (fs : List (Nat × Nat × Nat)) : List Byte :=
  fs.foldl (fun d f => d.take f.1 ++ leBytes f.2.1 f.2.2 ++ d.drop (f.1 + f.2.1)) (List.replicate 128 0)

/-- A descriptor at 0x1000, which s1 names; communicator 0 of one member; group 0, hosted here; tile 0 for a result and tile 1 for chunks. -/
def cmdS (d : List Byte) : State :=
  { regs { s := [(1, 0x1000), (2, 0x1040)] } with
    sp := Store.putList [] 0x1000 d
    mem := Store.putList (Store.putList [] 0x2000 [1, 0, 0, 0, 0, 0, 0, 0, 0, 0, 0x21]) 0x3000 [5, 0, 0, 0, 0, 0, 0, 0, 0, 0x40, 0, 0, 0, 0, 0, 0, 128]
    mreg := (Store.put (Store.put resetRegs regCOMMBASE 0x2000) regGRPBASE 0x3000)
    tiles := [(0, { base := 0x8000, size := 64, expected := 16 }), (1, { base := 0xA000, size := 4096 })] }

def cmdF : EF := { ef with dreg := 1 }

/-- What a command's issue queues from the descriptor `d`, where the hypotheses hold. -/
def queued (i : Instr) (d : List Byte) (e : Engine) : Bool :=
  let s := cmdS d
  let keys := byteAddrs (spKey s.myX (s.eAddr cmdF)) 128
  s.tokensOk cmdF && spRange (s.eAddr cmdF) 128 && s.eAddr cmdF % 128 == 0 && keys.all (fun b => !s.onItsWay s.cur true s.me.nextId b) && s.me.ckptDone && (s.badAt .sp keys).isNone &&
    s.spRead s.cur s.me.nextId keys == d && (s.me.cmds.filter (fun c => c.eng == e)).length == 0 &&
    (after i s).me.cmds.map (fun k => (k.eng, k.desc)) == [(e, d)]

/-- One descriptor of each command whose checks pass. -/
theorem wit_EngineCommands :
    queued (.copy cmdF) (desc [(0x10, 4, 1)]) .copy = true ∧
    queued (.tload cmdF) (desc [(0x10, 4, 1)]) .weight = true ∧
    queued (.coll cmdF) (desc [(4, 1, 1), (5, 1, 1), (8, 4, 16), (0x18, 2, 1), (0x30, 8, 0x4000), (0x38, 8, 0x8000), (0x41, 1, 1), (0x42, 1, 1)]) .coll = true ∧
    queued (.mcst cmdF) (desc [(4, 4, 64)]) .mcast = true ∧
    queued (.skadd cmdF) (desc []) .sketch = true ∧ queued (.skscl cmdF) (desc [(0x10, 4, 0x3F800000)]) .sketch = true ∧
    queued (.skzero cmdF) (desc []) .sketch = true ∧
    queued (.muload cmdF) (desc [(8, 2, 8191), (10, 2, 1)]) .copy = true ∧ queued (.epload cmdF) (desc [(8, 2, 511), (10, 2, 1)]) .copy = true := by
  decide +kernel

def quiet4 : Cmd := { id := 0, eng := .quiet, op := 10, timed := false, ef := ef, desc := [], trel := 0, fcr := 0, rkey := 0, bundle := 0, order := 0 }

/-- An EQUIET, one that finds its queue full, a class of 7, and a descriptor that is not aligned (R229, R230, R409). -/
theorem wit_EngineCommands_stops : Guarded cmdF.g (cmdS []) ∧ (cmdS []).tokensOk ef = true ∧ ef.toff = 0xFFFF ∧ (after (.equiet ef) (cmdS [])).me.cmds.length = 1 ∧
    (cmdS []).eAddr { cmdF with dreg := 2 } % 128 ≠ 0 ∧ (after (.copy { cmdF with dreg := 2 }) (cmdS [])).me.mode = .ended ∧
    (after (.tload { cmdF with vc := 7 }) (cmdS [])).me.mode = .ended ∧
    (let s := with0 { ctx7 with cmds := List.replicate 4 quiet4 }
     Guarded ef.g s ∧ s.tokensOk ef = true ∧ 4 ≤ (s.me.cmds.filter (fun c => c.eng == .quiet && c.timed == false)).length ∧
      (after (.equiet ef) s).me.wait = .blocked) := by
  unfold Guarded; decide +kernel

/-- Queues that are full, of each engine; the sequence numbers of a communicator (R229, R328). -/
theorem wit_EngineCommands_full : (let full := fun (e : Engine) (d : List Byte) => ({ cmdS d with c0 := { (cmdS d).c0 with cmds := List.replicate 16 { quiet4 with eng := e } } } : State)
    let d := desc [(0x10, 4, 1)]
    let s := full .copy d
    ¬ ((s.me.cmds.filter (fun c => c.eng == .copy && c.timed == false)).length < 16) ∧ Guarded cmdF.g s ∧ s.tokensOk cmdF = true ∧
      (∀ b ∈ byteAddrs (spKey s.myX (s.eAddr cmdF)) 128, s.onItsWay s.cur true s.me.nextId b = false) ∧ s.bad = [] ∧
      (got (copyCheck d s)) = some () ∧ (after (.copy cmdF) s).me.wait = .blocked ∧ (after (.tload cmdF) (full .weight d)).me.wait = .blocked ∧
      (after (.mcst cmdF) (full .mcast (desc [(4, 4, 64)]))).me.wait = .blocked ∧ (after (.skadd cmdF) (full .sketch (desc []))).me.wait = .blocked ∧
      (after (.muload cmdF) (full .copy (desc [(8, 2, 8191), (10, 2, 1)]))).me.wait = .blocked) ∧
    (let d := desc [(4, 1, 1), (5, 1, 1), (8, 4, 16), (0x18, 2, 1), (0x30, 8, 0x4000), (0x38, 8, 0x8000), (0x41, 1, 1), (0x42, 1, 1)]
     let t := after (.coll cmdF) (cmdS d)
     (cmdS d).me.arch.seqOf 0 = none ∧ t.me.cmds.map (fun k => k.coll.seq) = [0] ∧ t.me.arch.seqOf 0 = some 1 ∧ t.me.arch.seqOf 1 = none ∧
      (after (.coll cmdF) { t with c0 := { t.c0 with mode := .live } }).me.cmds.map (fun k => k.coll.seq) = [0, 1]) := by
  unfold Guarded; decide +kernel

/-- Row 127 of tile 7, word 0 of which is 2.0; v3 of group 0 holds 1.0 in lane 0. -/
def accS : State := { regs { v := [(48, 0x3F800000)] } with acc := [(accIdx 7 127 0, 0x40000000)] }
def accF : OF := { oacc with acc := 7, row := 127, v := 3 }

theorem wit_AccumulatorSegments : Guarded accF.g accS ∧ Store.wf accS.acc = true ∧ accS.me.share.hasAcc 7 = true ∧ accS.me.arch.rowOf false 127 + 0 + 1 ≤ 128 ∧
    accS.callsOf accS.cur = [] ∧ accS.badAt .acc (List.range' (accIdx 7 127 0) 128) = none ∧ (after (.oadd accF) accS).acc.get (accIdx 7 127 0) = 0x40400000 ∧ (after (.owr accF) accS).acc.get (accIdx 7 127 0) = 0x3F800000 ∧
    (after (.ozero accF) accS).acc = [] ∧ (after (.oscl accF) accS).acc = accS.acc ∧
    landed (.ord accF) accS = [.v 0 3 0xFFFF (0x40000000 :: List.replicate 15 0)] := by
  unfold Guarded; decide +kernel

/-- XSHF by 127 moves lane 0 of group 0 to lane 15 of group 7 (R179, R180). -/
theorem wit_CrossLane : Guarded xf.g accS ∧
    (landed (.xshf { xf with fn := 1, h := 7, j := 7, v := 3, d := 5 }) accS).getLast? = some (.v 7 5 0xFFFF (List.replicate 15 0 ++ [0x3F800000])) ∧
    landed (.xv2s { xf with v := 3, d := 9 }) accS = [.s 9 0x3F800000] := by
  unfold Guarded; decide +kernel

/-- s1 = 0x100; the scratchpad up to 0x2000 in tile 0, READY; v1, the indices, all 0. -/
def vecS : State := { with0 { ctx7 with arch := { s := [(1, 0x100)] } } with tiles := [(0, { state := 2, base := 0, size := 0x2000 })], mem := [(0x100, 7)] }
def vec : VF := { vf with gs := 8, base := 1 }

theorem wit_VectorLoads : Guarded vec.g vecS ∧ (vecS.vA vec).toNat % 4 = 0 ∧
    (∀ g ∈ List.range 8, (vecS.spAddr false (groupAddr vec 0x100 64 g) 64).toOption = some (0x100 + 64 * g)) ∧
    (vecS.coverAll (vecS.ownTile vecS.cur) ((List.range 8).flatMap (fun g => byteAddrs (0x100 + 64 * g) 64))) = some [0] ∧ (vecS.tile 0).state = 2 ∧
    (∀ g ∈ List.range 8, (vecS.memElts .read (rowAddrs (groupAddr vec 0x100 64 g) 4)).toOption.map (fun ts => ts.map (fun t => (t.pa, vecS.remote t.pa))) =
      some ((rowAddrs (0x100 + 64 * g) 4).map (fun a => (a, false))) ∧ vecS.tlbFills (rowAddrs (groupAddr vec 0x100 64 g) 4) = vecS) := by
  unfold Guarded; decide +kernel

theorem wit_VectorLoads_elements : (vecS.vA vec).toNat % 16 = 0 ∧ vec.q ≠ 1 ∧
    (∀ g ∈ List.range 8, ((vecS.spElts false 16 ((List.range 4).map (fun r => groupAddr vec (0x100 + BitVec.ofNat 64 (16 * r)) 16 g))).toOption.isSome = true) ∧
      (vecS.spAddr false ((0x100 : W64) + BitVec.ofNat 64 (bxBytes 0 (64 * g)).1).toNat (bxBytes 0 (64 * g)).2).toOption.isSome = true ∧
      (vecS.spElts false 4 (laneAddrs vecS vec 0x100 4 g)).toOption = some (List.replicate 16 0x100) ∧
      ((vecS.memElts .read (laneAddrs vecS { vec with q := 1 } 0x100 4 g)).toOption.map (fun ts => ts.map (fun t => (t.pa, vecS.remote t.pa)))) =
        some (List.replicate 16 (0x100, false)) ∧ vecS.tlbFills (laneAddrs vecS { vec with q := 1 } 0x100 4 g) = vecS) := by decide +kernel

/-- One load of each form of group 0 reads the bytes of its row or of its lanes. -/
theorem test_vector_loads : (let f := { vf with base := 1 }
    (after (.ldv f) vecS).me.queue.map (fun a => (a.sp, a.addrs)) = [(true, List.range' 0x100 64)] ∧
    (after (.ldg { f with ty := 1 }) vecS).me.queue.map (fun a => (a.sp, a.addrs)) = [(false, List.range' 0x100 32)] ∧
    ((after (.gath f) vecS).me.queue.map (fun a => a.addrs.take 8)) = [[0x100, 0x101, 0x102, 0x103, 0x100, 0x101, 0x102, 0x103]] ∧
    (after (.ldt f) vecS).me.queue.map (fun a => a.addrs.length) = [64]) := by decide +kernel

theorem wit_VectorStores : Guarded vec.g vecS ∧ (vecS.vA vec).toNat % 4 = 0 ∧ vecS.me.ckptDone = true ∧ vecS.me.replay = [] ∧ vec.ty ≠ 3 ∧ vec.ty ≠ 5 ∧
    (∀ g ∈ List.range 8, (vecS.memElts .write (rowAddrs (groupAddr vec 0x100 64 g) 4)).toOption.map (fun ts => ts.map Tr.pa) = some (rowAddrs (0x100 + 64 * g) 4) ∧
      (vecS.memElts .write (laneAddrs vecS { vec with q := 1 } 0x100 4 g)).toOption.map (fun ts => ts.map Tr.pa) = some (List.replicate 16 0x100) ∧
      (vecS.memElts .both (laneAddrs vecS { vec with q := 1 } 0x100 4 g)).toOption.map (fun ts => ts.map Tr.pa) = some (List.replicate 16 0x100) ∧
      vecS.tlbFills (rowAddrs (groupAddr vec 0x100 64 g) 4) = vecS ∧ vecS.tlbFills (laneAddrs vecS { vec with q := 1 } 0x100 4 g) = vecS ∧
      (rowAddrs (0x100 + 64 * g) 4).all (fun a => vecS.remote a == false)) ∧
    (let s := { vecS with tiles := [] }
     s.fillBusy ((List.range 8).flatMap (fun g => byteAddrs (0x100 + 64 * g) 64)) = false ∧
      ∀ g ∈ List.range 8, (s.spAddr false (groupAddr vec 0x100 64 g) 64).toOption = some (0x100 + 64 * g)) := by
  unfold Guarded; decide +kernel

/-- A store of i16 elements holds the low halves of its lanes, and a VAMO its lanes' operands (R165, R175). -/
theorem test_vector_stores : (let s := { vecS with c0 := { vecS.c0 with arch := { s := [(1, 0x100)], v := [(0, 0x12345678)] } }, tiles := [] }
    let f := { vf with base := 1 }
    (after (.stg { f with ty := 1 }) s).me.hold.map (fun a => a.cells.take 3) = [[(0x100, 0x78), (0x101, 0x56), (0x102, 0)]] ∧
    (after (.stv f) s).me.hold.map (fun a => (a.sp, a.cells.take 4)) = [(true, [(0x100, 0x78), (0x101, 0x56), (0x102, 0x34), (0x103, 0x12)])] ∧
    (after (.vamo f) s).me.hold.map (fun a => (a.kind, (a.lanes.map (fun l => (l.1, l.2.1))).take 2)) = [(.spAmo, [(0x100, 0x12345678), (0x100, 0)])]) := by decide +kernel

/-- A sketch at 0x140, the lanes of v1 all valid but lane 0 of group 0; PUSHQ into q4, which loops back. -/
theorem wit_SketchAndQueueOps : (let s := { with0 { ctx7 with q0gen := true, share := { all with qbind := [1, 1, 1, 1], qpush := 0xF }, arch := { s := [(1, 0x140)], v := [(16, 0xFFFFFFFF)] } } with gtb := 0 }
    let f := { vf with base := 1 }
    Guarded f.g s ∧ s.me.qs.length = 8 ∧ (sketchAt f s .both).toOption.map Tr.pa = some 0x140 ∧ (sketchAt f s .read).toOption.map Tr.pa = some 0x140 ∧
      s.me.q0gen = true ∧ s.me.ckptDone = true ∧ s.me.replay = [] ∧ (s.me.qs.getD 1 {}).ents.length + 8 ≤ 16 ∧
      (after (.skupd f) s).me.queue.map (fun a => a.lanes.length) = [15] ∧ (after (.skqry f) s).me.queue.map (fun a => a.addrs) = [[0x140]] ∧
      (s.spAddr false (groupAddr f 0x140 64 0) 64).toOption = some 0x140 ∧ s.me.queue = [] ∧ s.bankQ = [] ∧ s.homeQ = [] ∧ s.bad = [] ∧ s.spFenced (byteAddrs 0x140 64) = false ∧ s.me.share.mayPush 4 = true ∧
      s.me.share.kind 4 = 1 ∧ ((after (.pushq f) s).me.qs.getD 4 {}).ents.map (fun e => e.e.mask) = [0xFFFF]) := by
  unfold Guarded; decide +kernel

/-! ### Triads -/

/-- v1 and v2 of group 0 hold 0x80000001 and 3 in lane 0; the γ of the triad adds the chained value and v2. -/
def triS (c : Context := ctx7) : State :=
  { with0 { c with arch := { v := [(16, 0x80000001), (32, 3)], esd := (List.range 4).map (fun i => (i, 0x0400_0000_0000_0000)) } } with casc := [(cascIdx 0 1 0, 0x80000001)] }
def tri : TF := { tf with srcA := 1, srcB := 2, srcC := 45, srcD := 2, k := 0 }

/-- The destinations v31, k0, the boundary codes 47 and 52, and a discarded result; every source a register (R97, R147). -/
theorem wit_TriadWords : Guarded tri.g (triS) ∧ (tri.dest.toNat < 48 ∧ ({ tri with dest := 47 } : TF).dest.toNat < 48 ∧ 52 ≤ ({ tri with dest := 63 } : TF).dest.toNat) ∧
    ¬ (32 ≤ tri.srcA.toNat) ∧ ¬ (32 ≤ ownSrc tri) ∧ tri.typeAt < 3 ∧
    (let r := fun (i : Instr) => ((landed i triS).getLast?.bind (fun l => match l with
        | .v _ _ _ v => v.head?
        | _ => none))
     r (.iadd tri) = some 0x80000004 ∧ r (.isub tri) = some 0x7FFFFFFE ∧ r (.triadShl tri) = some 8 ∧ r (.triadSra tri) = some 0xF0000000 ∧
      r (.imin tri) = some 0x80000001 ∧ r (.cmplt tri) = some 0xFFFFFFFF ∧ r (.iadd { tri with ty := 1 }) = some 0x80000004 ∧
      r (.triadAbs { tri with ty := 2 }) = some 0x7F000001 ∧ r (.pack { tri with sel := 0 }) = some 0x00000001) := by
  unfold Guarded; decide +kernel

/-- 1.0 in every lane of the chained value, 2.0 in v2. -/
def triF (fcr : W64 := 0) : State :=
  { with0 { ctx7 with q0gen := true, arch := { fcr, v := (List.range 16).map (fun l => (32 + l, 0x40000000)), esd := (List.range 4).map (fun i => (i, 0x0400_0000_0000_0000)) } } with
    casc := (List.range 32).map (fun l => (l, 0x3F800000)) }
def triff : TF := { tri with ty := 3 }

/-- FP32 lanes under the default rounding and under SRD with a word generated; a triad that owns every es register; a fused γ. -/
theorem wit_TriadFloats : Guarded triff.g (triF) ∧ triff.dest.toNat < 48 ∧ ¬ (32 ≤ triff.srcA.toNat) ∧ ¬ (32 ≤ ownSrc triff) ∧
    esOwn ((triF).me.arch.es (fld triff.sel 0 2)) = 1 ∧ (typeFmt triff.typeAt).isSome = true ∧ (triF).me.arch.fctl.srd = false ∧
    (triF 16).me.arch.fctl.srd = true ∧ (triF 16).me.q0gen = true ∧ fusedHere triff = false ∧ fusedHere { triff with fuse := true } = true ∧
    (let r := fun (i : Instr) => ((landed i (triF)).getLast?.bind (fun l => match l with
        | .v _ _ _ v => v.getLast?
        | _ => none))
     r (.fadd triff) = some 0x40400000 ∧ r (.fsub triff) = some 0xBF800000 ∧ r (.fmul triff) = some 0x40000000 ∧ r (.fmax triff) = some 0x40000000 ∧
      r (.cmplt triff) = some 0xFFFFFFFF ∧ r (.triadRcp triff) = some 0x3F800000 ∧ r (.triadExp2 triff) = some 0x40000000 ∧
      r (.triadCvt { triff with sel := 4 }) = some 0x00003F80) := by
  unfold Guarded; decide +kernel

/-- A latch outside the share, an empty one, and a push to q4 (R65, R97, R147). -/
theorem wit_TriadQueues : (let closed := { (triS { ctx7 with share := { all with qbind := [0, 0, 0, 0] } }) with gtb := 0 }
    let f : TF := { tri with pos := .alpha, srcA := 36 }
    let g : TF := { tri with srcD := 33 }
    let p : TF := { tri with dest := 48 }
    Guarded f.g closed ∧ unitInstr 0 f = some (.unitNone f) ∧ closed.me.share.mayRead 4 = false ∧ (after (.unitNone f) closed).me.mode = .ended ∧
      Guarded f.g (triS) ∧ (triS).me.share.mayRead 4 = true ∧ ((triS).me.qHead 4).isSome = false ∧ (after (.unitNone f) triS).me.wait = .blocked ∧
      unitInstr 1 g = some (.iadd g) ∧ ownSrc g = 33 ∧ (triS).me.share.mayRead 1 = true ∧ ((triS).me.qHead 1).isSome = false ∧ (after (.iadd g) triS).me.wait = .blocked ∧
      unitInstr 1 p = some (.iadd p) ∧ unitInstr 1 ({ p with dest := 63 } : TF) = some (.iadd { p with dest := 63 }) ∧ ¬ (32 ≤ ownSrc p) ∧
      (triS).me.arch.fctl.srd = false ∧ (∀ j, j < 4 → esOwn ((triS).me.arch.es j) = 1) ∧ Store.wf (triS).casc = true ∧
      ((after (.iadd p) triS).me.qs.getD 4 {}).ents.map (fun e => (e.e.mask, e.e.lanes.head?)) = [(0xFFFF, some 0x80000004)]) := by
  unfold Guarded; decide +kernel

/-! ### Words, epilogue instructions, the management hart -/

def run0 : CallRun := { ctx := 0, call := { routine := 3, m := List.replicate 8 0, rkey := 0, bundle := 0 }, word := 9, p := [0, 0x100, 2, 2, 0, 0, 0, 0] }

/-- A call that runs; tile 0 READY with bytes of 0x44 (i8 rows, and 2:4 records of the pairs 0 and 1), tile 1 EMPTY, to be filled. -/
def seqS (r : CallRun) : State :=
  { with0 { ctx7 with wbuf := [{ fmt := 0, k := 1, bytes := List.replicate 128 1 }], arch := { esd := [(0, 0x0800_0000_0000_0000), (1, 0x0818_0000_0000_0000)] } } with
    run := some r
    sp := (List.range 128).map (fun i => (i, 0x44))
    semVal := [(5, 65520)]
    acc := [(accIdx 0 0 0, 0x3F800000)]
    tiles := [(0, { state := 2, base := 0, size := 0x4000 }), (1, { base := 0x4000, size := 0x4000, expected := 0x1000 })] }

/-- The last count of a loop, a branch taken, a wait at its threshold, a signal that reaches 65,535, and words that are ill-formed (R199 to R203). -/
theorem wit_WordFlow : (let s := seqS run0
    let word := fun (i : Instr) => (after i s).run.map (fun r => r.word)
    s.run = some run0 ∧ run0.epi = none ∧ run0.ended = false ∧ s.arrayFenced = false ∧ (s.ctx 0).share.hasSem 5 = true ∧ s.semLatched 5 = false ∧ s.swaitAny 5 = false ∧
      15 ≤ (s.semVal.get 5).toNat ∧ (s.semVal.get 5).toNat + 15 ≤ 65535 ∧
      (∀ i ∈ ([.munop wf, .mend wf, .mlp { wf with f0 := 2, imm := 0x1FFF }, .mbrn { wf with f0 := 2, f1 := 3, imm := 0x1FFF }, .padd wf, .pset wf, .wstr { wf with imm := 0x180000 }, .wstr { wf with f0 := 8 }, .astr { wf with imm := 1 },
        .mwait { wf with f3 := 5, f4 := 15 }, .msig { wf with f3 := 5, f4 := 15 }] : List Instr), i.wf = true) ∧
      word (.mlp { wf with f0 := 2, imm := 0x1FFF }) = some 0x1FFF ∧ word (.mlp { wf with f0 := 1, imm := 0x1FFF }) = some 0x1FFF ∧ word (.mbrn { wf with f0 := 2, f1 := 3, imm := 0x1FFF }) = some 0x1FFF ∧
      word (.mwait { wf with f3 := 5, f4 := 15 }) = some 10 ∧ (after (.msig { wf with f3 := 5, f4 := 15 }) s).semVal.get 5 = 65535 ∧
      (after (.padd { wf with f0 := 1, f1 := 1, imm := 0xFFFFFF }) s).run.map (fun r => nth r.p 1) = some 0xFF ∧
      Instr.wf (.munop { wf with imm := 1 }) = false ∧ Instr.place (.munop wf) = .word ∧ (after (.munop { wf with imm := 1 }) s).run = none) := by decide +kernel

def bank0 : Bank := { full := true, fmt := 0, rows := [List.replicate 128 2], scales := [[]] }

/-- Each hypothesis of the store words: a block of the stream, rows of tile 0, metadata, es0 (owned by the sequencer), row 0, and 16 bytes of tile 0. -/
theorem wit_WordStores : (let s := seqS { run0 with wsrc := some { tload := true, fmt := 0 } }
    let r := { run0 with wsrc := some { fmt := 0, stride := 128, preg := 0 }, wb0 := { bank0 with rows := [List.replicate 128 2, List.replicate 128 2], scales := [[], []] } }
    let t := seqS r
    s.run.map CallRun.epi = some none ∧ s.badAt .acc (List.range' 0 16384) = none ∧ s.spFenced (byteAddrs (spKey s.myX 0) 16) = false ∧ (s.ctx 0).share.hasAcc 0 = true ∧ Store.wf s.acc = true ∧ (s.ctx 0).wbuf.map (fun b => (b.fmt, b.k)) = [(0, 1)] ∧ kPass 0 = 128 ∧
      (∀ i ∈ ([.zacc wf, .wld wf, .spsel wf, .achn wf, .drn { wf with imm := 64 }, .cksv wf] : List Instr), i.wf = true) ∧
      (got (readRows t r { fmt := 0, stride := 128, preg := 0 } 128 1 0)).map (fun v => v.2.1) = some [List.replicate 128 0x44] ∧
      r.wb0.rows.length % 2 = 0 ∧ class8 0 = true ∧ (got (t.readReady 0 0 64)) = some (List.replicate 64 0x44) ∧
      (∀ n, n < 128 → (metaIdx (List.replicate 64 0x44) 0 n).1 < (metaIdx (List.replicate 64 0x44) 0 n).2) ∧
      esOwn ((t.ctx 0).arch.es 0) = 2 ∧ chainFmt (esFmt ((t.ctx 0).arch.es 0)) = some 1 ∧ t.coverAll (t.ownTile 0) (byteAddrs (spKey t.myX 0) 16) = some [0] ∧
      (after (.zacc wf) s).acc = [] ∧ (after (.wld wf) s).run.map (fun r => r.wb0.rows) = some [List.replicate 128 1] ∧ ((after (.wld wf) s).ctx 0).wbuf = [] ∧
      (after (.spsel wf) t).run.map (fun r => r.wb0.hasMeta) = some true ∧ (after (.drn { wf with imm := 64 }) t).run.map (fun r => r.epi.isSome) = some true ∧
      (after (.cksv wf) (seqS { run0 with verif := 2, reexec := 1 })).sp.getList 0 5 = [2, 0, 0, 0, 1]) := by decide +kernel

/-- INT8 rows of 0x44 (68) times weights of 2 add 136 to each INT32 word of the row (R37, R38, R207). -/
theorem wit_WordProducts : (let r := { run0 with asrc := some { fmt := 0, stride := 128, preg := 0 }, wsrc := some { fmt := 0, stride := 128, preg := 0 }, wb0 := bank0 }
    let s := seqS r
    s.arrayFenced = false ∧ s.badAt .acc (List.range' 0 16384) = none ∧ Store.wf s.acc = true ∧ (s.ctx 0).share.hasAcc 0 = true ∧ Instr.wf (.runW wf) = true ∧ Instr.wf (.oprk wf) = true ∧
      r.aSource.map ASource.fmt = some 0 ∧ r.useChain = false ∧ r.asrc = some { fmt := 0, stride := 128, preg := 0 } ∧ bank0.full = true ∧
      (got (aRow s r (.sp { fmt := 0, stride := 128, preg := 0 }) 0 0 1)).map (fun v => (decide (v.1 = s), v.2.length)) = some (true, 1) ∧
      (got (readRows s r { fmt := 0, stride := 128, preg := 0 } 128 1 0)).map (fun v => decide (v.1 = s)) = some true ∧
      (after (.runW wf) s).acc.get (accIdx 0 0 0) = 0x3F800088) := by decide +kernel

def epi0 : EpiRun := { w := { wf with f0 := 0 }, prog := 0, row := 0, row0 := 0, last := 0, word := 3, x := List.replicate 8 (List.replicate 128 0x40000000) }

def epiS (e : EpiRun) : State := seqS { run0 with epi := some e, p := [0x4000, 0, 0x3F000000, 0, 0, 0, 0, 0] }

/-- Lanes of 2.0: 2 + 2, 2 × 2, the scale 0.5 of p2, and the sum of 128 lanes (R218 to R221). -/
theorem wit_EpilogueLanes : (let s := epiS epi0
    let lane := fun (i : Instr) => (after i s).run.bind (fun r => r.epi.map (fun e => nth (e.x.getD 1 []) 127))
    s.run.isSome = true ∧ s.badAt .ep (List.range' 0 64) = none ∧ (∀ i ∈ ([.epiAdd { pf with d := 1 }, .epiMul { pf with d := 1 }, .epiFma { pf with d := 1 }, .epiMax pf, .epiMin pf, .relu pf, .epiTbl pf, .epiExp2 pf,
        .epiCvt pf, .scal { pf with f := 2, d := 1 }, .clmp pf, .epiSel pf, .rmax pf, .rsum { pf with d := 1 }] : List Instr), i.wf = true) ∧
      lane (.epiAdd { pf with d := 1 }) = some 0x40800000 ∧ lane (.scal { pf with f := 2, d := 1 }) = some 0x3F800000 ∧
      lane (.rsum { pf with d := 1 }) = some 0x43800000) := by decide +kernel

/-- A DRN that zeroes its rows and one that does not; 512 bytes of tile 0; es0 owned by the sequencer; a row written to tile 1; q2 with eight places free. -/
theorem wit_EpilogueEffects : (let s := epiS epi0
    let z := epiS { epi0 with w := { wf with f1 := 16 } }
    let c := (wrtBytes 0 0 (List.replicate 128 0x40000000)).zipIdx.map (fun q => (0x4000 + q.2, q.1))
    Instr.wf (.epiDone pf) = true ∧ epi0.w.f1.getLsbD 4 = false ∧ ({ wf with f1 := 16 } : WF).f1.getLsbD 4 = true ∧ Store.wf s.acc = true ∧
      (after (.epiDone pf) s).run.map (fun r => (r.word, r.nDrn, r.epi.isSome)) = some (10, 1, false) ∧ (after (.epiDone pf) z).acc = [] ∧
      Instr.wf (.ldb { pf with a := 1 }) = true ∧ (got (s.readReady 0 0 512)).isSome = true ∧
      (after (.ldb { pf with a := 1, d := 1 }) s).run.bind (fun r => r.epi.map (fun e => (nth (e.x.getD 1 []) 31, nth (e.x.getD 1 []) 32))) = some (0x44444444, 0) ∧
      Instr.wf (.epiNrw pf) = true ∧ esOwn ((s.ctx 0).arch.es 0) = 2 ∧ (targetOf (esFmt ((s.ctx 0).arch.es 0))).kbM = none ∧
      ({ epi0 with last := 1 } : EpiRun).row < 1 ∧ (epiS { epi0 with last := 1 }).badAt .acc (List.range' (accIdx 0 1 0) 128) = none ∧
      Instr.wf (.wrt pf) = true ∧ s.tornAt .l2 [] = none ∧ 0x4000 + c.length ≤ 0x180000 ∧ (got (s.fillWrite 0 c)).isSome = true ∧ (after (.wrt pf) s).sp.get 0x4003 = 0x40 ∧
      Instr.wf (.epiPush pf) = true ∧ (s.ctx 0).qs.length = 8 ∧ ((s.ctx 0).qs.getD 2 {}).ents.length ≤ 8 ∧
      (((after (.epiPush pf) s).ctx 0).qs.getD 2 {}).ents.length = 8) := by decide +kernel

/-- The KB form of WRT: es1, owned by the sequencer, with its scale records in page 0, which takes writes, and which does not (R223, R389). -/
theorem wit_EpilogueEffects_blocks : (let s := epiS epi0
    let w := { s with tlb := [{ page0 with wp := true }] }
    let d := (s.ctx 0).arch.es 1
    let m := ((targetOf (esFmt d)).kbM).getD 0
    esOwn d = 2 ∧ (targetOf (esFmt d)).kbM ≠ none ∧ Instr.wf (.wrt { pf with f := 3 + 4 }) = true ∧
      (got (scaleCells s 0 0x100 (2 * (m + 1)) ((List.range 8).map (fun b => (0x4000 + b * (2 * (m + 1)), 0x4000))))).map List.length = some 16 ∧ s.tornAt .l2 (List.range' 0x100 16) = none ∧
      (match scaleCells w 0 0x100 (2 * (m + 1)) ((List.range 8).map (fun b => (0x4000 + b * (2 * (m + 1)), 0x4000))) with
        | .wait => true
        | _ => false) = true) := by decide +kernel

/-- A machine-mode hart with 4 KiB at x10 and a count of 1 in x11, one in user mode, and reserved bits that are set (R261). -/
theorem wit_HartInvalidations : (let s := { State.reset with hart := { x := [(10, 0x1000), (11, 1), (12, 0x100_0000_0000)], pc := 0x80 } }
    let u := { State.reset with hart := { priv := 0, pc := 0x80 } }
    let b := ({ s with invals := [{ va := 0, asid := 0, level := 0, count := 1, pending := [.compute] }] } : State)
    s.hart.priv ≠ 0 ∧ fld (s.hart.xr 11) 40 6 = 0 ∧ (after (.htlbi ⟨11, 10, 0⟩) s).invals.map (fun i => (i.va, i.count)) = [(0x1000, 1)] ∧ s.invalDone false = true ∧
      (after (.htlbf ⟨0, 0, 0⟩) s).hart.pc = 0x84 ∧ b.invalDone false = false ∧ (after (.htlbf ⟨0, 0, 0⟩) b).hart.flushing = true ∧ u.hart.priv = 0 ∧
      (after (.htlbf ⟨0, 0, 0⟩) u).hart.mepc = 0x80 ∧ (after (.htlbf ⟨0, 0, 0⟩) u).hart.priv = 3 ∧ fld (s.hart.xr 12) 40 6 ≠ 0 ∧
      (after (.htlbi ⟨12, 10, 0⟩) s).hart.mcause = 2) := by decide +kernel

/-! ### Ticks, steps, faults, checkpoints and traps -/

/-- A bundle at address 0 with an ADD in its A slot (template bit 15) under guard `g`, its second syllable with the stop bit (R72 to R74, R94). -/
def codeS (g : Nat) (x : Context) : State := { with0 x with mem := Store.putList [] 0 (bytesOf [0x8000, BitVec.ofNat 32 (0x40 + 4 * g), 1]) }

/-- Context 0 at the bundle of `codeS` with header `h`, an entry in q1 and a held store. -/
def issueS (h : W32) (x : Context := ctx7) : State :=
  { with0 { x with q0gen := true, qs := [{}, { ents := [{ e := ⟨5, []⟩, vis := true, due := 0, tok := 0, born := 0 }] }, {}, {}, {}, {}, {}, {}], hold := [{ id := 1, kind := .store, cells := [(0x40, 1)] }] } with
    mem := Store.putList [] 0 (bytesOf [h, 0x40, 1]) }

/-- The bundle as it is encoded, with a pop of q1, and with one repetition more; a context that may not issue; code on no page (R63, R76, R86, R318). -/
theorem wit_TickEnds_issue : (let s := issueS 0x8080
    let r := issueS 0x8004
    let n := issueS 0x8000 { ctx7 with wait := .landing }
    let e := { issueS 0x8000 with tlb := [] }
    s.me.mayIssue = true ∧ s.issueBarred = false ∧ s.yields = false ∧ s.me.arch.rep = 0 ∧ s.me.stopReq = false ∧ s.me.hold.length ≤ 352 ∧ s.me.nextPc = none ∧
      s.me.traceLeft = 0 ∧ s.me.traceArm = none ∧ (s.fetchBundle s.cur 0).toOption.map (fun p => (p.2.pop, p.2.rep, s.me.arch.nullifies p.2)) = some (2, 0, false) ∧
      s.me.share.mayRead 1 = true ∧ s.me.hasHead 1 = true ∧ s.me.q0gen = true ∧
      (s.fetchBundle s.cur 0).toOption.map (fun p => tickOps p.2 (stepLatches p.2 0 s.me.arch.latches)) = some [.add af] ∧ registerOnly (.add af) = true ∧
      (after .bundleIssue s).me.wait = .landing ∧ (after .bundleIssue s).me.succ = 12 ∧ (after .bundleIssue s).me.qLen 1 = 0 ∧ (after .bundleIssue s).me.hdr = 0x8080 ∧
      (after .bundleIssue s).me.arch.landing.map (fun e => (e.due, e.pos, e.act)) = [(0, 1, .s 0 0)] ∧
      (r.fetchBundle r.cur 0).toOption.map (fun p => p.2.rep) = some 1 ∧ (after .bundleIssue r).me.succ = 0 ∧ (after .bundleIssue r).me.succRep = 1 ∧
      n.me.mayIssue = false ∧ after .bundleIssue n = n ∧ e.me.mayIssue = true ∧ (e.fetchBundle e.cur 0).toOption = none ∧ (after .bundleIssue e).me.mode = .ended) := by
  decide +kernel

/-- Two results of the same tick, one of a later tick, and one whose load is awaited (R86 to R88, R107). -/
def tickS (ready : Bool) (w : Wait) : State :=
  with0 { ctx7 with wait := w, succ := 0x40, arch := { s := [(4, 9)], landing := [{ due := 0, pos := 1, act := .s 4 5, ready }, { due := 1, pos := 1, act := .s 5 6 }] } }

theorem wit_TickEnds : (let s := tickS true .landing
    let l := tickS false .landing
    let r := tickS true .returning
    (s.ctx 0).mode = .live ∧ (s.ctx 0).pend = .run ∧ Store.wf (s.ctx 0).arch.s = true ∧ (s.ctx 0).arch.pendingDue (s.ctx 0).tick = false ∧ (s.ctx 0).succRep = 0 ∧
      (s.ctx 0).arch.inLoop = false ∧ (after (.resultLand 0) s).me.arch.rs 4 = 5 ∧ (after (.resultLand 0) s).me.arch.rs 5 = 0 ∧ (after (.resultLand 0) s).me.arch.pc = 0x40 ∧
      (after (.resultLand 0) s).me.tick = 1 ∧ (after (.resultLand 0) s).me.arch.landing.map LandEntry.due = [1] ∧
      (l.ctx 0).arch.pendingDue (l.ctx 0).tick = true ∧ (after (.resultLand 0) l).me.wait = .returning ∧ (r.ctx 0).wait = .returning ∧
      (r.ctx 0).arch.pendingDue 0 = false ∧ (after (.loadReturn 0) r).me.wait = .run) ∧
    (let s := codeS 1 ctx7
     s.me.mayIssue = true ∧ s.issueBarred = false ∧ s.yields = false ∧ s.me.arch.rep = 0 ∧ s.me.arch.inLoop = false ∧
      (s.fetchBundle s.cur 0).toOption.map (fun p => (p.2.len, s.me.arch.nullifies p.2)) = some (3, true) ∧ (after .bundleSkip s).me.arch.pc = 12) ∧
    (let s := { with0 { ctx7 with wait := .ending } with c2 := { ctx7 with cls := 3 }, c3 := { ctx7 with cls := 1 } }
     s.switches = true ∧ s.nextCtx = some 3 ∧ (after .contextSwitch s).cur = 3 ∧ (with0 ctx7).nextCtx = none) := by decide +kernel

theorem wit_TickEnds_switch : ∀ c idx live, ((with0 { ctx7 with wait := .ending }).ctx c).wait ≠ .nodePeers idx live := by
  have h : ∀ c, ((with0 { ctx7 with wait := .ending }).ctx c).wait = .ending ∨ ((with0 { ctx7 with wait := .ending }).ctx c).wait = .run := by decide +kernel
  intro c idx live e
  rcases h c with h | h <;> rw [e] at h <;> cases h

/-- Whether an outcome is a next state. -/
def isNext (o : Out) : Bool :=
  match o with
  | .next _ => true
  | _ => false

theorem next_after {i : Instr} {s : State} (h : isNext (exec i s) = true) : exec i s = .next (after i s) := by
  unfold after
  cases e : exec i s <;> simp_all [isNext]

/-- The event, the hart's HTLBF, the words MUNOP and DONE, and the bundle of `codeS`, each as the next step runs it. -/
theorem wit_StepRunsDecoded : (let s := { State.reset with agenda := [.holdRelease] }
    s.turn = .any ∧ s.agenda = .holdRelease :: []) ∧
    (let s := { State.reset with turn := .hart, mem := Store.putList [] 0 (bytesOf [0x0000100B]) }
     s.turn = .hart ∧ decodeMgmt (BitVec.ofNat 32 (ofLe (s.mem.getList s.hart.pc.toNat 4))) = some (.htlbf ⟨0, 0, 0⟩)) ∧
    (let r := { run0 with word := 8191 }
     r.ended = false ∧ r.epi = none ∧ r.word < 8192 ∧ (seqS r).badAt .mu [r.word] = none ∧ (epiS epi0).badAt .ep [64 * epi0.prog + epi0.word] = none ∧ decodeWord ((seqS r).muWord r.word) = some (.munop wf) ∧
      decodeEpi ((epiS epi0).epWord (64 * epi0.prog + epi0.word)) = some (.epiDone pf) ∧ epi0.word < 64) ∧
    (let u := codeS 0 ctx7
     let b := (u.fetchBundle u.cur u.me.arch.pc).toOption
     u.me.mayIssue = true ∧ u.issueBarred = false ∧ u.yields = false ∧ b.map (fun p => (p.1, u.me.arch.nullifies p.2, p.2.pop, tickOps p.2 (stepLatches p.2 0 u.me.arch.latches))) =
        some ([0x8000, 0x40, 1], false, 0, [.add af]) ∧ u.me.stopReq = false ∧ u.me.hold.length ≤ 352) := by decide +kernel

theorem wit_StepRunsDecoded_runs : ∃ t, RunsAll [.add af] { codeS 0 ctx7 with casc := [] } t :=
  ⟨_, _, next_after (by decide +kernel), by decide +kernel, by decide +kernel, rfl⟩

/-- The tick of that bundle, by `step` itself: s0 := s0 + s0 lands at its end. -/
theorem test_step_add : (match step { codeS 0 { ctx7 with arch := { s := [(0, 3)] } } with turn := .core } with
    | .next t => (t.me.wait, t.me.arch.landing.map LandEntry.act)
    | _ => (.run, [])) = (.landing, [.s 0 6]) := by decide +kernel

theorem wit_HardwiredRegisters : Guarded af.g alu ∧ af.d = 0 ∧ Guarded sf.g alu ∧ sf.f 18 4 = 0 ∧ Store.wf alu.me.arch.k = true ∧ (0 < 15 ∧ 15 < 16) ∧
    (({} : Arch).apply (.g 0xFFFF 0)).rg 0 = true ∧ (({} : Arch).apply (.k 15 (BitVec.allOnes 128) 5)).rk 15 = 5 ∧
    (({} : Arch).apply (.k 0 (BitVec.allOnes 128) 5)).rk 0 = BitVec.allOnes 128 := by
  unfold Guarded; decide +kernel

/-- Two contexts of launch 7 and one of launch 8; a launch with a fault already. -/
def faultS : State := { with0 ctx7 with c1 := { ctx7 with mode := .stopped, hold := [{ id := 1, kind := .store }] }, c2 := { ctx7 with lid := 8 } }

theorem wit_FirstFatalFault : faultS.launchOf 7 = some launch7 ∧ launch7.fault = none ∧ (faultS.ctx 1).lid = 7 ∧ (faultS.ctx 1).mode ≠ .free ∧ (faultS.ctx 2).lid ≠ 7 ∧ faultS.run = none ∧
    ((faultS.fatal 0 0x14 0x40 0).launchOf 7).map (fun l => l.fault.map FaultRec.code) = some (some 0x14) ∧ ((faultS.fatal 0 0x14 0x40 0).ctx 1).mode = .ended ∧
    (let l := { launch7 with fault := some { code := 5, coord := 0, bundle := 0, cmd := 0, gtb := 0 } }
     let s := { faultS with launches := [l] }
     s.launchOf 7 = some l ∧ l.fault ≠ none ∧ s.fatal 0 0x14 0 0 = s) ∧
    (let l := { launch7 with fault := some { code := 5, coord := 1, bundle := 0, cmd := 0, gtb := 0 } }
     let s := { faultS with launches := [l] }
     s.launchOf 7 = some l ∧ s.gtb = 0 ∧ ((s.fatal 0 0x14 0 0).launchOf 7).map (fun l => l.fault.map FaultRec.code) = some (some 0x14) ∧
      (({ s with gtb := 1 } : State).fatal 0 0x14 0 0) = { s with gtb := 1 }) := by decide +kernel

/-- A context with a held store, and a provisional and a committed call; a stopped context (R315, R320, R427, R443). -/
def trapS : State := with0 { ctx7 with hold := [{ id := 1, kind := .store, cells := [(0x40, 1)] }], calls := [{ call0 with committed := true }, call0], arch := { s := [(1, 5)] } }

theorem wit_CheckpointsAndTraps : (trapS.ctx 0).mode = .live ∧ (trapS.ctx 0).wait.idle = true ∧ (trapS.ctx 0).wait ≠ .sstepHasp ∧ (trapS.ctx 0).ckptDue = false ∧
    (∀ i, i < 4 → esOwn ((trapS.ctx 0).shadow.es i) ≠ 2) ∧
    ((trapS.checkpoint 0).ctx 0).queue.map Acc.id = [1] ∧ ((trapS.checkpoint 0).ctx 0).calls.map Call.committed = [true, true] ∧
    ((after (.trapRestore 0) trapS).ctx 0).calls.map Call.committed = [true] ∧ ((after (.trapRestore 0) trapS).ctx 0).hold = [] ∧
    ((after (.trapRestore 0) trapS).ctx 0).arch.rs 1 = 0 ∧ trapS.ticking = false ∧ ((after (.parityTrap 0 { shadowBad := false }) trapS).ctx 0).hold = [] ∧ ((after (.parityTrap 0 { shadowBad := true }) trapS).ctx 0).mode = .ended ∧
    (faultS.ctx 1).mode = .stopped ∧ ((after (.debuggerResume 1) faultS).ctx 1).mode = .live ∧ ((after (.debuggerStop 0) faultS).ctx 0).stopReq = true ∧
    ((after (.preemptionOrder 0) trapS).ctx 0).preReq = true := by decide +kernel

/-- A parity fault without a log, with one, and with a full one; a trap with atomics served and a tile operation done (R121, R433, R435). -/
theorem wit_CheckpointsAndTraps_log : (let p := fun (b : Bool) => Instr.parityTrap 0 { shadowBad := b }
    let l := { trapS with mreg := Store.put (Store.put resetRegs 0x1048 0x6000) 0x1050 1 }
    let f := { l with mreg := Store.put l.mreg 0x1050 1024 }
    trapS.away = [] ∧ Store.wf l.mreg = true ∧ trapS.reg 0x1048 = 0 ∧ (after (p false) trapS).reg 0x1058 = 1 ∧ l.reg 0x1048 ≠ 0 ∧ fld (l.reg 0x1050 - l.reg 0x1054) 0 32 ≠ 1024 ∧
      (after (p false) l).reg 0x1050 = 2 ∧ (after (p false) l).mem.get 0x6020 = 7 ∧ fld (f.reg 0x1050 - f.reg 0x1054) 0 32 = 1024 ∧ (after (p true) f).reg 0x1058 = 1 ∧
      faultOf (p true) f = some 0x0D ∧
      (let r := with0 { ctx7 with atoms := [(3, some 4)], replay := [(5, none)], tileDone := 1, tileSkip := 1 }
       ((after (.trapRestore 0) r).ctx 0).replay = [(3, some 4), (5, none)] ∧ ((after (.trapRestore 0) r).ctx 0).tileSkip = 2)) := by decide +kernel

/-- Context 1 waits on semaphore 3 for 1,023; on one whose latch is set; for barriers 1 and 0, released; and at an SSTEP. -/
def waitS (w : Wait) : State :=
  { with0 ctx7 with c1 := { ctx7 with wait := w }, semVal := [(3, 1023)], semLatch := [(4, 1)], semCode := [(4, 0x7)], hasps := [(1, { members := 2, phase := 3 }), (71, { members := 1, rel := 9 })] }

theorem wit_WaitEnds : (∀ n t' a s', ((waitS (.swait 3 1023 true false)).ctx 0).wait ≠ .swait n t' a s') ∧
    ((waitS (.swait 3 1023 true false)).ctx 1).mode = .live ∧ ((waitS (.swait 3 1023 true false)).ctx 1).wait = .swait 3 1023 true false := by
  refine ⟨?_, by decide +kernel, by decide +kernel⟩
  intro n t a s h
  exact absurd (h.symm.trans (show ((waitS (.swait 3 1023 true false)).ctx 0).wait = .run by decide +kernel)) nofun

theorem wit_WaitEnds_values : (let s := waitS (.swait 3 1023 true false)
    let f := waitS (.swait 4 1 false false)
    let b := waitS (.barw 1 2)
    let a := waitS (.bara 1 2)
    let t := waitS .sstepHasp
    let u := { waitS .sstepHasp with hasps := [(71, { far := true, members := 1, arrived := 2 })] }
    s.semLatched 3 = false ∧ 1023 ≤ (s.semVal.get 3).toNat ∧ (after (.semWaitSatisfied 3) s).semVal.get 3 = 0 ∧ ((after (.semWaitSatisfied 3) s).ctx 1).wait = .run ∧
      f.semLatched 4 = true ∧ ((after (.semWaitSatisfied 4) f).launchOf 7).map (fun l => l.fault.map FaultRec.code) = some (some 7) ∧
      (b.ctx 1).wait = .barw 1 2 ∧ (b.hasp 1).far = false ∧ (b.hasp 1).phase ≠ 2 ∧ ((after (.haspReleaseDelivery 1) b).ctx 1).wait = .run ∧
      ((after (.haspReleaseDelivery 1) a).hasp 1).arrived = 2 ∧ (t.hasp 71).far = false ∧ (t.hasp 71).has 1 = false ∧
      ((after (.haspReleaseDelivery 1) t).ctx 1).arch.trel = 9 ∧ (u.hasp 71).far = true ∧ (u.hasp 71).full = true ∧
      ((after (.haspReleaseDelivery 1) u).ctx 1).wait = .run ∧ ((after .gtbTargetReached (waitS (.waitt 0))).ctx 1).wait = .run) := by decide +kernel

/-- A released SSIG that reaches 65,535 and one that would pass it, an `ssig.clr`, a FENCE that waits for nothing any more, entries of q4 and q1. -/
theorem wit_SignalsAndEntries : (let sig := fun (n : Nat) (k : AccKind) => ({ with0 { ctx7 with queue := [{ id := 1, kind := k, sem := 5, inc := n, bundle := 0x40 }] } with semVal := [(5, 65530)], semLatch := [(5, 1)] } : State)
    let s := sig 5 .ssig
    let t := sig 6 .ssig
    let u := sig 0 .ssigClr
    s.relPending 0 1 0xFFFF 5 = false ∧ (s.semVal.get 5).toNat + 5 ≤ 65535 ∧ (after (.ssigSignal 0) s).semVal.get 5 = 65535 ∧
      65535 < (t.semVal.get 5).toNat + 6 ∧ ((after (.ssigSignal 0) t).launchOf 7).map (fun l => l.fault.map FaultRec.bundle) = some (some 0x40) ∧
      (after (.ssigSignal 0) u).semLatched 5 = false) ∧
    (let s := { codeS 0 { ctx7 with wait := .stall 4 } with cur := 0 }
     (s.ctx 0).wait = .stall 4 ∧ (s.issueBundle.ctx 0).wait ≠ .stall 4 ∧ ((after (.releaseComplete 0) s).ctx 0).wait = .run) ∧
    (let s := with0 { ctx7 with share := { all with qbind := [2, 1, 1, 1] }, out := [{ q := 4, e := ⟨1, []⟩ }], qs := [{}, { ents := [{ e := ⟨1, []⟩, vis := false, due := 0, tok := 9, born := 0, need := some 1, ans := [(0, 6)] }] }, {}, {}, {}, {}, {}, {}] }
     (s.ctx 0).share.mayRead 4 = true ∧ 2 ≤ (s.ctx 0).share.kind 4 ∧ (s.ctx 0).qLen 4 < 16 ∧ (s.ctx 0).qs.length = 8 ∧
      (((after (.queueEntryVisible 0 4 (some ⟨3, []⟩)) s).ctx 0).qs.getD 4 {}).ents.map (fun e => e.e.mask) = [3] ∧
      ((after (.queueEntryVisible 0 4 none) s).ctx 0).out = [] ∧
      (((after (.skqryAnswer 0) s).ctx 0).qs.getD 1 {}).ents.map (fun e => (e.vis, e.e.lanes.head?)) = [(true, some 0x40C00000)]) := by decide +kernel

/-! ### The ordering machine and the banks -/

/-- A store, a scratchpad store, an AMO and a load, alone in the queue of context 0; bytes at a core, a cluster and a die station. -/
def ordS (a : Acc) : State := { with0 { ctx7 with queue := [a], arch := { landing := [{ due := 3, pos := 1, tok := 1, ready := false, act := .nothing }] } } with mem := [(0x40, 1), (0x41, 2)], sp := [(0x80, 6)] }

theorem wit_OrderingSteps_enter : (let st : Acc := { id := 1, kind := .store, cells := [(0x40, 9)] }
    let sp : Acc := { id := 1, kind := .store, sp := true, cells := [(0x80, 7), (0x90, 8)] }
    let am : Acc := { id := 1, kind := .amo, addrs := [0x40], width := 4 }
    let ld : Acc := { id := 1, kind := .load, addrs := [0x40, 0x41], dst := .s 5 2 true }
    (∀ a ∈ [st, sp, am], (ordS a).headOf 0 a = true ∧ (ordS a).relHolds 0 a = false ∧ (ordS a).sameByteBefore 0 a = false ∧ a.wp = false) ∧ (st.cells.map Prod.fst).Nodup ∧
      st.route = 0 ∧ st.rel = false ∧ (ordS st).underTest .l1 = false ∧ (ordS st).l1Torn (st.cells.map Prod.fst) = none ∧ (ordS st).heldBelow (ordS st).entryLevel (st.bytesAt 0 st.cells) = false ∧ (ordS st).remote 0x40 = false ∧
      (after (.storePerform 0 1) (ordS st)).stCore.map (fun b => (b.pa, b.val, b.dirty)) = [(0x40, 9, true)] ∧
      (after (.storePerform 0 1) { ordS st with fused := true }).stCluster.map (fun b => (b.pa, b.val, b.dirty)) = [(0x40, 9, true)] ∧
      (ordS am).flushable am.lines = true ∧ (ordS am).bad = [] ∧ (after (.storePerform 0 1) (ordS st)).readFrom 0 0x40 = 9 ∧ (after (.storePerform 0 1) (ordS st)).mem.get 0x40 = 1 ∧
      (after (.storePerform 0 1) (ordS sp)).bankQ.flatMap (fun r => r.acc.cells) = [(0x80, 7), (0x90, 8)] ∧ (after (.storePerform 0 1) (ordS am)).homeQ.map HomeOp.id = [1] ∧
      (ordS ld).headOf 0 ld = true ∧ (∀ b ∈ ld.addrs, (ordS ld).onItsWay 0 false 1 b = false ∧ ((ordS ld).ctx 0).ownOf ld b = none ∧ (ordS ld).remote b = false) ∧ ld.route = 0 ∧ ld.acq = false ∧ (ordS ld).readsWhole 0 ld = true ∧
      (ordS ld).loadFenced 0 ld = false ∧ (ordS ld).loadBad 0 ld = none ∧
      (after (.loadStep 0 1) (ordS ld)).me.arch.landing.map LandEntry.act = [.s 5 0x201]) := by decide +kernel

def stB : StByte := { pa := 0x40, val := 9, dirty := true, ctx := 0, id := 3, cls := 0 }

theorem wit_OrderingSteps_stations : (let s : State := { State.reset with stCore := [stB], mem := [(0x40, 1)] }
    let d : State := { State.reset with stDie := [stB, { stB with pa := 0x41, dirty := false }], mem := [(0x40, 1), (0x41, 9)] }
    s.heldBelow 2 (movesWith s.stCore (s.stCore.filter (fun b => b.dirty && b.name == stB.name))) = false ∧ (s.stCore.map StByte.pa).Nodup ∧ s.underTest .l1 = false ∧ (after (.propagateStep .core stB.name) s).stCluster.map StByte.val = [9] ∧
      d.heldBelow 4 (movesWith d.stDie (d.stDie.filter (fun b => b.dirty && b.name == stB.name))) = false ∧ d.homeHeld [0x40] = false ∧ (d.stDie.map StByte.pa).Nodup ∧ d.bad = [] ∧ Memory.wf d.mem = true ∧
      (after (.propagateStep .die stB.name) d).mem.get 0x40 = 9 ∧ (after (.propagateStep .die stB.name) d).mem.get 0x41 = 9 ∧
      s.remote 0x47 = false ∧ s.homeFenced 0x47 = false ∧ paRegion 0x47 = 0 ∧ s.strmOn 0x47 = false ∧ s.fused = false ∧ (after (.fillStep .die 0x47) s).stDie.map (fun b => (b.pa, b.dirty)) = [(0x47, false)] ∧
      (after (.fillStep .cluster 0x41) d).stCluster.map (fun b => (b.pa, b.val)) = [(0x41, 9)] ∧
      (after (.fillStep .core 0x41) (after (.fillStep .cluster 0x41) d)).stCore.map (fun b => (b.pa, b.val)) = [(0x41, 9)] ∧
      (after (.dropStep .core 0x40) s).stCore = [stB] ∧ (after (.dropStep .die 0x41) d).stDie.map StByte.dirty = [true]) := by decide +kernel

/-- An AMO add of 1 to 0x201 at home (operation 1 of R118), one request at bank 2, and a peer's at the same bank (R266). -/
theorem wit_OrderingSteps_home : (let h : HomeOp := { id := 1, ctx := 0, acc := { id := 1, kind := .amo, op := 1, addrs := [0x40, 0x41, 0x42, 0x43], width := 4, operand := 1, dst := .s 5 4 true } }
    let r : BankReq := { bank := 2, rank := 0, ctx := 0, acc := { id := 1, kind := .store, sp := true, cells := [(0x80, 7)] } }
    let s : State := { ordS { id := 9, kind := .load } with homeQ := [h], bankQ := [r] }
    let p : PeerReq := { x := 23, lid := 7, coord := 0, bundle := 0, cmd := 0, counted := false, acc := 0, cells := [(0x80, 7)], elts := [] }
    h.id < 2 ^ 64 ∧ s.mayServe h = true ∧ s.homeHeld h.bytes = false ∧ s.homeBad h = none ∧ h.acc.addrs = byteAddrs 0x40 4 ∧ h.acc.sr = false ∧ h.acc.acq = false ∧ Memory.wf s.mem = true ∧ s.bankNext 2 = [r] ∧ s.unitFenced .spBank 2 = false ∧
      s.bankBad r = none ∧ r.acc.counted = false ∧ s.peerOk (bankOf 0x80) p = true ∧ bankOf 0x80 = 2 ∧ (after (.bankAccess { bank := 2, peer := some (.request p) }) s).bankQ.map (fun r => (r.bank, r.rank)) = [(2, 0), (2, 31)] ∧
      Store.wf s.sp = true ∧ (after (.homeServe 1) s).homeQ = [] ∧ (after (.homeServe 1) s).memNat 0x40 4 = 0x202 ∧
      (after (.homeServe 1) s).me.arch.landing.map LandEntry.act = [.s 5 0x201] ∧ (after (.bankAccess { bank := 2 }) s).sp.get 0x80 = 7 ∧ (after (.bankAccess { bank := 2 }) s).bankQ = []) := by decide +kernel

/-! ### Engines, calls, collectives and groups -/

def cp1 : Cmd := { quiet4 with id := 2, eng := .copy, op := 1, committed := true, desc := desc [(0, 8, 0x40), (8, 8, 0x80), (0x10, 4, 2), (0x14, 4, 1), (0x18, 4, 1), (0x5E, 2, 2)] }
def engS (k : Cmd) : State := { with0 { ctx7 with cmds := [k] } with semVal := [(3, 15)], semLatch := [(4, 1)], semCode := [(4, 7)], mem := [(0x40, 5), (0x41, 6)] }

/-- A SKZERO of a sketch with 3 rows of 1,024 counters, whose header stands at 0x40. -/
def skzK : Cmd := { quiet4 with id := 5, eng := .sketch, op := 7, committed := true, desc := desc [(0, 8, 0x40)] }
def skzS : State := { engS skzK with mem := Store.putList [] 0x48 [3, 10] }

/-- The command has its wait and what it must follow behind it; then every counter before it (R245, R393). -/
theorem wit_EngineStarts_sketch : (skzS.ctx 0).cmds.find? (fun k => k.eng == .sketch && k.timed == false && !k.started) = some skzK ∧ skzS.commitDone 0 skzK = true ∧ skzK.ef.thr = 0 ∧
    (skzS.cmdHead 0 .both 0x40).toOption.map (fun p => (p.1.d, p.1.k, p.2)) = some (3, 10, 0x40) ∧
    ((after (.commandStart 0 .sketch false) skzS).ctx 0).cmds.map (fun k => k.todo.length) = [3072] := by decide +kernel

/-- A COPY from memory to the scratchpad that waits for 15 on semaphore 3, a timed one that is due, and one whose semaphore is latched (R225, R232). -/
theorem wit_EngineStarts_start : (let k := { cp1 with ef := { ef with thr := 15, wsem := 3 } }
    let t := { k with timed := true, ef := { k.ef with toff := 0 } }
    let l := { k with ef := { ef with thr := 1, wsem := 4 } }
    let starts := fun (k : Cmd) => (engS k).commitDone 0 k = true ∧ (engS k).copyTiles k = true ∧ ((engS k).ctx 0).cmds.find? (fun j => j.eng == .copy && j.timed == k.timed && !j.started) = some k
    starts k ∧ starts t ∧ starts l ∧ k.committed = true ∧ t.trel.toNat + t.ef.toff.toNat ≤ (engS t).gtb.toNat ∧ (engS k).semLatched 3 = false ∧ Store.wf (engS k).semVal = true ∧
      15 ≤ ((engS k).semVal.get 3).toNat ∧ (engS k).myTurn 0 k = true ∧ (after (.commandStart 0 .copy false) (engS k)).semVal.get 3 = 0 ∧
      ((after (.commandStart 0 .copy true) (engS t)).ctx 0).cmds.map Cmd.started = [true] ∧ (engS l).semLatched 4 = true ∧
      ((after (.commandStart 0 .copy false) (engS l)).launchOf 7).map (fun l => l.fault.map FaultRec.code) = some (some 7)) := by decide +kernel

/-- One byte of a COPY, the last word of the microprogram store, the last word of the epilogue store, and a block of zeros (R236, R240, R246). -/
theorem wit_EngineStarts_elements : (let k := { cp1 with started := true }
    let u := { k with eng := .copy, op := 8, desc := desc [(0, 8, 0x40), (8, 2, 8191), (10, 2, 1)] }
    let p := { k with eng := .copy, op := 9, desc := desc [(0, 8, 0x40), (8, 2, 511), (10, 2, 1)] }
    let w := { k with eng := .weight, op := 2, desc := desc [(0, 8, 0x1000), (0x10, 4, 1)] }
    cpAcc k.desc = 0 ∧ cpFlag k.desc 3 = false ∧ k.old = [] ∧ ((engS k).place 0 false false .read 0x40 1).toOption.map (fun p => (p.sp, p.addrs, (engS k).placeFenced p, (engS k).placeBad p false == none)) = some (false, [0x40], false, true) ∧
      ((engS k).place 0 true false .write 0x80 1).toOption.map (fun p => (p.sp, p.addrs, p.wp, (engS k).placeFenced p, (engS k).placeBad p true == none)) = some (true, [0x80], false, false, true) ∧
      (after (.copyElement 0 2) (engS k)).sp = [(0x80, 5)] ∧ ((engS u).place 0 false false .read 0x40 8).toOption.isSome = true ∧
      (after (.copyElement 0 2) (engS u)).muWord 8191 = 0x605 ∧ (after (.copyElement 0 2) (engS p)).epWord 511 = 0x605 ∧
      ((engS w).units 0 ((rawSize 0 1 + 127) / 128) 0x1000).toOption.map List.length = some 128 ∧ ((engS w).ctx 0).wbuf.length < 2 ∧
      ((after (.weightBlockDeliver 0) (engS w)).ctx 0).wbuf.map (fun b => (b.k, b.bytes.length)) = [(1, 128)]) := by decide +kernel

/-- A COLL of four members that sums, and one of eight that gathers along its first axis; their first chunks are both for ring distance 1,
and this core's context is rank 0. Every digest has come, and a permit for the first chunk. -/
def coll0 (part shard nax : Nat) : Cmd :=
  let k : Cmd := { quiet4 with
    id := 3, eng := .coll, op := 3, started := true, committed := true
    desc := desc [(4, 1, 1), (5, 1, nax), (8, 4, 16), (0x18, 2, 4), (0x1A, 2, 2), (0x20, 1, shard), (0x24, 1, part), (0x30, 8, 0x4000), (0x38, 8, 0x8000), (0x41, 1, 1), (0x42, 1, 1)]
    coll := { members := (List.range (if nax = 1 then 4 else 8)).map (BitVec.ofNat 28), entered := true, weight := 2, maxf := 1, permits := [(1, 0)] } }
  { k with coll := { k.coll with got := (List.range 8).map (fun r => (r, k.digest)) } }

/-- Blocks of the stream that nothing holds back, and a COLL that starts with its chunks to count (R240, R405, R429). -/
theorem wit_EngineStarts_blocks : (let w := { cp1 with started := true, eng := .weight, op := 2, desc := desc [(0, 8, 0x1000), (0x10, 4, 1)] }
    let k := { coll0 1 0 1 with started := false, coll := {} }
    let s := { engS k with
      mem := Store.putList (Store.putList [] 0x2000 [1, 0, 0, 0, 0, 0, 0, 3, 0, 0, 0x21]) 0x2100 ((List.range 4).flatMap (leBytes 8)), mreg := resetRegs.put regCOMMBASE 0x2000 }
    (engS w).streamHeld 0 ((rawSize 0 1 + 127) / 128) 0x1000 = false ∧ s.commitDone 0 k = true ∧ s.copyTiles k = true ∧ s.myTurn 0 k = true ∧ s.collChunks 0 k = 6 ∧
      ((after (.commandStart 0 .coll false) s).ctx 0).cmds.map (fun k => (k.started, k.coll.left)) = [(true, 6)]) := by decide +kernel

/-- A signal that reaches 65,535 and one that would pass it; an EQUIET with nothing before it; a COPY out of a DRAINING tile (R233, R238, R247). -/
theorem wit_CompletionSteps_commands : (let k := { cp1 with finished := true, started := true, ef := { ef with sig := 3, inc := 15 } }
    let s := { engS k with semVal := [(3, 65520)] }
    let t := { engS k with semVal := [(3, 65521)] }
    let q := { quiet4 with started := true }
    let d := { k with desc := desc [(0x10, 4, 1), (0x5B, 1, 1), (0x5E, 2, 4 + 16)] }
    let u := { engS d with tiles := [(1, { state := 3 })] }
    (s.ctx 0).wait = .run ∧ Store.wf s.semVal = true ∧ (s.semVal.get 3).toNat + 15 ≤ 65535 ∧ (after (.commandComplete 0 2) s).semVal.get 3 = 65535 ∧
      65535 < (t.semVal.get 3).toNat + 15 ∧ ((after (.commandComplete 0 2) t).launchOf 7).map (fun l => l.fault.map FaultRec.code) = some (some 0x14) ∧
      (engS (coll0 1 0 1)).allCommitted (coll0 1 0 1) = true ∧ (engS q).quietDone 0 q = true ∧ ((after (.commandComplete 0 0) (engS q)).ctx 0).cmds = [] ∧
      cpFlag d.desc 2 = true ∧ cpFlag d.desc 4 = true ∧ cpCount d.desc ≠ 0 ∧ (u.tile (u.tileKey (cpStile d.desc))).state = 3 ∧ (u.tile (u.tileKey (cpStile d.desc))).freeing = false ∧ ((after (.commandComplete 0 2) u).tile 1).state = 0) := by decide +kernel

/-- A sketch command whose SAT is still on its way home, and one whose is not (R399). -/
theorem wit_CompletionSteps_sketch : (let k := { skzK with started := true, finished := true }
    let h : HomeOp := { id := 1, ctx := 0, acc := { id := satId 0, kind := .skupd, op := 3 } }
    (engS k).satDue 0 k = false ∧ ({ engS k with homeQ := [h] } : State).satDue 0 k = true ∧ (after (.commandComplete 0 5) (engS k)).me.cmds = [] ∧
      (after (.commandComplete 0 5) { engS k with homeQ := [h] }).me.cmds = [k]) := by decide +kernel

/-- A call that waits for and takes 15 of semaphore 3 and enters at word 8191; one that has ended; a TFREE's tile; a limit of 1,024 that has passed. -/
theorem wit_CompletionSteps_calls : (let m7 : W64 := 3 + 15 * 256
    let k := { call0 with committed := true, m := [0, 0, 0, 0, 0, 0, 0, m7], routine := 255 }
    let s := { with0 { ctx7 with calls := [k] } with mu := [(255, 8191)], semVal := [(3, 15)] }
    let e := seqS { run0 with ended := true, flags := 4, call := { call0 with m := [0, 0, 0, 0, 0, 0, 0, 5 * 4096 + 15 * 2 ^ 20] } }
    let d := { with0 ctx7 with tiles := [(1, { state := 3, freeing := true })] }
    s.run = none ∧ s.selectCtx = some 0 ∧ callWaitFault s (s.ctx 0) k = none ∧ callStartFault s (s.ctx 0) k = none ∧ s.badAt .mu [255] = none ∧ s.entryOf 255 = some 8191 ∧ (after .callSelect s).run.map (fun r => r.word) = some 8191 ∧
      (after .callSelect s).semVal.get 3 = 0 ∧ (e.ctx 0).wait = .run ∧ (e.semVal.get 5).toNat + 15 ≤ 65535 ∧ (after .callComplete e).semVal.get 5 = 65535 ∧
      (after .callComplete e).me.arch.fsr = 4 ∧ (after .callComplete e).run = none ∧
      (d.tile (d.tileKey 1)).freeing = true ∧ d.freeHeld (d.tile 1) (d.tileKey 1) = false ∧ ((after (.tileDrainComplete 1) d).tile 1).state = 0) := by decide +kernel

theorem wit_CompletionSteps_limit : (let l := { launch7 with desc := desc [(0x78, 2, 1)] }
    let b := { codeS 0 { ctx7 with wait := .stall 1, stallSince := some 0 } with launches := [l], gtb := 1024, mem := Store.putList [] 0 (bytesOf [0x8000, 0x700, 1]), tiles := [(0, { state := 1 })] }
    let k := { cp1 with since := some 0, desc := desc [(0x10, 4, 1), (0x5B, 1, 1), (0x5E, 2, 4)] }
    let c := { engS k with launches := [l], gtb := 1024, tiles := [(1, { state := 1 })] }
    b.tileLimit 0 = 1024 ∧ b.tileLimit 0 ≤ b.stallClock - 0 ∧ c.tileLimit 0 ≤ c.stallClock - 0 ∧ (b.ctx 0).mode = .live ∧ ({ b with cur := 0 }.issueBundle.ctx 0).wait = .stall 1 ∧
      ((after (.tileStallTimeout (.bundle 0)) b).launchOf 7).map (fun l => l.fault.map FaultRec.code) = some (some 8) ∧
      (c.ctx 0).cmd 2 = some k ∧ c.cmdStillWaits k = true ∧ ((after (.tileStallTimeout (.command 0 2)) c).launchOf 7).map (fun l => l.fault.map FaultRec.code) = some (some 8)) := by decide +kernel

/-- A microprogram word that waits for tile 1 to be READY (an LDB of a DRN would, too). -/
theorem wit_CompletionSteps_call_limit : (let r := { run0 with stallSince := some 0, wsrc := some { fmt := 0, stride := 128, preg := 0 }, word := 256, p := [0x4000] }
    let s := { seqS r with launches := [{ launch7 with desc := desc [(0x78, 2, 1)] }], gtb := 1024, mu := [(256, 2)] }
    s.tileLimit r.ctx ≤ s.stallClock - 0 ∧ s.callStillWaits r = true ∧ ((after (.tileStallTimeout .call) s).launchOf 7).map (fun l => l.fault.map FaultRec.code) = some (some 8)) := by decide +kernel

def collS (k : Cmd) : State := { engS k with tiles := [(1, { size := 4096 })], sp := [] }

/-- The same before its COLL has begun, with its communicator's table entry and member list (R327, R404). -/
def beginS : State :=
  { collS { coll0 1 0 1 with coll := {} } with
    mem := Store.putList (Store.putList [] 0x2000 [1, 0, 0, 0, 0, 0, 0, 3, 0, 0, 0x21]) 0x2100 ((List.range 4).flatMap (leBytes 8)), mreg := Store.put resetRegs regCOMMBASE 0x2000 }

def beginK : Cmd := { coll0 1 0 1 with coll := {} }

theorem wit_CollectiveSteps_begin : (beginS.ctx 0).cmd 3 = some beginK ∧ beginS.wire = [] ∧
    (beginS.ctx 0).cmds.find? (fun j => j.eng == .coll && Engine.coll == .coll && j.timed == beginK.timed && j.started && !j.finished && j.coll.members.isEmpty) = some beginK ∧
    ((beginS.ctx 0).cmds.map Cmd.order) = [beginK.order] ∧ beginS.chunkTiles beginK = [1] ∧ (beginS.tile 1).state = 0 ∧ (beginS.tile 1).reserved = false := by decide +kernel

theorem wit_CollectiveSteps_table : (beginS.comm (clComm beginK.desc)).map beginS.commMembers = some [0, 1, 2, 3] ∧ (beginS.ctx 0).rankCoord = 0 ∧
    ([1, 2, 3] : List (BitVec 28)).all (fun r => !beginS.hosts r) = true ∧ beginS.lostPkgs = [] ∧
    ({ beginK with coll := { members := [0, 1, 2, 3] } } : Cmd).exchanged = false ∧ beginK.coll.got = [] := by decide +kernel

theorem wit_CollectiveSteps_begun : ((after (.commandStart 0 .coll false) beginS).tile 1).reserved = true ∧
    ((after (.commandStart 0 .coll false) beginS).ctx 0).cmds.map (fun k => k.coll.members) = [[0, 1, 2, 3]] := by decide +kernel

/-- Digests that come before the start, that agree and that differ; a permit, an acknowledgement, and permits granted by each kind of step (R337, R340). -/
theorem wit_CollectiveSteps : (let a := coll0 1 0 1
    let g := coll0 0 3 2
    let x := { a with coll := { a.coll with got := [] } }
    let u := { a with coll := { a.coll with unacked := [1] } }
    ((collS a).ctx 0).cmd 3 = some a ∧ (((collS a).ctx 0).cmds.map Cmd.order).Nodup ∧ (collS a).wire = [] ∧ a.finished = false ∧ a.started = true ∧
      (∀ r, r < 4 → r ≠ 0 → (collS a).hosts (a.member r) = false) ∧ beginS.hosts (beginS.memberOf { a with coll := {} } 1) = false ∧
      ((after (.digest 0 3 ⟨1, 7⟩) beginS).ctx 0).cmds.map (fun k => k.coll.got) = [[(1, 7)]] ∧
      ({ x with coll := { x.coll with got := [(1, x.digest)] } } : Cmd).exchanged = false ∧
      ((after (.digest 0 3 ⟨1, x.digest⟩) (collS x)).ctx 0).cmds.map (fun k => k.coll.got) = [[(1, x.digest)]] ∧ x.coll.members ≠ [] ∧ x.digest + 1 ≠ x.digest ∧
      ((after (.digest 0 3 ⟨1, x.digest + 1⟩) (collS x)).launchOf 7).map (fun l => l.fault.map FaultRec.code) = some (some 9) ∧
      ((after (.sendPermit 0 3 (.permit 3 2)) (collS a)).ctx 0).cmds.map (fun k => k.coll.permits) = [[(1, 0), (3, 2)]] ∧
      ((after (.sendPermit 0 3 (.ack 1)) (collS u)).ctx 0).cmds.map (fun k => k.coll.unacked) = [[]] ∧
      a.reduces = true ∧ g.reduces = false ∧ a.coll.entered = true ∧ (collS a).withheld 0 = false ∧ a.recvs[0]?.map (fun h => (h.s, h.keys.length)) = some (1, 4) ∧
      (a.recvs[0]?.map (fun h => (collS a).hosts (a.member (a.recvPeer 0 h)))) = some false ∧ (g.recvs[0]?.map (fun h => (collS g).hosts (g.member (g.recvPeer 0 h)))) = some false ∧
      (g.recvs[0]?.map (fun h => (collS g).destFree g h.keys)) = some true ∧
      ((collS a).tile ((collS a).chunkTile a 0)).state = 0 ∧ clRop a.desc ≠ 2 ∧ ((after (.sendPermit 0 3 .grant) (collS a)).tile 1).expected = 8 ∧
      ((after (.sendPermit 0 3 .grant) (collS a)).tile 1).arrived = 4 ∧ ((after (.sendPermit 0 3 .grant) (collS g)).ctx 0).cmds.map (fun k => k.coll.granted) = [1]) := by decide +kernel

/-- A chunk sent to a member on another core, and to one in slot 1; one received by each kind of step, and in the last one (R333 to R337). -/
theorem wit_CollectiveSteps_chunks : (let a := coll0 1 0 1
    let g := coll0 0 3 2
    let got := fun (k : Cmd) => { k with coll := { k.coll with granted := 1 } }
    let l := got (coll0 0 1 1)
    let place := { collS l with tiles := [(1, { size := 4096 }), (2, { base := 0x8000, size := 64, expected := 16 })] }
    let summing := { collS (got a) with tiles := [(1, { size := 4096, state := 1, expected := 8, arrived := 4 })] }
    let near := { collS a with c1 := { ctx7 with coord := 1 } }
    let takes : Cmd → Nat → Bool := fun k n => k.stepKind.isSome && k.coll.entered && !k.finished && k.coll.granted == 1 && decide (k.coll.recvd + 1 < k.recvs.length) &&
      (k.recvs[0]?.map (fun h => (h.keys.length, (collS k).hosts (k.member (k.recvPeer k.coll.step h))))) == some (n, false)
    (collS a).nextSender.map (fun p => (p.1, p.2.id)) = some (0, 3) ∧ a.coll.sent + 1 < a.sends.length ∧ (a.sends[0]?.map (fun h => ((collS a).spFenced ((collS a).chunkReads a h), (collS a).bad))) = some (false, []) ∧
      ((after .chunkSend (collS a)).ctx 0).cmds.map (fun k => (k.coll.sent, k.coll.permits, k.coll.unacked)) = [(1, [], [1])] ∧ (after .chunkSend (collS a)).wire = [] ∧
      near.hosts (a.member 1) = true ∧ (after .chunkSend near).wire.map (fun w => w.dst) = [1] ∧
      takes (got a) 4 = true ∧ takes (got g) 2 = true ∧ (got g).lastStep = false ∧ (got a).reduces = true ∧ (got a).adds = true ∧ 1 + 1 ≠ clAx a.desc 0 ∧
      (after (.chunkReceive 0 3 (List.replicate 16 0)) summing).me.cmds.map (fun k => k.coll.recvd) = [1] ∧ ((after (.chunkReceive 0 3 (List.replicate 16 0)) summing).tile 1).state = 2 ∧
      (after (.chunkReceive 0 3 (List.replicate 8 1)) (collS (got g))).me.cmds.map (fun k => k.coll.next.length) = [2] ∧
      takes l 4 = true ∧ l.lastStep = true ∧ l.reduces = false ∧
      (l.recvs[0]?.map (fun h => (place.counted 0 ((place.destCells l (h.keys.zip (List.replicate 4 5))).map Prod.fst)).toOption.isSome)) = some true ∧
      (after (.chunkReceive 0 3 (List.replicate 16 5)) place).sp = (List.range' 0x8030 16).map (fun a => (a, 5))) := by decide +kernel

/-- The places of those chunks: a chunk tile that may be filled, nothing torn and no bank held, counted bytes, and a tile that covers its chunk READY. -/
theorem wit_CollectiveSteps_places : (let a := coll0 1 0 1
    let s := collS a
    let l : Cmd := { coll0 0 1 1 with coll := { (coll0 0 1 1).coll with granted := 1 } }
    let place := { collS l with tiles := [(1, { size := 4096 }), (2, { base := 0x8000, size := 64, expected := 16 })] }
    let summing := { collS a with tiles := [(1, { size := 4096, state := 1, expected := 8, arrived := 4 })] }
    s.chunkTile a 0 = 1 ∧ s.lostPaths = [] ∧
    (a.recvs[0]?.any (fun h => s.chunkPlace a 1 h && !s.spFenced (s.ownReads a h.keys ++ s.chunkKeys a 1 h) && (s.badAt .sp (s.ownReads a h.keys)).isNone &&
      (s.tornAt .sp (s.chunkKeys a 1 h)).isNone && ((s.setTile 1 { s.tile 1 with expected := 8 }).counted 0 (s.chunkKeys a 1 h)).toOption.isSome)) = true ∧
    (l.recvs[0]?.any (fun h => !place.spFenced (place.destKeysOf l h.keys) && (place.tornAt .sp (place.destKeysOf l h.keys)).isNone &&
      (place.counted 0 (place.destCount l (h.keys.zip (List.replicate 4 5)))).toOption.isSome)) = true ∧
    (a.recvs[0]?.any (fun h => h.s + 1 != clAx a.desc 0 && !summing.spFenced (summing.chunkKeys a 1 h) && (summing.badAt .sp (summing.chunkKeys a 1 h)).isNone &&
      (summing.counted 0 (summing.chunkKeys a 1 h)).toOption.any (fun u => u.chunkCovers (summing.chunkKeys a 1 h) (fun e => e.state == 2)))) = true ∧
    (after (.digest 0 3 ⟨1, a.digest + 1⟩) (collS { a with coll := { a.coll with got := [], left := 5 } })).me.cmds = []) := by decide +kernel

/-- Group 0 with its window at 0x4000; flags 1 valid, 2 sequencer here, 4 member (R412). -/
def grpS (flags : Byte) (x : Context) (g : Group) : State :=
  { with0 x with mem := Store.putList [] 0x3000 [flags, 0, 0, 0, 0, 0, 0, 0, 0, 0x40, 0, 0, 0, 0, 0, 0, 128], mreg := Store.put resetRegs regGRPBASE 0x3000, groups := [(0, g)] }

def blk0 : McBlock := { pkg := 1, offs := 0, tag := 0, notice := false, bytes := List.replicate 64 5 }
def mc1 : Cmd := { quiet4 with id := 2, eng := .mcast, op := 4, started := true, committed := true, desc := desc [(4, 4, 64)] }

/-- A block from outside at the last number, a command's block, one after the last number, one of a group whose entry is not valid, and a group
that has lost its sequencer (R243, R414, R415, R418). -/
theorem wit_GroupSteps : (let s := grpS 5 ctx7 { base := 0x4000, next := 0xFFFFFFFFFFFF }
    let t := grpS 7 { ctx7 with cmds := [mc1] } { base := 0x4000 }
    let u := grpS 7 { ctx7 with cmds := [mc1] } { base := 0x4000, next := 0 }
    let n := grpS 5 { ctx7 with cmds := [mc1] } { base := 0x4000 }
    let l := { grpS 7 { ctx7 with cmds := [mc1] } { base := 0x4000 } with lostPkgs := [0] }
    let cs := fun (s : State) => ctxIds.filterMap (fun c => (s.toStamp c 0).map (fun k => (c, k)))
    s.groupOk 0 = true ∧ s.groupLost 0 = false ∧ s.seqHere 0 = true ∧ n.seqHere 0 = true ∧ (s.curGroup 0).next ≠ 0 ∧ t.groupFlag 0 1 = true ∧
      ((after (.mcstStamp 0 (some blk0)) t).group 0).subs.map (fun b => (b.seq, b.blk.pkg, b.ext)) = [(some 1, 1, true)] ∧
      cs t = [(0, mc1)] ∧ cs u = [(0, mc1)] ∧ cs n = [(0, mc1)] ∧ t.groupOk 0 = true ∧ t.groupLost 0 = false ∧ (t.curGroup 0).next = 1 ∧
      t.badAt .sp (byteAddrs (spKey t.myX (mcSrc mc1.desc)) (mcLen mc1.desc)) = none ∧
      (u.curGroup 0).next = 0 ∧ u.groupLost 0 = false ∧ n.groupLost 0 = false ∧ n.groupFlag 0 1 = false ∧ l.groupLost 0 = true) := by
  decide +kernel

/-- Of one block the choice is that one, whatever the free value. -/
theorem wit_GroupSteps_pick (n : Nat) : [((0 : Fin 4), mc1)][Config.pick n % [((0 : Fin 4), mc1)].length]? = some (0, mc1) := by
  simp [Nat.mod_one]

/-- The steps of a block of 64 bytes, with a notice and without: its line, the header line, which this core's MCST waits for, and the notice (R303, R416,
R424); a view change with the sequencer here and with one elsewhere (R418). -/
theorem wit_GroupSteps_apply : (let m : McSub := { ext := true, ctx := 0, cmd := 0, blk := blk0, seq := some 1 }
    let a := grpS 5 ctx7 { base := 0x4000, next := 2, subs := [m] }
    let h := grpS 5 ctx7 { base := 0x4000, next := 2, subs := [{ m with lines := 1 }] }
    let q := { m with lines := 1, blk := { blk0 with notice := true } }
    let p := grpS 5 ctx7 { base := 0x4000, next := 2, subs := [q] }
    let mine := grpS 5 { ctx7 with cmds := [mc1] } { base := 0x4000, next := 2, subs := [{ m with ext := false, cmd := 2, lines := 1 }] }
    let d : State := grpS 5 ctx7 { base := 0x4000, next := 2, subs := [{ q with counted := true }] }
    let n := { d with mem := d.mem.putList 0x3018 [7] }
    let e := (a.reg 0x1010).toNat
    (a.curGroup 0).first = some m ∧ a.groupFlag 0 2 = true ∧ a.groupLost 0 = false ∧ (a.curGroup 0).skipTo = none ∧ Memory.wf a.mem = true ∧ a.deferred 0 = false ∧ a.winBase 0 = 0x4000 ∧ e + 64 ≤ 0x4000 ∧
      (after (.blockApply 0) a).mem.get (0x4000 + 64 + 63) = 5 ∧ ((after (.blockApply 0) a).group 0).subs.map McSub.lines = [1] ∧
      (after (.blockApply 0) h).mem.getList 0x4000 9 = [1, 0, 0, 0, 0, 0, 0, 0, 1] ∧ ((after (.blockApply 0) h).group 0).subs = [] ∧
      p.noticeAhead 0 = false ∧ ((after (.blockApply 0) p).group 0).subs.map McSub.counted = [true] ∧
      (mine.ctx 0).cmds.find? (fun k => k.eng == .mcast && k.id == 2 && !k.finished) = some mc1 ∧ ((after (.blockApply 0) mine).ctx 0).cmds.map Cmd.finished = [true] ∧
      n.deferred 0 = false ∧ n.noticeTo 0 = .slot 0 ∧ (((after (.blockApply 0) n).ctx 0).qs.getD 3 {}).ents.map (fun e => (e.e.mask, e.e.lanes.head?)) = [(0xFFFF, some 1)]) := by
  decide +kernel

theorem wit_GroupSteps_view : (let v : ViewInfo := { c := 7, s := 9, held := [], blocks := [], seqHere := false, seqPkg := 1, nmemb := 1, mlist := 0, members := [] }
    let w : ViewInfo := { v with seqHere := true, seqPkg := 0, mlist := 0x5000, members := [0, 1] }
    let s := grpS 1 ctx7 { base := 0x4000, next := 2 }
    s.groupOk 0 = true ∧ (s.curGroup 0).subs = [] ∧ (s.ctx 0).cmds = [] ∧ ((after (.viewChange 0 v) s).group 0).next = 10 ∧
      (after (.viewChange 0 v) s).mem.getList 0x3000 8 = [1, 0, 1, 0, 1, 0, 1, 0] ∧ (after (.viewChange 0 w) s).mem.getList 0x3000 8 = [3, 0, 1, 0, 1, 0, 0, 0] ∧
      (after (.viewChange 0 w) s).mem.getList 0x5000 4 = [0, 0, 1, 0]) := by
  decide +kernel

/-- A block at the last number that the old view agreed on; an own block that no survivor holds, which fails with GROUP_LOST (R418). -/
theorem wit_GroupSteps_more : (let m : McSub := { ext := true, ctx := 0, cmd := 0, blk := blk0, seq := some 4 }
    let a := grpS 5 ctx7 { base := 0x4000, next := 5, subs := [m], skipTo := some 4 }
    let k := { mc1 with desc := desc [(0, 2, 0), (4, 4, 64)] }
    let own : McSub := { m with ext := false, cmd := 2 }
    let v : ViewInfo := { c := 3, s := 3, held := [], blocks := [], seqHere := false, seqPkg := 1, nmemb := 1, mlist := 0, members := [] }
    let r := grpS 5 { ctx7 with cmds := [k] } { base := 0x4000, next := 5, subs := [own] }
    let s := { r with mem := r.mem.put 0x3006 1, lostPkgs := [1] }
    (a.curGroup 0).first = some m ∧ a.groupLost 0 = false ∧ a.blockHeld 0 = false ∧ (a.curGroup 0).skipTo = some 4 ∧ (4 : BitVec 48) ≤ 4 ∧
      a.spFenced (byteAddrs (spKey a.myX (mcSrc k.desc)) (mcLen k.desc)) = false ∧ ((after (.blockApply 0) a).group 0).subs.map McSub.lines = [1] ∧
      s.groupOk 0 = true ∧ s.groupLost 0 = true ∧ s.holdsFull 0 v own = false ∧ s.holdsFull 0 { v with held := [4] } own = true ∧ s.holdsFull 0 v m = true ∧
      (s.curGroup 0).subs.filter (fun b => !b.ext && !s.holdsFull 0 v b) = [own] ∧
      (s.ctx own.ctx).cmds.find? (fun k => k.eng == .mcast && k.id == own.cmd && !k.finished) = some k ∧ (after (.viewChange 0 v) s).me.cmds = []) := by decide +kernel

def lossK : Cmd := { coll0 1 0 1 with coll := { (coll0 1 0 1).coll with members := [0, 0x40000, 0x80000, 0xC0000] } }

/-- No COLL that waits on the package; a load on its way there; and a COLL whose second member is there (R341, R408). -/
theorem wit_GroupSteps_losses : (let s := with0 ctx7
    let a : Acc := { id := 1, kind := .load, addrs := [5 * 2 ^ 46] }
    let l := with0 { ctx7 with queue := [a] }
    let w := with0 { ctx7 with cmds := [lossK] }
    (∀ c, (s.ctx c).cmds = [] ∧ (s.ctx c).queue = []) ∧ s.away = [] ∧ s.homeQ = [] ∧ s.myPkg = 0 ∧ after (.fabricPathLoss 5) s = { s with lostPaths := [5] } ∧ (after (.packageLoss 5) s).lostPkgs = [5] ∧
      (∀ c, (l.ctx c).cmds = []) ∧ a.to 5 = true ∧ (l.ctx 0).mode = .live ∧ ((after (.packageLoss 5) l).launchOf 7).map (fun l => l.fault.map FaultRec.code) = some (some 0xD) ∧
      lossK.waitsOn 1 = true ∧ (w.ctx 0).cmds = [lossK] ∧ (w.ctx 0).mode ≠ .free ∧
      (w.launchOf 7).map (fun l => l.fault) = some none ∧ ((after (.fabricPathLoss 1) w).launchOf 7).map (fun l => l.fault.map FaultRec.code) = some (some 0xA)) := by
  decide +kernel

/-! ### Launches, translation, the platform and its registers -/

/-- A descriptor of launch 9 for one slot of core 0 with tile 0 and semaphores 2 and 3, its node table at 0x100 (R347, R348). -/
def desc9 (cls : Nat) : List Byte := desc [(0, 4, 9), (4, 1, cls), (8, 8, 0x100), (0x28, 8, 0x77), (0x5A, 1, 1), (0x5B, 1, 1), (0x5C, 4, 1)] ++ leBytes 8 0x1_0302_0000 ++ List.replicate 120 0

/-- Queue 0 of that class holds it; the table's first node is 0x200. -/
def queueS (cls : Nat) : State :=
  { State.reset with
    booted := true
    tlb := [page0]
    mem := Store.putList (Store.putList [] 0x100 [0, 2]) 0x4000 (desc9 cls)
    mreg := Store.put (Store.put (Store.put resetRegs (qReg 0 0) 0x4000) (qReg 0 8) (BitVec.ofNat 64 (1 + 256 * cls))) (qReg 0 0xC) 1 }

theorem wit_LaunchSteps_start : (let s := queueS 1
    let u : State := { s with choices := s.choices + 1, sched := { s.sched with reserved := none } }
    s.booted = true ∧ s.halted = false ∧ s.powered = true ∧ s.gtb.toNat < 2 ^ 63 ∧ (∀ m, m < 64 → s.writeOff m = s) ∧
      u.readyHeads.filter (fun p => dn p.2 4 1 != 7) = [(0, desc9 1)] ∧ u.fits (desc9 1) = true ∧ u.needsFlush 0 (desc9 1) = false ∧ (u.startReads (desc9 1)).toOption = some ([], [], 0x200) ∧ s.places (desc9 1) = true ∧
      ((after .schedulerPass s).ctx 0).arch.pc = 0x200 ∧ ((after .schedulerPass s).ctx 0).arch.rs 0 = 0x77) := by decide +kernel

/-- Queue 0 holds a launch of core 1 that records, as launch 7 of this core does, and queue 1 one of this core. -/
def reserveS : State :=
  let q := queueS 1
  { q with
    c1 := { ctx7 with share := {}, mode := .live }
    launches := [{ launch7 with queue := 2, desc := (desc9 1).set 0xEF 8 }]
    mem := (q.mem.putList 0x4000 (((desc9 1).set 0 8).set 0x5C 2 |>.set 0xEF 8)).putList 0x6000 (desc9 1)
    mreg := ((q.mreg.put (qReg 1 0) 0x6000).put (qReg 1 8) 0x101).put (qReg 1 0xC) 1 }

/-- The head of queue 0 has to wait, and that of queue 1 starts beside it, where no core elsewhere is retired (R351, R355). -/
theorem wit_LaunchSteps_reserve (h : ∀ k, Config.coreRetired k = none) : (let s := reserveS
    let u : State := { s with choices := s.choices + 1, sched := { s.sched with reserved := none } }
    let d := (((desc9 1).set 0 8).set 0x5C 2).set 0xEF 8
    let v : State := { s with choices := s.choices + 2, sched := { s.sched with reserved := some d } }
    (∀ m, m < 64 → s.writeOff m = s) ∧ u.readyHeads.filter (fun p => dn p.2 4 1 != 7) = [(0, d), (1, desc9 1)] ∧ u.fits d = false ∧ (∀ l ∈ s.launches, l.cls ≠ 7) ∧
      [(1, desc9 1)].find? (fun p => v.fits p.2 && !v.isReserved p.2) = some (1, desc9 1) ∧ v.needsFlush 1 (desc9 1) = false ∧
      (v.startReads (desc9 1)).toOption = some ([], [], 0x200)) := by
  simp only [State.writeOff, State.retiredAt, h]
  refine ⟨by decide +kernel,
    by decide +kernel, ?_, by decide +kernel, by decide +kernel, by decide +kernel, by decide +kernel⟩
  have : ∀ u : State, u.launches = reserveS.launches → u.fits ((((desc9 1).set 0 8).set 0x5C 2).set 0xEF 8) = false := by
    intro u e
    have r : (ldRmode ((((desc9 1).set 0 8).set 0x5C 2).set 0xEF 8) == 0 || reserveS.launches.all (fun l => ldRmode l.desc == 0)) = false := by decide +kernel
    rw [State.fits, e, r]
    simp
  exact this _ rfl

theorem wit_LaunchSteps_ballast : (let s := queueS 7
    s.powerNow + s.powerBand < s.setPoint ∧ s.sched.lastAdmit = none ∧
      s.readyHeads.find? (fun p => dn p.2 4 1 == 7 && s.fits p.2 && !s.isReserved p.2) = some (0, desc9 7) ∧ s.needsFlush 0 (desc9 7) = false ∧
      (s.startReads (desc9 7)).toOption = some ([], [], 0x200) ∧ (after .ballastAdmit s).launches.map Launch.lid = [9]) := by decide +kernel

/-- A launch that has settled, one whose limit of 1,024 counts has passed, and one with no limit (R357 to R361). -/
theorem wit_LaunchSteps_ends : (let s := with0 { ctx7 with mode := .ended }
    let l := { launch7 with desc := desc [(0x7C, 4, 1)] }
    let t := { with0 ctx7 with launches := [l], gtb := 1024 }
    s.launchOf 7 = some launch7 ∧ s.mayEnd launch7 = true ∧ s.timeUp launch7 = false ∧ s.recordParks launch7.desc = false ∧ ldFlag launch7.desc 1 = false ∧ Store.wf s.mreg = true ∧ (after (.launchEnd 7) s).launches = [] ∧ ((after (.launchEnd 7) s).ctx 0).mode = .free ∧
      (after (.launchEnd 7) s).qHead 0 = 1 ∧ t.launchOf 7 = some l ∧ l.fault = none ∧ dn l.desc 0x7C 4 ≠ 0 ∧ l.tstart.toNat + 1024 * dn l.desc 0x7C 4 ≤ t.gtb.toNat ∧
      ((after (.timeLimit 7) t).launchOf 7).map (fun l => l.fault.map FaultRec.code) = some (some 0xF) ∧ ((after (.launchEnd 7) t).launchOf 7).map (fun l => l.fault.map FaultRec.code) = some (some 0xF) ∧ ((after (.killed 7) t).ctx 0).mode = .ended ∧
      dn launch7.desc 0x7C 4 = 0 ∧ after (.timeLimit 7) s = s) := by decide +kernel

/-- A package that is halted, one without power; a launch that nobody knows, a kill of the second launch of queue 0; a core without a pre-empted
context; power above and within the band (R361, R362, R454). -/
theorem wit_LaunchSteps_more : (let h := { with0 { ctx7 with mode := .ended } with halted := true }
    let q := queueS 1
    let s := { q with mem := q.mem.putList 0x4100 ((desc9 1).set 0 8), mreg := q.mreg.put (qReg 0 0xC) 2, sched := { enter := [(1, 0)] } }
    let p := fun (w : W64) => q.setReg regPWRNOW w
    h.launchOf 7 = some launch7 ∧ h.halted = true ∧ after (.launchEnd 7) h = h ∧ after .schedulerPass h = h ∧ after .ballastAdmit { q with powered := false } = { q with powered := false } ∧
      s.launchOf 8 = none ∧ after (.timeLimit 8) s = s ∧ after (.launchEnd 8) s = s ∧ s.queuedAs 5 = none ∧ after (.killed 5) s = s ∧
      s.queuedAs 8 = some (0, 1) ∧ 1 ≠ s.qHead 0 ∧ (after (.killed 8) s).sched.killed = [8] ∧ s.away = [] ∧ after (.resume 0) s = s ∧
      (p 2449).setPoint + (p 2449).powerBand < (p 2449).powerNow ∧ (after .ballastAdmit (p 2449)).choices = q.choices + 1 ∧
      (p 2448).powerNow ≤ (p 2448).setPoint + (p 2448).powerBand ∧ (p 2352).setPoint ≤ (p 2352).powerNow + (p 2352).powerBand ∧ after .ballastAdmit (p 2352) = p 2352) := by
  decide +kernel

def away7 : Context := { ctx7 with mode := .preempted, share := { hasp := (1, 47) }, arch := { hlimit := 0x10000 } }

/-- A launch that was pre-empted, its slot free, its save area at 0, in its heap: PC 0x300 and s15 = 6 (R368 to R375). -/
def resumeS : State := { State.reset with booted := true, launches := [launch7], away := [(0, away7)], mem := [(3, 1), (9, 3), (0x40 + 120, 6)] }

theorem access_heap (s : State) (a : Arch) (asid : BitVec 16) (va : Nat) (h : va < 0x10000) (hp : s.myPkg = 0) (hl : s.lostPkgs = []) (hb : a.hbase = 0) (ht : a.hlimit = 0x10000) (ho : a.hoffs = 0) :
    s.access a asid .read va = .ok ⟨va, 0, true, true, false, false⟩ := by
  have h1 : va % 2 ^ 56 = va := Nat.mod_eq_of_lt (by omega)
  have h2 : paRegion va = 0 := by unfold paRegion; omega
  have hh : a.heapHit va = true := by simp [Arch.heapHit, hb, ht, h]
  have htr : s.translate a asid va = some ⟨va, 0, true, true, false, false⟩ := by
    rw [State.translate, if_pos hh, ho, show (0 : W64).toNat = 0 from rfl, Nat.add_zero, h1]
  have h3 : paPkg va = 0 := by unfold paPkg; omega
  have htg : s.target .read va = .ok () := by simp [State.target, h2, State.routed, hl, h3, hp]
  have hw : s.walkBad a asid va = none := by simp [State.walkBad, hh]
  simp only [State.access, htr, htg, hw]; rfl

theorem pas_heap (s : State) (a : Arch) (asid : BitVec 16) (hp : s.myPkg = 0) (hl : s.lostPkgs = []) (hb : a.hbase = 0) (ht : a.hlimit = 0x10000) (ho : a.hoffs = 0) (n va : Nat) (h : va + n ≤ 0x10000) :
    s.vaPas a asid .read va n = .ok (List.range' va n) := by
  induction n generalizing va with
  | zero => rfl
  | succ n ih => simp [State.vaPas, access_heap s a asid va (by omega) hp hl hb ht ho, ih (va + 1) (by omega), List.range']

theorem wit_LaunchSteps_resume : (let s := resumeS
    s.away.find? (fun p => p.1 == 0) = some (0, away7) ∧ s.launchOf 7 = some launch7 ∧ s.away.filter (fun p => p.2.lid == 7) = [(0, away7)] ∧ away7.colls = [] ∧ (s.ctx 0).mode = .free ∧
      s.wire = [] ∧ away7.mode = .preempted ∧ s.gtb.toNat < 2 ^ 63 ∧ launch7.cls ≠ 7 ∧ s.beside 7 launch7.desc [away7.share] = true ∧ s.isReserved launch7.desc = false) := by decide +kernel

def resumeU : State :=
  ({ resumeS.takeBack launch7.desc with times := resumeS.times + 1, away := resumeS.away.filter (fun p => p.2.lid != 7) } : State).setCtx 0 { away7 with nextId := max away7.nextId (resumeS.ctx 0).nextId }

theorem wit_LaunchSteps_resume_save : ∃ b, resumeU.vaRead away7.arch away7.asid (resumeU.saveAddr 0) 65536 = .ok b ∧ saveOk b = true ∧ dn b 4 2 = 0 := by
  have h : resumeU.saveAddr 0 = 0 := by decide +kernel
  have hb : resumeU.badAt .l2 (List.range' 0 65536) = none := rfl
  exact ⟨(List.range' 0 65536).map resumeU.mem.get, by rw [h, State.vaRead, pas_heap _ _ _ rfl rfl rfl rfl rfl _ _ (by decide)]; simp [hb], by decide +kernel, by decide +kernel⟩

/-- No entry, so that the walk decides; an invalidation on its way; a parked write with and without its page; the invalidate queue before and after (R384, R389, R391). -/
theorem wit_TranslationSteps : (let v : Inval := { va := 0, asid := 0, level := 0, count := 1, pending := [.compute] }
    let s := { with0 ctx7 with invals := [v] }
    let a : Acc := { id := 1, kind := .store, cells := [(0x90, 1)], vas := [0x40], stale := true, bundle := 0x10 }
    let w := with0 { ctx7 with hold := [a] }
    let n := { w with tlb := [] }
    let a2 : Acc := { a with cells := [(0x90, 1), (0x91, 2)], vas := [0xFFFFFFF, 0x10000000] }
    let w2 := with0 { ctx7 with hold := [a2] }
    let q := { queueS 1 with mem := Store.putList (Store.putList [] 0x6000 (leBytes 8 1 ++ leBytes 8 0 ++ leBytes 8 1 ++ leBytes 8 0x80)) 0 [7], mreg := Store.put (Store.put (Store.put resetRegs 0x200000 0x6000) 0x200008 1) 0x20000C 1 }
    let r := { q with mem := Store.put q.mem 0x6000 0 }
    s.invals = [v] ∧ v.pending.contains .compute = true ∧ (after (.tlbInvalidationApplied .compute) s).tlb = [] ∧ (after (.tlbWalk 0 0) n) = n ∧
      ((w.ctx 0).hold ++ (w.ctx 0).queue).find? (fun a => a.id == 1 && a.stale) = some a ∧ (w.retranslate (w.ctx 0) .write a.vaList).map (fun ts => ts.map Tr.pa) = some [0x40] ∧
      ((after (.writeRetranslate 0 1) w).ctx 0).hold.map Acc.cells = [[(0x40, 1)]] ∧ n.retranslate (n.ctx 0) .write a.vaList = none ∧
      ((after (.writeRetranslate 0 1) n).launchOf 7).map (fun l => l.fault.map FaultRec.bundle) = some (some 0x10) ∧
      w2.retranslate (w2.ctx 0) .write a2.vaList = none ∧ (a2.vaList.takeWhile (fun va => (w2.access (w2.ctx 0).arch (w2.ctx 0).asid .write va).toOption.isSome)) = [0xFFFFFFF] ∧
      ((after (.writeRetranslate 0 1) w2).launchOf 7).map (fun l => l.fault.map FaultRec.code) = some (some 4) ∧ q.bad = [] ∧
      q.iqCommand.map iqOk = some true ∧ q.invalPos = 0 ∧ Store.wf q.mreg = true ∧ (after .invalidate q).invals.map (fun i => (i.host, i.count)) = [(true, 1)] ∧
      r.iqCommand.map iqOk = some false ∧ (after .invalidate r).memNat 0x80 8 = 2 ∧ ({ q with invalPos := 1 } : State).invalDone true = true ∧
      (after .invalidate { q with invalPos := 1 }).memNat 0x80 8 = 1) := by decide +kernel

/-- A walk whose space record fails its check, an entry that the TLB has let go, and no log record that waits (R384, R390, R428). -/
theorem wit_TranslationSteps_walks : (let b : BadWord := { space := .l2, base := 0x8000, len := 8, u := { kind := .l2Slice, index := 1 } }
    let s := { with0 ctx7 with tlb := [], bad := [b], mreg := resetRegs.put regASTBASE 0x8000 }
    let v : Inval := { va := 0, asid := 0, level := 0, count := 1, pending := [.compute] }
    let o := { with0 ctx7 with invals := [v], tlbOld := [page0] }
    s.walkBad {} 0 0 = some b ∧ (after (.tlbWalk 0 0) s).tests.map (fun t => (t.u, t.count)) = [(b.u, 1)] ∧ (with0 ctx7).walkBad {} 0 0 = none ∧
      (∀ c, (o.ctx c).logWait = []) ∧ (after (.tlbInvalidationApplied .compute) o).invals.map (fun v => v.removed.length) = [2] ∧
      (after (.tlbInvalidationApplied .compute) o).tlbOld = []) := by decide +kernel

/-- A write by a management core up to the last byte of the package's DRAM, and by the host (R389, R420). -/
theorem wit_TranslationSteps_outside : (let s := { State.reset with mem := [(0x40, 7)] }
    Memory.wf s.mem = true ∧ paRegion 0x7F_FFFF_FFFF = 0 ∧ (0x7F_FFFF_FFFF + 1 - 1) / 2 ^ 39 = 0x7F_FFFF_FFFF / 2 ^ 39 ∧ s.routed 0x7F_FFFF_FFFF = true ∧
      (after (.managementCoreAccess true 0x7F_FFFF_FFFF [9]) s).mem = [(0x40, 7), (0x7F_FFFF_FFFF, 9)] ∧ s.powered = true ∧ 0x40 + 2 ≤ 2 ^ 39 ∧
      (after (.hostBar2Access true 0x40 [0, 8]) s).mem = [(0x41, 8)] ∧ (after (.hostBar2Access false 0x40 [0, 0]) s).hostIn = [7, 0]) := by decide +kernel

def row3 : UnitRef := { kind := .dramRow, index := 3, bank := 1 }
def bank3 : UnitRef := { kind := .spBank, index := 3 }
def test3 (u : UnitRef) : Test := { u, cause := .sramCorrected, lid := 0, gtb := 0, count := 4 }

/-- The first, the fourth and a later corrected error of a DRAM row, and a link retry (R429, R431, R433). -/
theorem wit_SelfTests_corrected : (let s := with0 ctx7
    let p := { s with corrected := [(row3, 0), (row3, 0), (row3, 0)] }
    let t := { s with tests := [test3 row3] }
    causeFits .dramCorrected row3.kind = true ∧ causeFits .linkRetried .linkLane = true ∧ Store.wf s.mreg = true ∧
      (after (.selfTest row3 .dramCorrected) s).tests = [] ∧ (after (.selfTest row3 .dramCorrected) s).corrected = [(row3, 0)] ∧
      (after (.selfTest row3 .dramCorrected) p).tests.map Test.count = [4] ∧ (after (.selfTest row3 .dramCorrected) p).corrected = [] ∧
      (after (.selfTest row3 .dramCorrected) t).tests.map Test.count = [4, 1] ∧ (after (.linkRetry 1) s).corrected = [({ kind := .linkLane, index := 1 }, 0)]) := by
  decide +kernel

/-- An uncorrectable word that nobody has read, and one of each reader (R428). -/
theorem wit_SelfTests_readers : (let s := with0 ctx7
    let ld := { s with c0 := { s.c0 with queue := [{ id := 5, kind := .load, bundle := 0x40 }] } }
    let st := { s with c0 := { s.c0 with queue := [{ id := 5, kind := .store, cells := [(0x40, 1)] }] } }
    let cp := { cp1 with started := true }
    let mc := { mc1 with ef := { ef with inc := 1 } }
    let bad := fun (w : Reader) (s : State) => faultOf (.selfTest bank3 (.sramUncorrectable w)) s
    causeFits (.sramUncorrectable .nobody) bank3.kind = true ∧ causeFits (.dramUncorrectable .nobody) row3.kind = true ∧ trapsCore bank3.kind = false ∧
      (after (.selfTest row3 (.dramUncorrectable .nobody (some ⟨.dram, 0x47⟩))) s).bad = [{ space := .dram, base := 0x40, len := 64, u := row3 }] ∧
      (after (.selfTest bank3 (.sramUncorrectable .nobody)) s).bad = [] ∧ bad .nobody s = none ∧
      (ld.accOf 0 5).isSome = true ∧ bad (.access 0 5) ld = some 0x0D ∧ ((engS cp).ctx 0).cmd 2 = some cp ∧ bad (.command 0 2) (engS cp) = some 0x0D ∧
      ((engS mc).ctx 0).cmd 2 = some mc ∧ stampedCmd (engS mc) 0 mc = false ∧ (after (.selfTest bank3 (.sramUncorrectable (.command 0 2))) (engS mc)).me.cmds = [] ∧
      (seqS run0).run = some run0 ∧ bad .call (seqS run0) = some 0x0D ∧ bad (.merge 0 5) st = some 0x0D ∧ (after (.selfTest bank3 (.sramUncorrectable (.merge 0 5))) st).me.queue = [] ∧
      (s.ctx 0).mode = .live ∧ bad (.device 0) s = some 0x0D) := by
  decide +kernel

/-- A lane while the contexts are idle; a parity trap with a test and without one's shadow copy; a copied element that meets a failing word. -/
theorem wit_SelfTests_traps : (let s := with0 ctx7
    let lane : UnitRef := { kind := .lane, index := 3 }
    let cp := { cp1 with started := true }
    let w : BadWord := { space := .l2, base := 0x40, len := 8, u := { kind := .l2Slice, index := 1 } }
    let e := { engS cp with bad := [w] }
    causeFits .parity lane.kind = true ∧ trapsCore lane.kind = true ∧ s.ticking = false ∧ (s.ctx 0).wait ≠ .sstepHasp ∧
      ((after (.selfTest lane .parity) s).ctx 0).wait = .fenced ∧ causeFits (.sramUncorrectable .nobody) lane.kind = false ∧
      (s.ctx 0).mode.runs = true ∧ ((after (.parityTrap 0 { shadowBad := false, bank := some 3 }) s).ctx 0).wait = .fenced ∧ (after (.parityTrap 0 { shadowBad := false, bank := some 3 }) s).tests.map Test.u = [{ kind := .regBank, index := 3 }] ∧
      faultOf (.parityTrap 0 { shadowBad := true, bank := some 3 }) s = some 0x0D ∧
      (e.place 0 false false .read 0x40 1).toOption.map (fun p => (e.placeFenced p, e.placeBad p false == some w)) = some (false, true) ∧
      (e.place 0 true false .write 0x80 1).toOption.map (fun p => (p.wp, e.placeFenced p)) = some (false, false) ∧
      faultOf (.copyElement 0 2) e = some 0x0D ∧ (after (.copyElement 0 2) e).tests.map Test.u = [w.u]) := by
  decide +kernel

/-- A checksum mismatch of a RUN, the first, the second, and one that names five rows (R213, R431, R432). -/
theorem wit_SelfTests_checksums : (let arr := fun (n : Nat) => ({ kind := .arrayRow, index := BitVec.ofNat 16 n } : UnitRef)
    let c := fun (m : Nat) => ({ seqS { run0 with word := 256, mismatch := m } with mu := [(256, 6)] } : State)
    let five := (List.range' 1 4).map arr
    causeFits (.checksum []) .arrayRow = true ∧ (c 0).checksumWord.map (fun p => (p.1.mismatch, p.2)) = some (0, []) ∧ (c 0).arrayFenced = false ∧ five.all (fun v => isArray v.kind) = true ∧
      (after (.selfTest (arr 0) (.checksum [])) (c 0)).run.map (fun r => (r.reexec, r.mismatch)) = some (1, 1) ∧
      (after (.selfTest (arr 0) (.checksum [])) (c 0)).tests.map Test.whole = [false] ∧ (after (.selfTest (arr 0) (.checksum five)) (c 0)).tests.map Test.whole = List.replicate 5 true ∧
      (c 1).checksumWord.map (fun p => p.1.mismatch) = some 1 ∧ faultOf (.selfTest (arr 0) (.checksum [])) (c 1) = some 0x0E) := by
  decide +kernel

/-- A result that fails with no log, with a log at 0x6000, a third one of the scratchpad's two spares, a thirty-third of a DRAM bank's 32, and a log that is full (R430, R433, R434). -/
theorem wit_SelfTests_results : (let d := { with0 ctx7 with tests := [test3 row3], spares := List.replicate 32 (row3, 0) }
    let t := { with0 { ctx7 with wait := .fenced } with tests := [test3 bank3] }
    let l := { t with mreg := Store.put (Store.put resetRegs 0x1048 0x6000) 0x1050 1 }
    let f := { l with mreg := Store.put l.mreg 0x1050 1024 }
    let o := { t with spares := [(bank3, 0), (bank3, 1)] }
    let r := { t with sched := { t.sched with retired := true } }
    t.tests = [test3 bank3] ∧ t.reg 0x1048 = 0 ∧ (after (.selfTestResult bank3 false) t).tests = [] ∧ (after (.selfTestResult bank3 false) t).reg 0x1058 = 1 ∧
      ((after (.selfTestResult bank3 false) t).ctx 0).wait = .run ∧ (after (.selfTestResult bank3 false) t).sched.retired = false ∧
      (after (.selfTestResult bank3 false) t).spares = [(bank3, 0)] ∧ fld (l.reg 0x1050 - l.reg 0x1054) 0 32 ≠ 1024 ∧ (after (.selfTestResult bank3 true) l).reg 0x1050 = 2 ∧
      (after (.selfTestResult bank3 true) l).mem ≠ [] ∧ fld (f.reg 0x1050 - f.reg 0x1054) 0 32 = 1024 ∧ (after (.selfTestResult bank3 true) f).reg 0x1058 = 1 ∧
      (after (.selfTestResult bank3 false) o).sched.retired = true ∧ (after (.selfTestResult row3 false) d).reported.length = 1 ∧
      (after (.selfTestResult row3 false) d).sched.retired = false ∧ (after (.wholeCoreSelfTest true) r).sched.retired = false) := by
  decide +kernel

/-- A die above CRIT, one that was, and dies at WARN and at THROTTLE, the hinge die 4 among them; more than 2,400 W over 10 ms, and not more (R452 to R456). -/
theorem wit_PlatformSteps_thermal : (let b := { with0 ctx7 with gtb := 4875000 }
    let hot := b.setReg 0x500004 0x398
    let was := { b with critSeen := [0x10, 2], evalAt := 4875001 }
    let warm := (b.setReg 0x500004 0x360).setReg 0x500404 0x320
    Store.wf hot.mreg = true ∧ hot.evalAt ≤ hot.gtb ∧ hot.haltCodes ++ hot.critSeen = [1] ∧ (after .thermalEvaluation hot).halted = true ∧ fld ((after .thermalEvaluation hot).reg 0) 8 8 = 1 ∧
      ((after .thermalEvaluation hot).ctx 0).mode = .ended ∧ (after .thermalEvaluation hot).launches.map (fun l => l.fault.map FaultRec.code) = [some 0x12] ∧
      was.haltCodes ++ was.critSeen = [0x10, 2] ∧ fld ((after .thermalEvaluation was).reg 0) 8 8 = 2 ∧ (after .thermalEvaluation was).evalAt = was.evalAt ∧
      warm.haltCodes ++ warm.critSeen = [] ∧ warm.thPoint 0 1 ≤ warm.drivenTemp 0 ∧ (4 < 6 ∧ ¬ (4 < 4)) ∧ warm.thPoint 4 0 ≤ warm.dieTemp 4 ∧
      warm.newThstat 0 false = 0x103 ∧ warm.newThstat 4 false = 1 ∧ b.newThstat 0 false = 0 ∧ fld (b.newThstat 0 true) 8 4 = 1 ∧
      overPower (0 :: List.replicate 9 2667) = true ∧ overPower (24000 :: []) = false ∧
      { was with critSeen := [] }.gtb < was.evalAt ∧ after .thermalEvaluation { was with critSeen := [] } = { was with critSeen := [] }) := by decide +kernel

/-- An image without a body, whose digest is that of no bytes, with a public key of zeros whose hash is fused (R460). -/
def image0 : BootImage := { header := leBytes 4 0x48584244 ++ leBytes 4 0 ++ leBytes 8 0 ++ sha3 [] ++ List.replicate 16 0 ++ List.replicate 1312 0 ++ List.replicate 2420 0, body := [7] }

def bootS : State := { State.reset with image := image0, keyHash := sha3 (List.replicate 1312 0), rollback := 1 }

/-- The key of the image is the one whose hash is fused, whatever its ROLLBACK. -/
theorem bootS_key : sha3 (image0.withRollback 0).key = bootS.keyHash ∧ sha3 (image0.withRollback 1).key = bootS.keyHash ∧
    sha3 (image0.withRollback 2).key = bootS.keyHash := by
  have k : (image0.withRollback 0).key = List.replicate 1312 0 ∧ (image0.withRollback 1).key = List.replicate 1312 0 ∧
      (image0.withRollback 2).key = List.replicate 1312 0 := by decide +kernel
  rw [k.1, k.2.1, k.2.2]
  simp only [bootS, and_self]

/-- Boots that stop at the steps 1 to 3: no image, a body that is not the digest's, and a signature that does not verify. -/
theorem wit_PlatformSteps_boot : (let d := { bootS with image := { image0 with header := image0.header.set 8 1 } }
    let h := (image0.withRollback 1).header
    bootS.booted = false ∧ dn h 0 4 = 0x48584244 ∧ (∀ o, o < 0x10 → nth h (0x30 + o) = 0) ∧ sha3 (image0.body.take (dn h 8 8)) = (h.drop 0x10).take 32 ∧
      ¬ ((1 : BitVec 32).toNat < bootS.rollback.toNat) ∧ (0 : BitVec 32).toNat < bootS.rollback.toNat ∧
      (after (.boot none 1) State.reset).reg 0 = 0x81 ∧ (after (.boot none 1) d).reg 0 = 0x82 ∧ (after (.boot (some 2) 1) bootS).reg 0 = 0x83 ∧
      (after (.boot (some 2) 1) bootS).rollback = 1 ∧ (after (.boot (some 2) 1) bootS).booted = false) := by decide +kernel

/-- Where the signature verifies, an old image stops at step 4, one with nothing that fails boots, and what else fails is the outside's (log 9). -/
theorem wit_PlatformSteps_verified (h : ∀ a b c, Config.sigVerifies a b c = true) :
    bootS.bootStop none (image0.withRollback 0) = some 4 ∧ bootS.bootStop none (image0.withRollback 1) = none ∧
      bootS.bootStop (some 4) (image0.withRollback 1) = some 5 ∧ bootS.bootStop (some 5) (image0.withRollback 2) = some 6 := by
  simp only [State.bootStop, h, bootS_key.1, bootS_key.2.1, bootS_key.2.2, ne_eq, not_true_eq_false, or_false, Bool.not_true, Bool.false_eq_true]
  decide +kernel

/-- A bank that owes eight refreshes, the ninth lost; a sample with no context profiled; ERRDROP before boot (R441, R454, R458, R461). -/
theorem wit_PlatformSteps : (let b := { with0 ctx7 with gtb := 9 * 610 * 1000 }
    Store.wf b.mreg = true ∧ b.halted = false ∧
      b.owes 0 = 8 ∧ ({ b with halted := true } : State).halted = true ∧ after (.dramRefresh 0) { b with halted := true } = { b with halted := true } ∧ (after (.dramRefresh 0) b).owes 1 = 8 ∧
      State.reset.booted = false ∧ (after .errdrop State.reset).hostIn = [0, 0, 0, 0] ∧ (after (.dramRefresh 0) b).owes 0 = 7 ∧ (after (.activationAlert 0) b).owes 0 = 0 ∧ State.reset.owes 0 < 8 ∧ b.booted = true ∧ b.powered = true ∧
      (∀ c, (b.ctx c).mode ≠ .live ∨ (b.ctx c).arch.tracecfg.getLsbD 61 = false) ∧ after .sample b = b ∧ (after .powerOff b).powered = false ∧
      (after (.sensorRefresh 3 49 0x123) b).reg 0x5003C4 = 0x123) := by decide +kernel

/-- Samples of a context with no log, of one with a log at 0x1000, and of one that is stopped; a launch held at its end with a result still due (R441, R444). -/
theorem wit_PlatformSteps_samples : (let x := fun (v : W64) => with0 { ctx7 with arch := { tracecfg := v } }
    let s := x 0x2000_0000_0000_0000
    let l := x 0x2000_0000_0000_0001
    let at_ := fun (s : State) (va : Nat) => (s.logTr 0 va).toOption.map (fun t => (t.pa, t.wp))
    let p := { l with c0 := { l.c0 with mode := .stopped, lastPc := 0x40 } }
    let h := { with0 { ctx7 with mode := .ended, arch := { landing := [{ due := 0, pos := 1, act := .s 4 5 }] } } with launches := [{ launch7 with held := true }] }
    (s.ctx 0).arch.tracecfg.getLsbD 61 = true ∧ (s.ctx 0).mode = .live ∧ (∀ d, d ≠ 0 → (s.ctx d).arch.tracecfg.getLsbD 61 = false) ∧ (after .sample s).times = s.times + 1 ∧
      (l.ctx 0).logWait = [] ∧ at_ l 0x1000 = some (0x1000, false) ∧ at_ l 0x1040 = some (0x1040, false) ∧ at_ (l.memPut 0x1000 (leBytes 8 1)) 0x1040 = some (0x1040, false) ∧ (after .sample l).memNat 0x1000 8 = 1 ∧
      (after .sample p).mem.getList 0x1040 8 = [0x40, 0, 0, 0, 0, 0, 0, 2] ∧ ((after .holdRelease h).ctx 0).arch.landing = [] ∧
      (after .holdRelease h).launches.map Launch.held = [false]) := by decide +kernel

/-- Holds of a launch 10 s after its end, of one less, and of one whose debugger has attached (R444). -/
theorem wit_PlatformSteps_holds : (let f : FaultRec := { code := 5, coord := 0, bundle := 0, cmd := 0, gtb := 0 }
    let l := { launch7 with fault := some f, held := true }
    let s := fun (g : W64) (a : Bool) => ({ with0 { ctx7 with mode := .ended } with launches := [{ l with attached := a }], gtb := g } : State)
    let held := fun (s : State) => (after .holdTimeout s).launches.map Launch.held
    1562500000 ≤ (1562500000 - f.gtb).toNat ∧ held (s 1562500000 false) = [false] ∧ held (s 1562499999 false) = [true] ∧ held (s 1562500000 true) = [true] ∧
      (after .holdRelease (s 0 true)).launches.map Launch.held = [false]) := by decide +kernel

/-- Doorbells that are taken and that ask for too much, thermal and power fields out of range, and answers to a page fault (R388, R421, R451, R455). -/
theorem wit_RegisterWrites : (let s := fun (w : RegWrite) => ({ queueS 1 with inbox := [w] } : State)
    let q := fun (v : W64) => s { idx := 0, size := 4, val := v }
    let p := fun (v : W64) => ({ with0 { ctx7 with ctxid := 5, wait := .probe 0x4000_0000 1 false true } with inbox := [{ size := 8, val := v, host := false }] } : State)
    (q 2).inbox = [{ idx := 0, size := 4, val := 2 }] ∧ Store.wf (q 2).mreg = true ∧ (q 2).booted = true ∧
      fld ((q 2).reg (qReg 0 8)) 0 4 = 1 ∧ (after .qtail (q 2)).qTail 0 = 2 ∧ (after .qtail (q 3)).qTail 0 = 1 ∧ (after .qtail (q 3)).reg (qReg 0 0x14) = 1 ∧
      (after .qstat ((q 1).setReg (qReg 0 0x14) 1)).reg (qReg 0 0x14) = 0 ∧ fld ((q 1).reg 0x200008) 0 4 = 0 ∧ (after .iqtail (q 1)).reg 0x200014 = 1 ∧
      (after .thcfg (s { idx := 5, size := 8, val := 0x0398_0361_0321 })).reg 0x500580 = 0x0398_0360_0320 ∧
      (after .pwrcfg (s { idx := 0, size := 4, val := 0x0000_0001, host := false })).reg 0x500800 = 0x0001_04B0 ∧
      (after .mgmtRegWrite (s { idx := 0x1000, size := 8, val := 0x8000, host := false })).reg 0x1000 = 0x8000 ∧ paPkg 0x8000 = (s { idx := 0 }).myPkg ∧ paRegion 0x8000 = 0 ∧
      ((p 5).parkedCtx 5).map (fun x => x.1) = some 0 ∧ (after .pfack (p 5)).me.wait = .run ∧ (after .pfack (p (5 + 2 ^ 48))).me.wait = .probe 0x4000_0000 1 true true ∧
      (after .pfack (p (5 + 2 * 2 ^ 48))).me.mode = .ended ∧ (after .errdrop ((q 0).setReg 0x1058 3)).hostIn = [3, 0, 0, 0] ∧ (after .errdrop ((q 0).setReg 0x1058 3)).reg 0x1058 = 0) := by decide +kernel

/-- A new HOSTOFF of 2^39: bus address 1 has left the window, and 2^39 + 1 is in its place (R406). -/
theorem wit_RegisterWrites_window : (let base := 2 * 2 ^ 39
    let s := ({ queueS 1 with mem := [(base + 1, 7)], hostMem := [(2 ^ 39 + 1, 9)], inbox := [{ idx := 0x1018, size := 8, val := 0x80_0000_0000, host := false }] } : State)
    Store.wf s.mreg = true ∧ s.booted = true ∧ Memory.wf s.mem = true ∧ Store.wf s.hostMem = true ∧ s.myPkg = 0 ∧ (s.reg 0x1018).toNat = 0 ∧
      (after .mgmtRegWrite s).reg 0x1018 = 0x80_0000_0000 ∧ (after .mgmtRegWrite s).mem = [(base + 1, 9)] ∧ (after .mgmtRegWrite s).hostMem = [(1, 7)]) := by decide +kernel

/-- A queue whose write is at 8 bytes while its QCFG.HEN bit 11 is set (R423). -/
theorem wit_RegisterWrites_queue : (let s := ({ queueS 1 with inbox := [{ idx := 0x100000, size := 8, val := 0x8000 }] } : State).setReg (qReg 0 8) 0x801
    (s.reg (0x100000 + 8)).getLsbD 11 = true ∧ (after .mgmtRegWrite s).reg 0x100000 = 0x8000) := by decide +kernel

/-! ### Invariants -/

theorem wit_MemCanonical : Memory.wf (queueS 1).mem = true ∧ (match step { queueS 1 with agenda := [.schedulerPass] } with
    | .next t => Memory.wf t.mem
    | _ => false) = true := by decide +kernel

theorem test_reset : State.reset.reg 0x500580 = 0x0398_0360_0320 ∧ State.reset.reg 0x500800 = 0x0030_0960 ∧ (State.reset.ctx 3).mode = .free ∧
    State.reset.me.arch.rk 0 = BitVec.allOnes 128 ∧ State.reset.me.arch.rg 0 = true := by decide +kernel
end Sys2Proof.Tests
end

section
/-! SUPPORT. The operations that leave memory at home as it is: with the `_mem` lemmas of Laws/State.lean the frame of memory, operation by
operation, in the order of the model. -/

set_option Elab.async false

namespace Sys2Proof.Laws

open Sys2Proof Sys2Proof.Machine

/-! ### Branches and folds -/

@[simp] theorem ite_mem_eq {p : Prop} [Decidable p] {a b : State} {m : Store 8} :
    (if p then a else b).mem = m ↔ (p → a.mem = m) ∧ (¬p → b.mem = m) := by split <;> simp [*]

/-- A fold of operations that leave memory as it is leaves it so. -/
@[simp] theorem foldl_mem {β : Type} {f : State → β → State} (hf : ∀ u b, (f u b).mem = u.mem) (l : List β) (s : State) :
    (l.foldl f s).mem = s.mem :=
  foldl_keeps (fun u => u.mem = s.mem) f (fun u b hu => (hf u b).trans hu) l s rfl

section
variable (s : State)

/-! ### Operations that answer a state -/

@[simp] theorem copyReleases_mem (k : Cmd) : (s.copyReleases k).mem = s.mem := by simp [State.copyReleases]
@[simp] theorem stopAt_mem (c : Fin 4) : (s.stopAt c).mem = s.mem := by simp [State.stopAt]
@[simp] theorem meets_mem (b : BadWord) (lid : BitVec 32) : (s.meets b lid).mem = s.mem := rfl
@[simp] theorem spWrite_mem (cells : List (Nat × Byte)) : (s.spWrite cells).mem = s.mem := rfl
@[simp] theorem spPut_mem (key : Nat) (bs : List Byte) : (s.spPut key bs).mem = s.mem := rfl
@[simp] theorem hit_mem (lid : BitVec 32) (code : Byte) (w : Option BadWord) : (s.hit lid code w).mem = s.mem := by
  unfold State.hit; split <;> simp
@[simp] theorem walkHit_mem (c : Fin 4) (code : Byte) (vas : List Nat) : (s.walkHit c code vas).mem = s.mem := by simp [State.walkHit]
@[simp] theorem ensureCkpt_mem : s.ensureCkpt.mem = s.mem := by simp [State.ensureCkpt]
@[simp] theorem enter_mem (held : Bool) (a : Acc) : (s.enter held a).mem = s.mem := by simp [State.enter]
@[simp] theorem enterLoad_mem (k pos : Nat) (a : Acc) : (s.enterLoad k pos a).mem = s.mem := by simp [State.enterLoad]
@[simp] theorem enterAtomic_mem (a : Acc) : (s.enterAtomic a).1.mem = s.mem := by unfold State.enterAtomic; split <;> simp
@[simp] theorem acquire_mem (sc : Nat) : (s.acquire sc).mem = s.mem := rfl
@[simp] theorem takeTicket_mem (sc : Nat) : (s.takeTicket sc).1.mem = s.mem := by unfold State.takeTicket; split <;> simp
@[simp] theorem tileStall_mem : s.tileStall.mem = s.mem := by simp [State.tileStall]
@[simp] theorem nextWord_mem (r : CallRun) : (s.nextWord r).mem = s.mem := rfl
@[simp] theorem putAccRow_mem (t row : Nat) (ws : List W32) : (s.putAccRow t row ws).mem = s.mem := by simp [State.putAccRow]
@[simp] theorem landX_mem (f : XF) (k g : Nat) (xs : List W32) (fl : BitVec 6) : (s.landX f k g xs fl).mem = s.mem := by simp [State.landX]
@[simp] theorem putAcc_mem (a : Nat) (ws : List W32) : (s.putAcc a ws).mem = s.mem := by simp [State.putAcc]
@[simp] theorem putAccSeg_mem (t row c : Nat) (ws : List W32) : (s.putAccSeg t row c ws).mem = s.mem := by simp [State.putAccSeg]
@[simp] theorem race_mem : s.race.1.mem = s.mem := rfl
@[simp] theorem queueCmd_mem (f : EF) (e : Engine) (op : Nat) (d : List Byte) (k : CollRun) : (s.queueCmd f e op d k).mem = s.mem := by
  simp [State.queueCmd]
@[simp] theorem jumpWord_mem (r : CallRun) (t : Nat) : (s.jumpWord r t).mem = s.mem := rfl
@[simp] theorem nextEpi_mem (r : CallRun) (e : EpiRun) : (s.nextEpi r e).mem = s.mem := rfl
@[simp] theorem goto_mem (t : Nat) : (s.goto t).mem = s.mem := by simp [State.goto]
@[simp] theorem enterLoop_mem (f : SF) (l : LoopReg) : (s.enterLoop f l).mem = s.mem := by simp [State.enterLoop]
@[simp] theorem setHasp_mem (k : Nat) (h : Hasp) : (s.setHasp k h).mem = s.mem := rfl
@[simp] theorem arrive_mem (c : Fin 4) (k : Nat) : (s.arrive c k).mem = s.mem := rfl
@[simp] theorem leaveHasps_mem (c : Fin 4) : (s.leaveHasps c).mem = s.mem := rfl
@[simp] theorem sstepGo_mem (c : Fin 4) : (s.sstepGo c).mem = s.mem := by unfold State.sstepGo; split <;> simp
@[simp] theorem swaitDone_mem (c : Fin 4) (n : BitVec 8) (t : Nat) (acq : Bool) : (s.swaitDone c n t acq).mem = s.mem := by
  simp [State.swaitDone]
@[simp] theorem devHit_mem (lid : BitVec 32) (code : Byte) (a : Arch) (asid : BitVec 16) (need : Need) (va n : Nat) :
    (s.devHit lid code a asid need va n).mem = s.mem := by
  simp [State.devHit]
@[simp] theorem leavesNode_mem (c : Fin 4) : (s.leavesNode c).mem = s.mem := by simp [State.leavesNode]
@[simp] theorem endNow_mem (c : Fin 4) : (s.endNow c).mem = s.mem := by simp [State.endNow]
@[simp] theorem reachBanks_mem (rs : List BankReq) : (s.reachBanks rs).mem = s.mem := rfl
@[simp] theorem toBanks_mem (c : Fin 4) (a : Acc) : (s.toBanks c a).mem = s.mem := rfl
@[simp] theorem bankAcc_mem (op : Nat) (w : W32) (key n v : Nat) : (s.bankAcc op w key n v).1.mem = s.mem := by simp [State.bankAcc]
@[simp] theorem refresh_mem (cells : List (Nat × Byte)) : (s.refresh cells).mem = s.mem := rfl
@[simp] theorem toHome_mem (c : Fin 4) (as : List Acc) : (s.toHome c as).mem = s.mem := by simp [State.toHome]
@[simp] theorem farWords_mem (c : Fin 4) : (s.farWords c).1.mem = s.mem := by unfold State.farWords; split <;> simp
@[simp] theorem serveSkqry_mem (c : Fin 4) (a : Acc) : (s.serveSkqry c a).mem = s.mem := by simp [State.serveSkqry]
@[simp] theorem leaveQueue_mem (c : Fin 4) (a : Acc) : (s.leaveQueue c a).mem = s.mem := by simp [State.leaveQueue]
@[simp] theorem dropBytes_mem (bs : List StByte) : (s.dropBytes bs).mem = s.mem := rfl
@[simp] theorem semClear_mem (n : BitVec 8) : (s.semClear n).mem = s.mem := rfl
@[simp] theorem farSettle_mem (k : Nat) : (s.farSettle k).mem = s.mem := by simp [State.farSettle]
@[simp] theorem modCmd_mem (c : Fin 4) (k : Cmd) (f : Cmd → Cmd) : (s.modCmd c k f).mem = s.mem := by simp [State.modCmd]
@[simp] theorem modColl_mem (c : Fin 4) (k : Cmd) (f : CollRun → CollRun) : (s.modColl c k f).mem = s.mem := by simp [State.modColl]
@[simp] theorem tell_mem (k : Cmd) (r : Nat) (w : WireWhat) : (s.tell k r w).mem = s.mem := by simp [State.tell]
@[simp] theorem noChunks_mem (comm : BitVec 12) (seq : BitVec 32) : (s.noChunks comm seq).mem = s.mem := rfl
@[simp] theorem lookSrc_mem (c : Fin 4) (k : Cmd) (es : List Nat) : (s.lookSrc c k es).mem = s.mem := by
  unfold State.lookSrc; split <;> simp
@[simp] theorem collTimed_mem (c : Fin 4) (k : Cmd) : (s.collTimed c k).mem = s.mem := by simp [State.collTimed]
@[simp] theorem keepLayout_mem (k : Cmd) (es : List (Nat × Nat)) : (s.keepLayout k es).mem = s.mem := rfl
@[simp] theorem sendDigests_mem (k : Cmd) : (s.sendDigests k).mem = s.mem := by simp [State.sendDigests]
@[simp] theorem modAway_mem (c : Fin 4) (id : BitVec 16) (f : CollRun → CollRun) : (s.modAway c id f).mem = s.mem := rfl
@[simp] theorem chunkDone_mem (c : Fin 4) (k : Cmd) : (s.chunkDone c k).mem = s.mem := by simp [State.chunkDone]
@[simp] theorem copyClaims_mem (k : Cmd) : (s.copyClaims k).mem = s.mem := by simp [State.copyClaims]
@[simp] theorem sketchSat_mem (c : Fin 4) (k : Cmd) (pa : Nat) : (s.sketchSat c k pa).mem = s.mem := rfl
@[simp] theorem trap_mem (c : Fin 4) : (s.trap c).mem = s.mem := by simp [State.trap]
@[simp] theorem wantOff_mem (lid : BitVec 32) : (s.wantOff lid).mem = s.mem := by simp [State.wantOff]
@[simp] theorem noteEnded_mem (e : Ended) : (s.noteEnded e).mem = s.mem := rfl
@[simp] theorem startHasps_mem (d : List Byte) : (s.startHasps d).mem = s.mem := by simp [State.startHasps]
@[simp] theorem startShares_mem (d : List Byte) : (s.startShares d).mem = s.mem := rfl
@[simp] theorem admitted_mem : s.admitted.mem = s.mem := rfl
@[simp] theorem comeBack_mem (p : Fin 4 × Context) : (s.comeBack p).mem = s.mem := by simp [State.comeBack]
@[simp] theorem post_mem (va : Addr) (asid : BitVec 16) (level count : Nat) (host : Bool) : (s.post va asid level count host).mem = s.mem :=
  rfl
@[simp] theorem setGroup_mem (g : Nat) (x : Group) : (s.setGroup g x).mem = s.mem := rfl
@[simp] theorem stampSub_mem (g : Nat) (b : McSub) : (s.stampSub g b).mem = s.mem := rfl
@[simp] theorem modSub_mem (g : Nat) (b : McSub) (f : McSub → McSub) : (s.modSub g b f).mem = s.mem := rfl
@[simp] theorem dropSub_mem (g : Nat) (b : McSub) : (s.dropSub g b).mem = s.mem := rfl
@[simp] theorem noteSubmitted_mem (g : Nat) : (s.noteSubmitted g).mem = s.mem := rfl
@[simp] theorem startTest_mem (u : UnitRef) (cause : TestCause) (count : Nat) (whole : Bool) : (s.startTest u cause count whole).mem = s.mem :=
  rfl
@[simp] theorem noteCorrected_mem (u : UnitRef) (cause : TestCause) : (s.noteCorrected u cause).mem = s.mem := by
  simp [State.noteCorrected]
@[simp] theorem fenceCore_mem : s.fenceCore.mem = s.mem := by simp [State.fenceCore]
@[simp] theorem keepBad_mem (u : UnitRef) (w : Option WordRef) : (s.keepBad u w).mem = s.mem := by unfold State.keepBad; split <;> simp
@[simp] theorem dropStore_mem (c : Fin 4) (id : Nat) : (s.dropStore c id).mem = s.mem := by simp [State.dropStore]
@[simp] theorem fenceTime_mem (from_ : W64) : (s.fenceTime from_).mem = s.mem := rfl
@[simp] theorem haltCtx_mem (c : Fin 4) : (s.haltCtx c).mem = s.mem := by simp [State.haltCtx]
@[simp] theorem haltPackage_mem (code : Nat) : (s.haltPackage code).mem = s.mem := by simp [State.haltPackage]
@[simp] theorem evaluate_mem : s.evaluate.mem = s.mem := by simp [State.evaluate]
@[simp] theorem setDebt_mem (bank d : Nat) : (s.setDebt bank d).mem = s.mem := rfl
@[simp] theorem endHolds_mem (which : Launch → Bool) : (s.endHolds which).mem = s.mem := by simp [State.endHolds]
@[simp] theorem enterLaunches_mem (n tail : Nat) : (s.enterLaunches n tail).mem = s.mem := rfl
@[simp] theorem hartTrap_mem : s.hartTrap.mem = s.mem := rfl
@[simp] theorem asHart_mem (n : Fin 8) : (s.asHart n).mem = s.mem := rfl
@[simp] theorem settleWaits_mem : s.settleWaits.mem = s.mem := by simp [State.settleWaits]
@[simp] theorem laterOn_mem : s.laterOn.mem = s.mem := rfl
@[simp] theorem tlbFill_mem (asid : BitVec 16) (va : Nat) : (s.tlbFill asid va).mem = s.mem := by
  unfold State.tlbFill
  split
  · rfl
  · split <;> rfl
@[simp] theorem tlbFillAll_mem (asid : BitVec 16) (vas : List Nat) : (s.tlbFillAll asid vas).mem = s.mem := by simp [State.tlbFillAll]
@[simp] theorem tlbFills_mem (vas : List Nat) : (s.tlbFills vas).mem = s.mem := by simp [State.tlbFills]
@[simp] theorem enterStore_mem (cls : BitVec 4) (n route : Nat) (vas : List Nat) (ts : List Tr) (xs : List W32) (sig : Option (List Nat)) :
    (s.enterStore cls n route vas ts xs sig).mem = s.mem := by simp [State.enterStore]
@[simp] theorem freeShare_mem (c : Fin 4) : (s.freeShare c).mem = s.mem := foldl_mem (fun _ _ => by rfl) _ _
@[simp] theorem unprepare_mem (c : Fin 4) : (s.unprepare c).mem = s.mem := by
  refine foldl_mem (fun u k => ?_) _ _
  split
  · exact foldl_mem (fun _ _ => by rfl) _ _
  · rfl
@[simp] theorem reclaim_mem (c : Fin 4) : (s.reclaim c).mem = s.mem := by simp [State.reclaim]
@[simp] theorem restoreShare_mem (c : Fin 4) (b : List Byte) : (restoreShare s c b).mem = s.mem := by
  unfold restoreShare
  dsimp only
  rw [spPut_mem, foldl_mem (fun _ _ => by rfl), foldl_mem (fun _ _ => by rfl)]
@[simp] theorem restoreColls_mem (c : Fin 4) (b : List Byte) : (restoreColls s c b).mem = s.mem := by
  unfold restoreColls
  dsimp only
  rw [foldl_mem (fun u p => ?_), setCtx_mem]
  rw [foldl_mem (fun _ _ => by rfl)]
  split
  · rfl
  · exact foldl_mem (fun _ _ => by rfl) _ _
@[simp] theorem collReleases_mem (k : Cmd) : (s.collReleases k).mem = s.mem := by
  unfold State.collReleases
  split
  · rfl
  · exact foldl_mem (fun _ _ => by rfl) _ _
@[simp] theorem ackSub_mem (b : McSub) : (s.ackSub b).mem = s.mem := by
  unfold State.ackSub
  split
  · rfl
  · split <;> simp
@[simp] theorem readHead_mem (n : Nat) : (s.readHead n).mem = s.mem := by
  unfold State.readHead
  dsimp only
  split
  · rfl
  · split <;> simp
@[simp] theorem advance_mem (n : Nat) : (s.advance n).mem = s.mem := by simp [State.advance]
@[simp] theorem readIq_mem : s.readIq.mem = s.mem := by
  unfold State.readIq
  dsimp only
  split
  · rfl
  · split <;> simp
@[simp] theorem testOutcome_mem (u : UnitRef) (pass : Bool) : (s.testOutcome u pass).1.mem = s.mem := by
  unfold State.testOutcome
  dsimp only
  split
  · rfl
  · split
    · rfl
    · split <;> rfl
@[simp] theorem hartStep_mem : s.hartStep.2.mem = s.mem := by
  unfold State.hartStep
  split <;> rfl
@[simp] theorem picked_mem : s.picked.2.mem = s.mem := by
  unfold State.picked
  dsimp only
  split <;> simp

end

/-! ### Operations that may fail: what they answer has memory as it was -/

section
variable {s t : State}

theorem semSignal_mem {n : BitVec 8} {inc : Nat} (e : s.semSignal n inc = some t) : t.mem = s.mem := by
  simp only [State.semSignal, Option.ite_none_left_eq_some, Option.some.injEq] at e
  rw [← e.2]

theorem takeWrite_mem {w : RegWrite} (e : s.takeWrite = some (w, t)) : t.mem = s.mem := by
  unfold State.takeWrite at e
  split at e <;> cases e
  rfl

theorem countAll_mem {s0 : State} {keys : List Nat} : ∀ {ks : List Nat} {s t : State}, s.countAll s0 keys ks = some t → t.mem = s.mem
  | [], _, _, e => by cases e; rfl
  | k :: ks, s, t, e => by
    unfold State.countAll at e
    split at e
    · exact (countAll_mem e).trans (setTile_mem _ _ _)
    · cases e

theorem countedOf_mem {lid : BitVec 32} {keys : List Nat} (e : s.countedOf lid keys = .ok t) : t.mem = s.mem := by
  unfold State.countedOf at e
  split at e
  · cases e
  · split at e
    · next h => cases e; exact countAll_mem h
    · cases e

theorem counted_mem {c : Fin 4} {keys : List Nat} (e : s.counted c keys = .ok t) : t.mem = s.mem := countedOf_mem e

theorem fillWrite_mem {c : Fin 4} {cells : List (Nat × Byte)} (e : s.fillWrite c cells = .got t) : t.mem = s.mem := by
  unfold State.fillWrite at e
  dsimp only at e
  split at e
  · cases e
  · split at e
    · cases e
    · split at e
      · next h => cases e; simpa using counted_mem h
      · cases e

theorem placeElems_mem {c : Fin 4} {k : Cmd} {es : List (Nat × Nat)} (e : s.placeElems c k es = .ok t) : t.mem = s.mem := by
  unfold State.placeElems at e
  dsimp only at e
  split at e
  · cases e; simp
  · split at e
    · next h => cases e; simpa using counted_mem h
    · cases e

theorem prepareTile_mem {c : Fin 4} {k : Cmd} {n : Nat} {h : Chunk} (e : s.prepareTile c k n h = .ok t) : t.mem = s.mem := by
  unfold State.prepareTile at e
  dsimp only at e
  split at e
  · cases e; rfl
  · split at e
    · next h => cases e; simpa using counted_mem h
    · cases e

theorem remoteOk_mem {ts : List Tr} (e : s.remoteOk ts = .ok t) : t.mem = s.mem := by
  unfold State.remoteOk at e
  split at e
  · split at e <;> cases e
    simp
  · cases e; rfl

theorem gathGroup_mem {f : VF} {k g : Nat} (e : gathGroup f k s g = .ok t) : t.mem = s.mem := by
  unfold gathGroup at e
  dsimp only at e
  split at e
  · split at e
    · cases e
    · split at e
      · cases e
      · next h => cases e; simpa using remoteOk_mem h
  · split at e <;> cases e
    simp

theorem scatGroup_mem {f : VF} {k g : Nat} (e : scatGroup f k s g = .ok t) : t.mem = s.mem := by
  unfold scatGroup at e
  dsimp only at e
  split at e <;> split at e <;> cases e <;> simp

theorem scaleRec_mem {c : Fin 4} {tid block va : Nat} {v : Half} (e : s.scaleRec c tid block va = .got (t, v)) : t.mem = s.mem := by
  unfold State.scaleRec at e
  dsimp only at e
  split at e
  · unfold State.gotFault at e
    split at e
    · split at e <;> cases e
    · cases e
  · split at e
    · cases e
    · split at e <;> cases e
      simp
  · split at e
    · cases e
    · split at e <;> split at e <;> cases e <;> rfl

theorem scaleRow_mem {c : Fin 4} {fmt base : Nat} : ∀ {n off : Nat} {s t : State} {vs : List Half},
    s.scaleRow c fmt base n off = .got (t, vs) → t.mem = s.mem
  | 0, _, _, _, _, e => by cases e; rfl
  | n + 1, off, s, t, vs, e => by
    unfold State.scaleRow at e
    dsimp only at e
    split at e
    · cases e
    · split at e
      · cases e
      · cases e
      · cases e
      · next hr =>
        split at e
        · cases e
        · cases e
        · cases e
        · next hs => cases e; exact (scaleRow_mem hs).trans (scaleRec_mem hr)

theorem readRow_mem {r : CallRun} {src : Src} {off n : Nat} {p : List Byte × List Half} (e : readRow s r src off n = .got (t, p)) :
    t.mem = s.mem := by
  unfold readRow at e
  split at e
  · cases e
  · cases e
  · cases e
  · split at e
    · cases e; rfl
    · split at e
      · cases e
      · split at e
        · cases e
        · split at e
          · cases e
          · cases e
          · cases e
          · next h => cases e; exact scaleRow_mem h

theorem readRows_mem {r : CallRun} {src : Src} {n : Nat} : ∀ {k : Nat} {off : W64} {s t : State} {p : List (List Byte) × List (List Half)},
    readRows s r src n k off = .got (t, p) → t.mem = s.mem
  | 0, _, _, _, _, e => by cases e; rfl
  | k + 1, off, s, t, p, e => by
    unfold readRows at e
    split at e
    · cases e
    · cases e
    · cases e
    · next hr =>
      split at e
      · cases e
      · cases e
      · cases e
      · next hs => cases e; exact (readRows_mem hs).trans (readRow_mem hr)

theorem aRow_mem {r : CallRun} {a : ASource} {imm : BitVec 24} {i n : Nat} {vs : List FV} (e : aRow s r a imm i n = .got (t, vs)) :
    t.mem = s.mem := by
  unfold aRow at e
  split at e
  · split at e
    · cases e
    · cases e
    · cases e
    · next h => cases e; exact readRow_mem h
  · dsimp only at e
    split at e <;> cases e
    rfl

theorem runRows_mem {r : CallRun} {a : ASource} {bk : Bank} {w : List (List FV)} {sparse int : Bool} {f : WF} {n : Nat} :
    ∀ {m i : Nat} {s t : State} {p : List (Nat × List W32) × BitVec 6}, runRows r a bk w sparse int f n m i s = .got (t, p) → t.mem = s.mem
  | 0, _, _, _, _, e => by cases e; rfl
  | m + 1, i, s, t, p, e => by
    unfold runRows at e
    dsimp only at e
    split at e
    · cases e
    · cases e
    · cases e
    · next ha =>
      split at e
      · cases e
      · cases e
      · cases e
      · next hr => cases e; exact (runRows_mem hr).trans (aRow_mem ha)

theorem upNext_mem {i : Instr} (e : s.upNext = .ok (i, t)) : t.mem = s.mem := by
  unfold State.upNext at e
  split at e
  · cases e; rfl
  · cases e; rfl
  · cases e; exact hartStep_mem _
  · split at e
    · cases e; rfl
    · split at e
      · cases e
      · simp only [Except.ok.injEq] at e; rw [← picked_mem s, e]

end

end Sys2Proof.Laws
end

section
/-! SUPPORT. The canonical form of memory over what the units share: faults and waits, the buffers in memory (trace, drift, replay,
page faults), operand checks, saves of contexts, and the banks. -/

set_option Elab.async false

namespace Sys2Proof.Laws

open Sys2Proof Sys2Proof.Machine

/-! ### Branches and folds -/

@[simp] theorem ite_mem_wf {p : Prop} [Decidable p] {a b : State} :
    Memory.wf (if p then a else b).mem = true ↔ (p → Memory.wf a.mem = true) ∧ (¬p → Memory.wf b.mem = true) := by split <;> simp [*]

/-- Of two draws, one state each. -/
@[simp] theorem ite_fst_mem_wf {α : Type} {p : Prop} [Decidable p] {a b : State × α} :
    Memory.wf (if p then a else b).1.mem = true ↔ (p → Memory.wf a.1.mem = true) ∧ (¬p → Memory.wf b.1.mem = true) := by split <;> simp [*]

/-- A fold of operations that keep the canonical form keeps it. -/
theorem foldl_wf {β : Type} {f : State → β → State} (hf : ∀ u b, Memory.wf u.mem = true → Memory.wf (f u b).mem = true) (l : List β)
    {s : State} (h : Memory.wf s.mem = true) : Memory.wf (l.foldl f s).mem = true :=
  foldl_keeps (fun u => Memory.wf u.mem = true) f hf l s h

section
variable {s : State} (h : Memory.wf s.mem = true)
include h

/-! ### Faults and operand checks -/

theorem callMeets_wf (r : CallRun) (b : BadWord) : Memory.wf (s.callMeets r b).mem = true := callFault_wf r _ h

theorem fetchFault_wf (e : Byte) : Memory.wf (s.fetchFault e).mem = true := issueFault_wf e (by simpa using h)

theorem accFault_wf (code : Byte) (vas : List Nat) : Memory.wf (s.accFault code vas).mem = true := issueFault_wf code (by simpa using h)

theorem nodeFault_wf (c : Fin 4) (idx : Nat) (e : Byte) : Memory.wf (s.nodeFault c idx e).mem = true := fatal_wf c e _ _ (by simpa using h)

theorem jumpTo_wf (v : W64) : Memory.wf (jumpTo v s).mem = true := by simp [jumpTo, issueFault_wf, h]

theorem endBare_wf (lid : BitVec 32) (code : Byte) : Memory.wf (s.endBare lid code).mem = true := endLaunch_wf lid _ h

theorem needQ_wf (q : Nat) {go : State} (hg : Memory.wf go.mem = true) : Memory.wf (s.needQ q go).mem = true := by
  simp [State.needQ, issueFault_wf, h, hg]

theorem needSrc_wf (code : Nat) {go : State} (hg : Memory.wf go.mem = true) : Memory.wf (s.needSrc code go).mem = true := by
  simp [State.needSrc, needQ_wf, h, hg]

theorem needRnd_wf (uses : Bool) {go : State} (hg : Memory.wf go.mem = true) : Memory.wf (s.needRnd uses go).mem = true := by
  simp [State.needRnd, h, hg]

theorem aligned_wf (a : W64) (n : Nat) {go : State} (hg : Memory.wf go.mem = true) : Memory.wf (aligned a n s go).mem = true := by
  simp [aligned, issueFault_wf, h, hg]

theorem oReads_wf (as : List Nat) {eff : State} (he : Memory.wf eff.mem = true) : Memory.wf (s.oReads as eff).mem = true := by
  unfold State.oReads
  split
  · exact metBy_wf _ _ _ h
  · exact he

theorem trReady_wf (f : VF) (bs : List Nat) {go : State} (hg : Memory.wf go.mem = true) : Memory.wf (trReady f s bs go).mem = true := by
  unfold trReady
  split
  · exact hg
  · split
    · exact issueFault_wf _ h
    · simp [h, hg]

theorem pushQ_wf (q k : Nat) (e : QEntry) (tok : Nat) : Memory.wf (s.pushQ q k e tok).mem = true := by
  simp [State.pushQ, issueFault_wf, h]

theorem skipBody_wf (f : SF) {eff : State → State} (he : ∀ u : State, Memory.wf u.mem = true → Memory.wf (eff u).mem = true) :
    Memory.wf (skipBody f s eff).mem = true := by
  unfold skipBody
  split
  · exact he _ (by simpa using h)
  · exact fatal_wf _ _ _ _ (by simpa using h)

theorem tileOnce_wf {eff : State → State} (he : Memory.wf (eff s).mem = true) : Memory.wf (s.tileOnce eff).mem = true := by
  simp [State.tileOnce, h, he]

/-! ### The buffers in memory -/

theorem logFault_wf (c : Fin 4) (r : LogRec) (code : Byte) (va : Nat) : Memory.wf (s.logFault c r code va).mem = true :=
  fatal_wf c _ _ _ (by simpa using h)

theorem logPut_wf (c : Fin 4) (r : LogRec) : Memory.wf (s.logPut c r).mem = true := by
  unfold State.logPut
  dsimp only
  split
  · exact logFault_wf h _ _ _ _
  · split
    · exact logFault_wf (memPut_wf _ _ h) _ _ _ _
    · exact memPut_wf _ _ (memPut_wf _ _ h)

theorem logTry_wf (c : Fin 4) (r : LogRec) : Memory.wf (s.logTry c r).mem = true := by simp [State.logTry, logPut_wf, h]

theorem logAppend_wf (c : Fin 4) (base logn : Nat) (bs : List Byte) (bundle : Nat) : Memory.wf (s.logAppend c base logn bs bundle).mem = true :=
  logTry_wf h c _

theorem logRetry_wf (c : Fin 4) : Memory.wf (s.logRetry c).mem = true := foldl_wf (fun _ r hu => logTry_wf hu c r) _ (by simpa using h)

theorem driftAppend_wf (c : Fin 4) (kind : Nat) (drift : Int) (bundle : Nat) : Memory.wf (s.driftAppend c kind drift bundle).mem = true := by
  simp [State.driftAppend, logAppend_wf, h]

theorem traceAppend_wf (c : Fin 4) (kind : Nat) : Memory.wf (s.traceAppend c kind).mem = true := by
  simp [State.traceAppend, logAppend_wf, h]

theorem traceTick_wf (c : Fin 4) (bundle : Nat) : Memory.wf (s.traceTick c bundle).mem = true := by
  refine foldl_wf (fun u d hu => by simpa using hu) _ ?_
  simp [traceAppend_wf, h]

theorem sampleCtx_wf (c : Fin 4) : Memory.wf (s.sampleCtx c).mem = true := by
  simp [State.sampleCtx, traceAppend_wf, h]

theorem rplAppend_wf (c : Fin 4) (kind : Nat) (v : W64) (bundle : Nat) : Memory.wf (s.rplAppend c kind v bundle).mem = true := by
  unfold State.rplAppend
  dsimp only
  split
  · exact h
  · split <;> simp [memPut_wf, h]

theorem input_wf (c : Fin 4) (kind : Nat) (v : W64) (bundle : Option Nat) : Memory.wf (s.input c kind v bundle).1.mem = true := by
  unfold State.input
  split
  · exact h
  · exact rplAppend_wf h _ _ _ _
  · split <;> simp [h]

theorem dropRpl_wf (lid : BitVec 32) : Memory.wf (s.dropRpl lid).mem = true := by
  refine foldl_wf (fun u p hu => by simp [memPut_wf, hu]) _ ?_
  exact foldl_wf (fun u c hu => by simp [memPut_wf, hu]) _ h

theorem markSig_wf (c : Fin 4) : Memory.wf (s.markSig c).mem = true := by
  have hr := input_wf h c kSIG (s.ctx c).sig none
  simp [State.markSig, fatal_wf, dropRpl_wf, h, hr]

theorem scTicket_wf (sc : Nat) : Memory.wf (s.scTicket sc).1.mem = true := input_wf (by simpa using h) _ _ _ _

theorem sliceWord_wf (c : Fin 4) (pa bundle : Nat) : Memory.wf (s.sliceWord c pa bundle).1.mem = true := input_wf (by simpa using h) _ _ _ _

theorem noticeIn_wf (b : Bundle) : Memory.wf (s.noticeIn b).mem = true := by
  unfold State.noticeIn
  split
  · exact h
  · split
    · simp [input_wf, h]
    · exact h

theorem pfAppend_wf (c : Fin 4) (va : Addr) (kind : BitVec 2) : Memory.wf (s.pfAppend c va kind).mem = true := by
  simp [State.pfAppend, memPut_wf, h]

theorem park_wf (va : Addr) (kind : BitVec 2) : Memory.wf (s.park va kind).mem = true := by
  simp [State.park, issueFault_wf, pfAppend_wf, h]

theorem parkedAppend_wf (c : Fin 4) : Memory.wf (s.parkedAppend c).mem = true := by
  unfold State.parkedAppend
  split
  · simp [pfAppend_wf, h]
  · exact h

theorem errAppend_wf (bs : List Byte) : Memory.wf (s.errAppend bs).mem = true := by simp [State.errAppend, memPut_wf, h]

/-! ### Contexts: the end of a tick, saves and restores -/

theorem saveCtx_wf (c : Fin 4) : Memory.wf (s.saveCtx c).mem = true := by
  have hu : Memory.wf (s.unprepare c).mem = true := by simpa using h
  unfold State.saveCtx
  dsimp only
  split
  · exact nodeFault_wf hu _ _ _
  · split
    · exact fatal_wf _ _ _ _ (by simpa using h)
    · next e => simpa using vaWrite_wf e hu

theorem savePeers_wf (c : Fin 4) : Memory.wf (s.savePeers c).mem = true := by
  have hp : Memory.wf ((s.peersOf c).foldl State.leavesNode s).mem = true := by simpa using h
  simp only [State.savePeers, ite_mem_wf]
  exact ⟨fun _ => foldl_wf (fun u d hu => by simp [saveCtx_wf, hu]) _ hp, fun _ => hp⟩

theorem nodeDone_wf (c : Fin 4) (idx : BitVec 12) (live : BitVec 4) : Memory.wf (s.nodeDone c idx live).mem = true := by
  unfold State.nodeDone
  dsimp only
  split
  · exact nodeFault_wf h _ _ _
  · simp [h]

theorem settle_wf (c : Fin 4) : Memory.wf (s.settle c).mem = true := by
  unfold State.settle
  dsimp only
  generalize (s.ctx c).wait = w
  cases w <;> simp [savePeers_wf, nodeDone_wf, h]

theorem endTick_wf (c : Fin 4) : Memory.wf (s.endTick c).mem = true := settle_wf (by simpa using h) c

theorem restoreCtx_wf (c : Fin 4) (g : W64) : Memory.wf (s.restoreCtx c g).mem = true := by
  unfold State.restoreCtx
  dsimp only
  split
  · exact fatal_wf _ _ _ _ (by simpa using h)
  · simp [fatal_wf, h]

/-! ### The banks of the scratchpads -/

theorem bankFault_wf (r : BankReq) (code : Byte) : Memory.wf (s.bankFault r code).mem = true := by
  unfold State.bankFault
  split
  · exact endLaunch_wf _ _ h
  · exact fatal_wf _ _ _ _ h

theorem bankMeets_wf (r : BankReq) (b : BadWord) : Memory.wf (s.bankMeets r b).mem = true := bankFault_wf (s := s.meets b _) h _ _

theorem serveBank_wf (r : BankReq) : Memory.wf (s.serveBank r).mem = true := by
  unfold State.serveBank
  dsimp only
  split
  · exact bankMeets_wf h _ _
  · split
    · simp [h]
    · split
      · next e => simp [countedOf_mem e, h]
      · exact bankFault_wf h _ _

end

end Sys2Proof.Laws
end

section
/-! SUPPORT. The canonical form of memory over what the engines, the home agents, the collectives, multicast, the self-tests and the
launches do. -/

set_option Elab.async false

namespace Sys2Proof.Laws

open Sys2Proof Sys2Proof.Machine

section
variable {s : State} (h : Memory.wf s.mem = true)
include h

/-! ### Engine commands -/

theorem cmdFault_wf (c : Fin 4) (k : Cmd) (code : Byte) : Memory.wf (s.cmdFault c k code).mem = true := by
  refine fatal_wf _ _ _ _ ?_
  split <;> simpa using h

theorem cmdErr_wf (c : Fin 4) (k : Cmd) (code : Byte) (vas : List Nat) : Memory.wf (s.cmdErr c k code vas).mem = true :=
  cmdFault_wf (by simpa using h) _ _ _

theorem orMeets_wf (c : Fin 4) (k : Cmd) (b : Option BadWord) {go : State} (hg : Memory.wf go.mem = true) :
    Memory.wf (s.orMeets c k b go).mem = true := by
  unfold State.orMeets
  split
  · exact cmdFault_wf (by simpa using h) _ _ _
  · exact hg

theorem orFault_wf (c : Fin 4) (k : Cmd) {r : Except Byte State} {go : State → State} (hr : ∀ t, r = .ok t → Memory.wf (go t).mem = true) :
    Memory.wf (s.orFault c k r go).mem = true := by
  unfold State.orFault
  split
  · exact hr _ rfl
  · exact cmdFault_wf h _ _ _

theorem elemWrite_wf (c : Fin 4) (k : Cmd) (p : Machine.Place) (bs : List Byte) : Memory.wf (s.elemWrite c k p bs).1.mem = true := by
  unfold State.elemWrite
  dsimp only
  split
  · simp [memWrite_wf, h]
  · split
    · simp [h]
    · exact memPut_wf _ _ (by simp [sliceWord_wf, h])

theorem copyElem_wf (c : Fin 4) (k : Cmd) : Memory.wf (s.copyElem c k).mem = true := by
  unfold State.copyElem
  dsimp only
  split
  · exact cmdErr_wf h _ _ _ _
  · split
    · exact cmdErr_wf h _ _ _ _
    · split
      · exact h
      · refine orMeets_wf h _ _ _ ?_
        split
        · split
          · next e => simp [elemWrite_wf, counted_mem e, h]
          · exact cmdFault_wf h _ _ _
        · simp [elemWrite_wf, h]

theorem loadWord_wf (c : Fin 4) (k : Cmd) : Memory.wf (s.loadWord c k).mem = true := by
  unfold State.loadWord
  dsimp only
  split
  · exact cmdErr_wf h _ _ _ _
  · split
    · exact h
    · exact orMeets_wf h _ _ _ (by simp [h])

theorem startSketch_wf (c : Fin 4) (k : Cmd) : Memory.wf (s.startSketch c k).mem = true := by
  unfold State.startSketch
  dsimp only
  split
  · exact cmdFault_wf (by simpa using h) _ _ _
  · split
    · simp [h]
    · split
      · exact cmdFault_wf (by simpa using h) _ _ _
      · simp [cmdFault_wf, h]

theorem startCmd_wf (c : Fin 4) (k : Cmd) : Memory.wf (s.startCmd c k).mem = true := by
  unfold State.startCmd
  dsimp only
  split
  · exact cmdFault_wf h _ _ _
  · split
    · exact startSketch_wf (by simp [h]) _ _
    · simp [h]

theorem skHeadOp_wf (pa fl n : Nat) : Memory.wf (s.skHeadOp pa fl n).mem = true := homePut_wf _ _ (homePut_wf _ _ h)

theorem onHeader_wf (c : Fin 4) (k : Cmd) {go : Nat → State} (hg : ∀ pa, Memory.wf (go pa).mem = true) :
    Memory.wf (s.onHeader c k go).mem = true := by
  unfold State.onHeader
  dsimp only
  split
  · exact cmdErr_wf h _ _ _ _
  · split
    · exact h
    · exact orMeets_wf h _ _ _ (hg _)

theorem sketchEnd_wf (c : Fin 4) (k : Cmd) : Memory.wf (s.sketchEnd c k).mem = true :=
  onHeader_wf h _ _ (fun pa => by simp [skHeadOp_wf, homePut_wf, h])

theorem sketchCounter_wf (c : Fin 4) (k : Cmd) (i : Nat) : Memory.wf (s.sketchCounter c k i).mem = true := by
  unfold State.sketchCounter
  dsimp only
  split
  · exact cmdErr_wf h _ _ _ _
  · exact h
  · split
    · exact h
    · refine orMeets_wf h _ _ _ ?_
      simp only [ite_mem_wf]
      refine ⟨fun _ => ?_, fun _ => ?_⟩
      · simp [homePut_wf, sliceWord_wf, h]
      · split
        · exact cmdErr_wf h _ _ _ _
        · simp [homePut_wf, sliceWord_wf, h]

theorem sketchStep_wf (c : Fin 4) (k : Cmd) : Memory.wf (s.sketchStep c k).mem = true := by
  unfold State.sketchStep
  dsimp only
  split
  · exact sketchEnd_wf h _ _
  · split
    · exact sketchCounter_wf (by exact h) _ _ _
    · exact h

/-! ### Home and the stores -/

theorem serveAmo_wf (c : Fin 4) (a : Acc) : Memory.wf (s.serveAmo c a).mem = true := by
  simp [State.serveAmo, homePut_wf, sliceWord_wf, h]

theorem serveVamo_wf (c : Fin 4) (a : Acc) : Memory.wf (s.serveVamo c a).mem = true :=
  homePut_wf _ _ (by simp [sliceWord_wf, h])

theorem serveSkupd_wf (c : Fin 4) (a : Acc) : Memory.wf (s.serveSkupd c a).mem = true := by
  simp [State.serveSkupd, homePut_wf, skHeadOp_wf, h]

theorem serve_wf (op : HomeOp) : Memory.wf (s.serve op).mem = true := by
  unfold State.serve
  split
  · exact serveAmo_wf h _ _
  · exact serveVamo_wf h _ _
  · exact serveSkupd_wf h _ _
  · simpa using h
  · simp [memWrite_wf, h]
  · exact h

theorem homeMet_wf (op : HomeOp) (b : BadWord) (bundle : Nat) : Memory.wf (s.homeMet op b bundle).mem = true := by
  unfold State.homeMet
  split
  · exact cmdFault_wf (by simpa using h) _ _ _
  · exact metBy_wf _ _ _ h

theorem homeServe_wf (id : Nat) : Memory.wf (s.homeServe id).mem = true := by
  unfold State.homeServe
  dsimp only
  split
  · split
    · exact h
    · split
      · exact homeMet_wf h _ _ _
      · exact serve_wf (by exact h) _
  · exact h

theorem performSketch_wf (c : Fin 4) (a : Acc) : Memory.wf (s.performSketch c a).mem = true := by
  unfold State.performSketch
  dsimp only
  split
  · exact h
  · split
    · simp [metBy_wf, h]
    · split
      · simp [fatal_wf, h]
      · split
        · simp [fatal_wf, h]
        · simp [writeBack_wf, h]

theorem performStore_wf (c : Fin 4) (a : Acc) : Memory.wf (s.performStore c a).mem = true := by
  unfold State.performStore
  extract_lets far bs₀ lines lvl bs t₀ t₁ t₂
  split
  · exact h
  · split
    · exact metBy_wf _ _ _ (by simpa using h)
    · exact putUpTo_wf _ _ (by simp [t₂, t₁, t₀, memWrite_wf, writeBack_wf, h])

theorem perform_wf (c : Fin 4) (a : Acc) : Memory.wf (s.perform c a).mem = true := by
  unfold State.perform
  split <;> simp [performSketch_wf, performStore_wf, writeBack_wf, h]

theorem supply_wf (c : Fin 4) (a : Acc) (bs : List Byte) : Memory.wf (s.supply c a bs).mem = true := by
  unfold State.supply
  split
  · simp [fatal_wf, h]
  · exact h

theorem setFused_wf (f : Bool) : Memory.wf (s.setFused f).mem = true := by
  simp [State.setFused, putStation_wf, h]

theorem flushAll_wf : Memory.wf s.flushAll.mem = true := flush_wf _ h

theorem invalEnd_wf (host : Bool) : Memory.wf (s.invalEnd host).mem = true := by
  simp [State.invalEnd, flush_wf, h]

theorem iqDone_wf (b : List Byte) (v : Nat) : Memory.wf (s.iqDone b v).mem = true := by simp [State.iqDone, memPut_wf, h]

/-! ### Collectives -/

theorem mismatch_wf (c : Fin 4) (k : Cmd) : Memory.wf (s.mismatch c k).mem = true := by
  refine cmdFault_wf ?_ _ _ _
  rw [noChunks_mem]
  exact foldl_wf (fun u r hu => by simp [hu]) _ h

theorem enterStep_wf (c : Fin 4) (order : Nat) : Memory.wf (s.enterStep c order).mem = true := by
  unfold State.enterStep
  dsimp only
  split
  · exact h
  · split
    · exact h
    · refine orMeets_wf h _ _ _ ?_
      split
      · simpa using h
      · exact orFault_wf (by simpa using h) _ _ (fun t e => by simp [placeElems_mem e, h])

omit h in
theorem runSteps_wf (c : Fin 4) (order : Nat) :
    ∀ (f : Nat) {s : State}, Memory.wf s.mem = true → Memory.wf (State.runSteps c order f s).mem = true
  | 0, _, h => h
  | f + 1, s, h => by
    unfold State.runSteps
    dsimp only
    split
    · exact h
    · have ih := @runSteps_wf c order f
      simp [ih, enterStep_wf, h]

theorem goOn_wf (c : Fin 4) (k : Cmd) : Memory.wf (s.goOn c k).mem = true := runSteps_wf _ _ _ h

theorem gotDigest_wf (c : Fin 4) (k : Cmd) (r : Nat) (d : W64) : Memory.wf (s.gotDigest c k r d).mem = true := by
  simp [State.gotDigest, mismatch_wf, goOn_wf, h]

theorem deliver_wf (c : Fin 4) (k : Cmd) (m : Wire) : Memory.wf (s.deliver c k m).mem = true := by
  unfold State.deliver
  split <;> simp [gotDigest_wf, h]

omit h in
theorem settleWire_wf : ∀ (f : Nat) {s : State}, Memory.wf s.mem = true → Memory.wf (State.settleWire f s).mem = true
  | 0, _, h => h
  | f + 1, s, h => by
    unfold State.settleWire
    split
    · exact h
    · exact settleWire_wf f (deliver_wf (by exact h) _ _ _)

theorem settled_wf : Memory.wf s.settled.mem = true := settleWire_wf _ h

theorem beginColl_wf (c : Fin 4) (k : Cmd) : Memory.wf (s.beginColl c k).mem = true := by
  unfold State.beginColl
  dsimp only
  split
  · exact h
  · split
    · simpa using h
    · split
      · exact cmdFault_wf h _ _ _
      · split
        · exact cmdFault_wf h _ _ _
        · have hr : ∀ ts : List Nat, (ts.foldl (fun (u : State) n => u.setTile n { u.tile n with reserved := true }) s).mem = s.mem :=
            fun ts => foldl_mem (fun _ _ => by rfl) ts s
          split
          · simp [hr, h]
          · simp [hr, mismatch_wf, cmdFault_wf, settled_wf, goOn_wf, h]

theorem grant_wf (c : Fin 4) (k : Cmd) : Memory.wf (s.grant c k).mem = true := by
  unfold State.grant
  extract_lets i t
  split
  · exact h
  · extract_lets go fills u
    split
    · exact h
    · split
      · split
        · exact h
        · refine orMeets_wf h _ _ _ ?_
          split
          · simpa [u] using h
          · exact orFault_wf (by simpa [u] using h) _ _ (fun t e => by simp [go, prepareTile_mem e, u, h])
      · simp [go, h]

theorem combineChunk_wf (c : Fin 4) (k : Cmd) (a : Nat) (x : Chunk) (arr : List Nat) :
    Memory.wf (s.combineChunk c k a x arr).mem = true := by
  refine orFault_wf (by simp [h]) _ _ (fun t e => ?_)
  have ht : Memory.wf t.mem = true := by simp [counted_mem e, h]
  extract_lets u v w
  have hv : Memory.wf v.mem = true := by simp [v, u, ht]
  have hw : Memory.wf w.mem = true := by simpa [w] using hv
  split
  · exact hv
  · split
    · exact orFault_wf hw _ _ (fun t e => goOn_wf (by simpa [placeElems_mem e] using hw) _ _)
    · exact goOn_wf hw _ _

theorem placeChunk_wf (c : Fin 4) (k : Cmd) (x : Chunk) (arr : List Nat) : Memory.wf (s.placeChunk c k x arr).mem = true :=
  orFault_wf h _ _ (fun t e => goOn_wf (by simp [placeElems_mem e, h]) _ _)

theorem chunkArrives_wf (c : Fin 4) (k : Cmd) (a : Nat) (x : Chunk) (bs : List Byte) : Memory.wf (s.chunkArrives c k a x bs).mem = true := by
  refine orMeets_wf (by simp [h]) _ _ _ (settled_wf ?_)
  simp [combineChunk_wf, placeChunk_wf, h]

theorem refill_wf (c : Fin 4) (k : Cmd) : Memory.wf (s.refill c k).mem = true := by
  unfold State.refill
  split
  · exact h
  · exact foldl_wf (fun u p hu => orFault_wf hu _ _ (fun t e => by simp [prepareTile_mem e, hu])) _ h

theorem collsGoOn_wf (c : Fin 4) : Memory.wf (s.collsGoOn c).mem = true :=
  settled_wf (foldl_wf (fun _ k hu => goOn_wf (refill_wf hu c k) c k) _ h)

/-! ### Multicast -/

theorem failMcst_wf (c : Fin 4) (k : Cmd) (code : Byte) : Memory.wf (s.failMcst c k code).mem = true := by
  unfold State.failMcst
  split
  · exact cmdFault_wf h _ _ _
  · exact settle_wf (by simpa using h) _

/-- The write of one field of a save: what cannot be written is left out. -/
theorem vaWriteOr_wf (a : Arch) (asid : BitVec 16) (va : Nat) (bs : List Byte) :
    Memory.wf (match s.vaWrite a asid va bs with
      | .ok t => t
      | .error _ => s).mem = true := by
  split
  · next e => exact vaWrite_wf e h
  · exact h

theorem ringPush_wf (x : Context) (ws : List W32) : Memory.wf (s.ringPush x ws).mem = true := by
  unfold State.ringPush
  dsimp only
  split
  · exact endLaunch_wf _ _ (by simpa using h)
  · split
    · exact vaWriteOr_wf (vaWriteOr_wf (vaWriteOr_wf h _ _ _ _) _ _ _ _) _ _ _ _
    · exact vaWriteOr_wf (vaWriteOr_wf h _ _ _ _) _ _ _ _

theorem notify_wf (g : Nat) (ws : List W32) : Memory.wf (s.notify g ws).mem = true := by
  unfold State.notify
  split
  · simpa using h
  · exact ringPush_wf h _ _
  · exact h
  · exact memPut_wf _ _ h

theorem applyStep_wf (g : Nat) (b : McSub) : Memory.wf (s.applyStep g b).mem = true := by
  simp [State.applyStep, notify_wf, memPut_wf, h]

theorem skipStep_wf (g : Nat) (q : BitVec 48) : Memory.wf (s.skipStep g q).mem = true := by
  simp [State.skipStep, memPut_wf, h]

theorem newView_wf (g : Nat) (v : ViewInfo) : Memory.wf (s.newView g v).mem = true := by
  refine memPut_wf _ _ ?_
  split
  · exact memPut_wf _ _ (memPut_wf _ _ h)
  · exact h

/-! ### What is lost, and self-tests -/

theorem losePeers_wf (p : BitVec 10) : Memory.wf (s.losePeers p).mem = true := by
  refine foldl_wf (fun u q hu => ?_) _ (foldl_wf (fun u c hu => ?_) _ h)
  · split
    · exact endLaunch_wf _ _ hu
    · exact hu
  · split
    · exact cmdFault_wf hu _ _ _
    · exact hu

theorem loseCtx_wf (p : BitVec 10) (c : Fin 4) : Memory.wf (s.loseCtx p c).mem = true := by
  unfold State.loseCtx
  dsimp only
  split
  · exact fatal_wf _ _ _ _ h
  · split
    · exact cmdFault_wf h _ _ _
    · exact h

theorem checksumMiss_wf (u : UnitRef) (others : List UnitRef) (r : CallRun) (tiles : List Nat) :
    Memory.wf (s.checksumMiss u others r tiles).mem = true := by
  have ht : ∀ (us : List UnitRef) (cause : TestCause) (whole : Bool), (us.foldl (fun (t : State) v => t.startTest v cause 1 whole) s).mem = s.mem :=
    fun us _ _ => foldl_mem (fun _ _ => by rfl) us s
  simp [State.checksumMiss, ht, callFault_wf, h]

theorem neverStamped_wf (c : Fin 4) (k : Cmd) : Memory.wf (s.neverStamped c k).mem = true := by
  simp [State.neverStamped, failMcst_wf, h]

theorem uncorrectable_wf (w : Reader) : Memory.wf (s.uncorrectable w).mem = true := by
  unfold State.uncorrectable
  split
  · exact h
  · split
    · exact fatal_wf _ _ _ _ h
    · exact h
  · split
    · simp [neverStamped_wf, cmdFault_wf, h]
    · exact h
  · split
    · simp [callFault_wf, h]
    · exact h
  · simp [fatal_wf, h]
  · simp [fatal_wf, h]

/-! ### Launches -/

theorem writeRecord_wf (d bs : List Byte) : Memory.wf (s.writeRecord d bs).mem = true := vaWriteOr_wf h _ _ _ _

theorem notRun_wf (n : Nat) (d : List Byte) (code : Byte) (coord : BitVec 28) (cmd : W32) : Memory.wf (s.notRun n d code coord cmd).mem = true := by
  simp [State.notRun, writeRecord_wf, h]

theorem startCtx_wf (d : List Byte) (cls pc : Nat) (g : W64) (j : Fin 4) : Memory.wf (s.startCtx d cls pc g j).mem = true := by
  simp [State.startCtx, memPut_wf, h]

theorem startLaunch_wf (n : Nat) (d : List Byte) (cls : Nat) : Memory.wf (s.startLaunch n d cls).mem = true := by
  unfold State.startLaunch
  extract_lets u g src₁ v w src₂
  have hu : Memory.wf u.mem = true := by simp [u, flushAll_wf, h]
  split
  · exact notRun_wf (by simpa using hu) _ _ _ _ _
  · extract_lets x y z src₃
    split
    · exact hu
    · have hy : Memory.wf y.mem = true := foldl_wf (fun _ _ ht => startCtx_wf ht _ _ _ _ _) _ (by simp [x, w, v, hu])
      exact setFused_wf (by simpa [z] using hy) _

theorem finishLaunch_wf (l : Launch) : Memory.wf (s.finishLaunch l).mem = true := by
  have hc : ∀ cs : List (Fin 4), Memory.wf (cs.foldl State.countRecs s).mem = true := fun cs => by simpa using h
  simp only [State.finishLaunch, advance_mem, noteEnded_mem]
  rw [foldl_mem (fun _ _ => by simp)]
  refine writeRecord_wf ?_ _ _
  split
  · exact flushAll_wf (hc _)
  · exact hc _

theorem writeOff_wf (n : Nat) : Memory.wf (s.writeOff n).mem = true := by
  unfold State.writeOff
  split
  · exact h
  · split
    · exact notRun_wf h _ _ _ _ _
    · split
      · exact notRun_wf h _ _ _ _ _
      · split
        · exact notRun_wf h _ _ _ _ _
        · exact notRun_wf h _ _ _ _ _
        · split
          · exact notRun_wf h _ _ _ _ _
          · exact h

theorem evict_wf (d : List Byte) : Memory.wf (s.evict d).mem = true :=
  foldl_wf (fun u l hu => by simp [endBare_wf, hu]) _ h

theorem takeBack_wf (d : List Byte) : Memory.wf (s.takeBack d).mem = true := by
  refine setFused_wf ?_ _
  simp [flushAll_wf, h]

theorem endLate_wf : Memory.wf s.endLate.mem = true := foldl_wf (fun u l hu => by simp [endBare_wf, hu]) _ h

theorem passTime_wf : Memory.wf s.passTime.mem = true := endLate_wf (by simpa using h)

/-- The window onto host memory moves: the bytes that it leaves are dropped, those that it comes to are written. -/
theorem moveWindow_wf (v : W64) : Memory.wf (s.moveWindow v).mem = true := putAll_wf _ (filter_wf _ h)

end

end Sys2Proof.Laws
end

section
/-! SUPPORT. The canonical form of memory over the slots of a bundle: the shapes of the slot operations first, then `runSlot`. -/

set_option Elab.async false

namespace Sys2Proof.Laws

open Sys2Proof Sys2Proof.Machine

/-! ### Outcomes -/

/-- The next state of an outcome, where it has one, holds memory in canonical form. -/
def OutWf (o : Out) : Prop := ∀ t, o = .next t → Memory.wf t.mem = true

@[simp] theorem outWf_next {t : State} : OutWf (.next t) ↔ Memory.wf t.mem = true :=
  ⟨fun h => h t rfl, fun h u e => by cases e; exact h⟩

@[simp] theorem outWf_ite {p : Prop} [Decidable p] {a b : Out} : OutWf (if p then a else b) ↔ (p → OutWf a) ∧ (¬p → OutWf b) := by
  split <;> simp [*]

section
variable {s : State} (h : Memory.wf s.mem = true)
include h

/-! ### The shapes of the slot operations -/

theorem slotOp_wf (g : BitVec 4) {eff : State → State} (he : Memory.wf (eff s).mem = true) : OutWf (slotOp g s eff) :=
  fun _ e => slotOp_keeps (P := fun u => Memory.wf u.mem = true) e h (fun _ => he)

theorem outsideLoop_wf (f : SF) {eff : State → State} (he : Memory.wf (eff s).mem = true) : OutWf (outsideLoop f s eff) := by
  simp [outsideLoop, issueFault_wf, slotOp_wf, h, he]

theorem loopOp_wf (f : SF) {eff : State → State} (he : Memory.wf (eff s).mem = true) : OutWf (loopOp f s eff) := by
  simp [loopOp, issueFault_wf, slotOp_wf, h, he]

theorem haspOp_wf (f : SF) {eff : State → State} (he : Memory.wf (eff s).mem = true) : OutWf (haspOp f s eff) :=
  slotOp_wf h _ (by simp [issueFault_wf, h, he])

theorem tileOp_wf (f : AF) {eff : Nat → State → State} (he : ∀ k, Memory.wf (eff k s).mem = true) : OutWf (tileOp f s eff) :=
  slotOp_wf h _ (by simp [issueFault_wf, h, he])

theorem esWrite_wf (f : AF) {eff : State → State} (he : Memory.wf (eff s).mem = true) : OutWf (esWrite f s eff) :=
  slotOp_wf h _ (by simp [issueFault_wf, h, he])

theorem ssigOp_wf (f : SF) (k : AccKind) : OutWf (ssigOp f s k) := slotOp_wf h _ (by simp [issueFault_wf, h])

theorem aluReg_wf (k : Nat) (op : Nat → Nat → Nat → Nat) (f : AF) : OutWf (aluReg k op f s) := slotOp_wf h _ (by simp [h])

theorem scalarF_wf (f : AF) (op : FCtl → W32 → Nat × BitVec 6) : OutWf (scalarF f s op) := slotOp_wf h _ (needRnd_wf h _ (by simp [h]))

theorem crossReduce_wf (f : XF) (op : Nat → Nat → Nat × BitVec 6) : OutWf (crossReduce f s op) := slotOp_wf h _ (by simp [h])

theorem accOpn_wf (f : OF) {eff : Nat → State → State} (he : ∀ row, Memory.wf (eff row s).mem = true) : OutWf (accOpn f s eff) :=
  slotOp_wf h _ (by simp [issueFault_wf, h, he])

theorem accRows_wf (f : OF) (row : Nat) (op : W32 → W32 × BitVec 6) : Memory.wf (s.accRows f row op).mem = true :=
  oReads_wf h _ (foldl_wf (fun _ _ hu => by simp [hu]) _ h)

theorem cmdOp_wf (f : EF) (check : List Byte → State → Got Unit) {go : List Byte → State → State}
    (hg : ∀ d, Memory.wf (go d s).mem = true) :
    OutWf (cmdOp f s check go) := by
  obtain e | e | e | e | ⟨_, _, _, e⟩ | ⟨_, _, e⟩ | ⟨_, e⟩ | ⟨_, _, e⟩ := cmdOp_cases f s check go <;>
    simp [e, issueFault_wf, metBy_wf, h, hg]

/-! ### Triads -/

theorem triadDest_wf (f : TF) (m : BitVec 16) (xs : List W32) (fl : BitVec 6) : Memory.wf (s.triadDest f m xs fl).mem = true := by
  simp [State.triadDest, pushQ_wf, h]

theorem unitOut_wf (f : TF) (outs : List (W32 × BitVec 6)) : Memory.wf (s.unitOut f outs).mem = true := by
  unfold State.unitOut
  dsimp only
  split
  · exact triadDest_wf (by simpa using h) _ _ _ _
  · simpa using h

theorem unitOp_wf (f : TF) (reads rnd : Bool) (op : State → List W32 → List W32 → List (W32 × BitVec 6)) :
    OutWf (unitOp f s reads rnd op) := by
  have hgo : Memory.wf (s.needRnd rnd (if reads then s.needSrc (ownSrc f) (s.unitOut f (op s (s.unitIn f) (s.triadSrc f.grp.toNat (ownSrc f))))
      else s.unitOut f (op s (s.unitIn f) (s.triadSrc f.grp.toNat (ownSrc f))))).mem = true :=
    needRnd_wf h _ (by simp [needSrc_wf, unitOut_wf, h])
  refine slotOp_wf h _ ?_
  dsimp only
  split
  · exact needSrc_wf h _ hgo
  · exact hgo

theorem laneOp_wf (f : TF) (op : W32 → W32 → W32 × BitVec 6) : OutWf (laneOp f s op) := unitOp_wf h _ _ _ _

theorem fltOp_wf (f : TF) (op : Fmt → FCtl → W32 → Nat → Nat → Nat × BitVec 6) : OutWf (fltOp f s op) := by
  unfold fltOp
  dsimp only
  split <;> exact unitOp_wf h _ _ _ _

theorem fusedOp_wf (f : TF) (sub : Bool) : OutWf (fusedOp f s sub) := by
  unfold fusedOp
  dsimp only
  split <;> exact unitOp_wf h _ _ _ _

theorem execTriadNrw_wf (f : TF) : OutWf (execTriadNrw f s) :=
  slotOp_wf h _ (needSrc_wf h _ (by simp [issueFault_wf, unitOut_wf, h]))

/-! ### The S slot -/

theorem execLoopsp_wf (f : SF) : OutWf (execLoopsp f s) := by
  refine loopOp_wf h f ?_
  dsimp only
  split
  · exact skipBody_wf h _ (fun _ hu => by simp [hu])
  · simp [h]

theorem execLoopS_wf (f : SF) : OutWf (execLoopS f s) := by
  refine loopOp_wf h f ?_
  dsimp only
  split
  · exact skipBody_wf h _ (fun _ hu => hu)
  · simp [h]

theorem execNodeS_wf (f : SF) : OutWf (execNodeS f s) := outsideLoop_wf h f (by simp [issueFault_wf, h])

theorem execMarkS_wf (f : SF) : OutWf (execMarkS f s) :=
  slotOp_wf h _ (markSig_wf (by simp [driftAppend_wf, h]) _)

theorem execSysw_wf (f : SF) : OutWf (execSysw f s) := by
  refine slotOp_wf h _ ?_
  dsimp only
  split
  · simp [input_wf, h]
  · exact issueFault_wf _ h

/-! ### The A slot -/

theorem execLds_wf (f : AF) : OutWf (execLds f s) := by
  refine slotOp_wf h _ ?_
  dsimp only
  split
  · exact accFault_wf h _ _
  · simp [h]

theorem execSts_wf (f : AF) : OutWf (execSts f s) := by
  refine slotOp_wf h _ ?_
  dsimp only
  split
  · exact accFault_wf h _ _
  · simp [h]

theorem execAmo_wf (f : AF) : OutWf (execAmo f s) := by
  refine slotOp_wf h _ ?_
  dsimp only
  split
  · exact accFault_wf h _ _
  · split
    · exact issueFault_wf _ h
    · split <;> simp [scTicket_wf, h]

theorem execProbe_wf (f : AF) : OutWf (execProbe f s) := by
  refine slotOp_wf h _ ?_
  dsimp only
  split
  · exact issueFault_wf _ h
  · split
    · exact accFault_wf h _ _
    · split
      · exact park_wf h _ _
      · simp [h]

theorem execTdef_wf (f : AF) : OutWf (execTdef f s) :=
  tileOp_wf h f (fun k => by simp [tileOnce_wf, issueFault_wf, h])

theorem execTfree_wf (f : AF) : OutWf (execTfree f s) :=
  tileOp_wf h f (fun k => by simp [tileOnce_wf, h])

/-! ### The V slot -/

omit h in
/-- Group by group: where each group's step keeps the canonical form, and so does what a faulting group still does, the whole keeps it. -/
theorem eachGroup_wf {step : State → Nat → Except Byte State} {part : State → Nat → State} {vas : State → Nat → List Nat}
    (hstep : ∀ u g t, Memory.wf u.mem = true → step u g = .ok t → Memory.wf t.mem = true)
    (hpart : ∀ u g, Memory.wf u.mem = true → Memory.wf (part u g).mem = true) :
    ∀ (gs : List Nat) {s : State}, Memory.wf s.mem = true → Memory.wf (eachGroup step gs s part vas).mem = true
  | [], _, h => h
  | g :: gs, s, h => by
    unfold eachGroup
    split
    · next e => exact eachGroup_wf hstep hpart gs (hstep _ _ _ h e)
    · exact issueFault_wf _ (by simpa using hpart s g h)

theorem execLdv_wf (f : VF) : OutWf (execLdv f s) := by
  refine slotOp_wf h _ (aligned_wf h _ _ ?_)
  split
  · exact issueFault_wf _ h
  · exact trReady_wf h _ _ (foldl_wf (fun _ _ hu => by simp [hu]) _ h)

theorem execStv_wf (f : VF) : OutWf (execStv f s) := by
  refine slotOp_wf h _ (aligned_wf h _ _ ?_)
  split
  · exact issueFault_wf _ h
  · split
    · simp [h]
    · exact foldl_wf (fun _ _ hu => by simp [hu]) _ h

theorem execLdg_wf (f : VF) : OutWf (execLdg f s) := by
  refine slotOp_wf h _ (aligned_wf h _ _ (eachGroup_wf (fun u g t hu e => ?_) (fun _ _ hu => hu) _ h))
  dsimp only at e
  split at e
  · cases e
  · split at e
    · cases e
    · next e' => rw [← Except.ok.inj e]; simp [remoteOk_mem e', hu]

theorem execStg_wf (f : VF) : OutWf (execStg f s) := by
  refine slotOp_wf h _ (aligned_wf h _ _ (eachGroup_wf (fun u g t hu e => ?_) (fun _ _ hu => hu) _ h))
  dsimp only at e
  split at e
  · cases e
  · split at e
    · cases e
    · next e' => rw [← Except.ok.inj e]; simp [remoteOk_mem e', hu]

theorem execLdt_wf (f : VF) : OutWf (execLdt f s) := by
  refine slotOp_wf h _ (aligned_wf h _ _ (eachGroup_wf (fun u g t hu e => ?_) (fun _ _ hu => hu) _ h))
  dsimp only at e
  split at e
  · cases e
  · rw [← Except.ok.inj e]; simp [hu]

theorem execLdx_wf (f : VF) : OutWf (execLdx f s) := by
  refine slotOp_wf h _ (eachGroup_wf (fun u g t hu e => ?_) (fun _ _ hu => hu) _ h)
  dsimp only at e
  split at e
  · cases e
  · rw [← Except.ok.inj e]; simp [hu]

theorem execGath_wf (f : VF) : OutWf (execGath f s) := by
  refine slotOp_wf h _ (aligned_wf h _ _ (eachGroup_wf (fun u g t hu e => by simpa [gathGroup_mem e] using hu) (fun u g hu => ?_) _ h))
  cases e : gathGroup f (gathUpTo f u g) u g with
  | error c => exact hu
  | ok t => simpa [Except.toOption, gathGroup_mem e] using hu

theorem execScat_wf (f : VF) : OutWf (execScat f s) := by
  refine slotOp_wf h _ (aligned_wf h _ _ (eachGroup_wf (fun u g t hu e => by simpa [scatGroup_mem e] using hu) (fun u g hu => ?_) _ h))
  cases e : scatGroup f (scatUpTo f u g) u g with
  | error c => exact hu
  | ok t => simpa [Except.toOption, scatGroup_mem e] using hu

theorem execVamo_wf (f : VF) : OutWf (execVamo f s) := by
  refine slotOp_wf h _ (needRnd_wf h _ (aligned_wf h _ _ ?_))
  split
  · refine eachGroup_wf (fun u g t hu e => ?_) (fun _ _ hu => hu) _ h
    dsimp only at e
    split at e
    · cases e
    · rw [← Except.ok.inj e]; simp [hu]
  · split
    · exact issueFault_wf _ h
    · split
      · simp [h]
      · refine eachGroup_wf (fun u g t hu e => ?_) (fun _ _ hu => hu) _ h
        split at e
        · cases e
        · rw [← Except.ok.inj e]; simp [hu]

theorem execSkupd_wf (f : VF) : OutWf (execSkupd f s) := by
  refine slotOp_wf h _ (needRnd_wf h _ ?_)
  split
  · exact accFault_wf h _ _
  · simp [h]

theorem execSkqry_wf (f : VF) : OutWf (execSkqry f s) := by
  refine slotOp_wf h _ ?_
  dsimp only
  split
  · exact accFault_wf h _ _
  · split
    · simp [h]
    · exact foldl_wf (fun _ _ hu => by simp [hu]) _ (by simp [h])

theorem execPushq_wf (f : VF) : OutWf (execPushq f s) := by
  refine slotOp_wf h _ (aligned_wf h _ _ ?_)
  split
  · exact issueFault_wf _ h
  · extract_lets q at_ t
    have ht : Memory.wf t.mem = true := foldl_wf (fun _ _ hu => pushQ_wf hu _ _ _ _) _ h
    simp [ht]

/-! ### Every slot -/

theorem runSlot_wf (i : Instr) : OutWf (runSlot i s) := by
  unfold runSlot
  cases i with
  | snop f | glog f | klog f | kmovFromK f | kmovToK f | fsrr f | fsrrClear f | sysr f | lsupd f | waitt f | lbrk f | anop f | addi f | li f
    | lih f | lihChunk1 f | cmp f | cmpImmediate f | selA f | movmToM f | movmFromM f | movsToS f | movsToG f | fcmps f | fence f | mnop f
    | mquiet f | enop f | onop f | xnop f | xcp f | xshf f | xs2v f | xv2s f | vnop f | unpk f => exact slotOp_wf h _ (by simp [h])
  | fcrw f | semrd f | swait f | bfxcfg f | ssrrd f | mcall f | equiet f => exact slotOp_wf h _ (by simp [issueFault_wf, h])
  | br f | callS f | sstep f | endCtx f | brk f => exact outsideLoop_wf h f (by simp [h])
  | bri f | ret f => exact outsideLoop_wf h f (jumpTo_wf h _)
  | loopS f => exact execLoopS_wf h f
  | loopsp f => exact execLoopsp_wf h f
  | nodeS f => exact execNodeS_wf h f
  | markS f => exact execMarkS_wf h f
  | bara f | barw f => exact haspOp_wf h f (by simp [h])
  | ssig f | ssigClr f => exact ssigOp_wf h f _
  | sysw f => exact execSysw_wf h f
  | gtbr f | rseek f => exact slotOp_wf h _ (by simp [input_wf, h])
  | qmask f =>
    refine slotOp_wf h _ ?_
    exact needQ_wf h _ (by simp [h])
  | add f | sub f | mul f | mulh f | div f | divu f | andA f | orA f | xorA f | shl f | shr f | sra f | minA f | maxA f =>
    exact aluReg_wf h _ _ f
  | lds f => exact execLds_wf h f
  | sts f => exact execSts_wf h f
  | amo f => exact execAmo_wf h f
  | probe f => exact execProbe_wf h f
  | tdef f => exact execTdef_wf h f
  | tfree f => exact execTfree_wf h f
  | tstat f | tdesc f => exact tileOp_wf h f (fun _ => by simp [h])
  | ssrclr f | ssrclrSatd f => exact esWrite_wf h f (by simp [h])
  | ssrcfg f | ssrwr f => exact esWrite_wf h f (by simp [issueFault_wf, h])
  | cvts f =>
    refine slotOp_wf h _ ?_
    exact needRnd_wf h _ (by simp [h])
  | fadds f | faddsNegated f | fmuls f | fmas f => exact scalarF_wf h f _
  | copy f | tload f | skadd f | skscl f | skzero f | muload f | epload f => exact cmdOp_wf h f _ (fun _ => by simp [h])
  | coll f => exact cmdOp_wf h f _ (fun _ => by simp [h])
  | mcst f => exact cmdOp_wf (by simp [h]) f _ (fun _ => by simp [h])
  | ord f => exact accOpn_wf h f (fun _ => oReads_wf h _ (foldl_wf (fun _ _ hu => by simp [hu]) _ h))
  | oadd f => exact accOpn_wf h f (fun _ => oReads_wf h _ (foldl_wf (fun _ _ hu => by simp [hu]) _ h))
  | owr f | ozero f => exact accOpn_wf h f (fun _ => foldl_wf (fun _ _ hu => by simp [hu]) _ h)
  | oscl f => exact accOpn_wf h f (fun _ => accRows_wf h f _ _)
  | xbc f => exact slotOp_wf h _ (foldl_wf (fun _ _ hu => by simp [hu]) _ h)
  | xsum f | xmax f => exact crossReduce_wf h f _
  | ldv f => exact execLdv_wf h f
  | stv f => exact execStv_wf h f
  | ldg f => exact execLdg_wf h f
  | stg f => exact execStg_wf h f
  | ldt f => exact execLdt_wf h f
  | ldx f => exact execLdx_wf h f
  | gath f => exact execGath_wf h f
  | scat f => exact execScat_wf h f
  | vamo f => exact execVamo_wf h f
  | skupd f => exact execSkupd_wf h f
  | skqry f => exact execSkqry_wf h f
  | pushq f => exact execPushq_wf h f
  | unitNone f | triadSel f | perm f => exact unitOp_wf h f _ _ _
  | iadd f | isub f | imul f | imulh f | triadAnd f | triadOr f | triadXor f | triadShl f | triadShr f | triadSra f | imin f | imax f
    | fmin f | fmax f | cmplt f | cmpeq f | triadCvt f | srnd f | triadExp2 f | triadLog2 f | triadRcp f | triadRsq f | triadAbs f | pack f =>
    exact laneOp_wf h f _
  | fadd f | fsub f => exact outWf_ite.2 ⟨fun _ => fusedOp_wf h f _, fun _ => fltOp_wf h f _⟩
  | fmul f => exact fltOp_wf h f _
  | triadNrw f => exact execTriadNrw_wf h f
  | _ => exact outWf_next.2 h

end

end Sys2Proof.Laws
end

section
/-! SUPPORT. The canonical form of memory over the words of the matrix unit and the epilogue instructions, and over the issue of a
bundle. -/

set_option Elab.async false

namespace Sys2Proof.Laws

open Sys2Proof Sys2Proof.Machine

/-! ### What a word comes to -/

/-- What goes through leaves memory in canonical form. -/
def GotWf (o : Got State) : Prop := ∀ t, o = .got t → Memory.wf t.mem = true

@[simp] theorem gotWf_got {t : State} : GotWf (.got t) ↔ Memory.wf t.mem = true := ⟨fun h => h t rfl, fun h u e => by cases e; exact h⟩
@[simp] theorem gotWf_wait : GotWf .wait := fun _ e => by cases e
@[simp] theorem gotWf_fault {c : Byte} : GotWf (.fault c) := fun _ e => by cases e
@[simp] theorem gotWf_meets {b : BadWord} : GotWf (.meets b) := fun _ e => by cases e

@[simp] theorem gotWf_ite {p : Prop} [Decidable p] {a b : Got State} : GotWf (if p then a else b) ↔ (p → GotWf a) ∧ (¬p → GotWf b) := by
  split <;> simp [*]

theorem accTile_wf {s : State} (r : CallRun) (t : Nat) {eff : Got State} (he : GotWf eff) : GotWf (accTile s r t eff) := by
  simp [accTile, he]

theorem esOwned_wf (d : BitVec 128) {eff : Got State} (he : GotWf eff) : GotWf (esOwned d eff) := by simp [esOwned, he]

theorem accReads_wf {s : State} (t row n : Nat) {eff : Got State} (he : GotWf eff) : GotWf (s.accReads t row n eff) := by
  unfold State.accReads
  split
  · exact gotWf_meets
  · exact he

theorem epiWrite_wf {s : State} (h : Memory.wf s.mem = true) (r : CallRun) (e : EpiRun) (d : BitVec 3) (vs : List (W32 × BitVec 6)) :
    GotWf (epiWrite s r e d vs) := by simp [epiWrite, h]

section
variable {s : State} (h : Memory.wf s.mem = true)
include h

theorem wordOp_wf (i : Instr) {eff : CallRun → Got State} (he : ∀ r, GotWf (eff r)) : OutWf (wordOp i s eff) := by
  obtain e | ⟨r, _, ⟨c, e⟩ | ⟨b, _, e⟩ | ⟨_, e⟩ | ⟨t, ht, e⟩⟩ := wordOp_cases i s eff
  · simpa [e] using h
  · simp [e, callFault_wf, h]
  · simp [e, callMeets_wf, h]
  · simpa [e] using h
  · simpa [e] using he r t ht

theorem epiOp_wf (i : Instr) {eff : CallRun → EpiRun → Got State} (he : ∀ r e, GotWf (eff r e)) : OutWf (epiOp i s eff) := by
  obtain e | ⟨r, x, _, _, ⟨c, e⟩ | ⟨b, _, e⟩ | ⟨_, e⟩ | ⟨t, ht, e⟩⟩ := epiOp_cases i s eff
  · simpa [e] using h
  · simp [e, callFault_wf, h]
  · simp [e, callMeets_wf, h]
  · simpa [e] using h
  · simpa [e] using he r x t ht

/-! ### Microprogram words -/

theorem execWld_wf (f : WF) : OutWf (execWld f s) := by
  refine wordOp_wf h _ (fun r => ?_)
  dsimp only
  split
  · exact gotWf_fault
  · split
    · exact gotWf_fault
    · split
      · split
        · exact gotWf_fault
        · split <;> simp [h]
      · split
        · exact gotWf_wait
        · exact gotWf_fault
        · exact gotWf_meets
        · next e => simp [readRows_mem e, h]

theorem execSpsel_wf (f : WF) : OutWf (execSpsel f s) := by
  refine wordOp_wf h _ (fun r => ?_)
  dsimp only
  split
  · exact gotWf_fault
  · split <;> simp [h]

theorem execRunW_wf (f : WF) : OutWf (execRunW f s) := by
  refine outWf_ite.2 ⟨fun _ => outWf_next.2 h, fun _ => wordOp_wf h _ (fun r => accTile_wf _ _ ?_)⟩
  split
  · exact gotWf_fault
  · extract_lets chainBad w
    split
    · exact gotWf_fault
    · refine accReads_wf _ _ _ ?_
      split
      · exact gotWf_wait
      · exact gotWf_fault
      · exact gotWf_meets
      · next e => simp [runRows_mem e, h]

theorem execOprk_wf (f : WF) : OutWf (execOprk f s) := by
  refine outWf_ite.2 ⟨fun _ => outWf_next.2 h, fun _ => wordOp_wf h _ (fun r => accTile_wf _ _ ?_)⟩
  split
  · split
    · exact gotWf_fault
    · refine accReads_wf _ _ _ ?_
      split
      · exact gotWf_wait
      · exact gotWf_fault
      · exact gotWf_meets
      · next e₁ =>
        split
        · exact gotWf_wait
        · exact gotWf_fault
        · exact gotWf_meets
        · next e₂ =>
          refine gotWf_got.2 ?_
          rw [nextWord_mem]
          exact foldl_wf (fun _ _ hu => by simpa using hu) _ (by simpa [readRows_mem e₂, readRows_mem e₁] using h)
  · exact gotWf_fault

theorem execAchn_wf (f : WF) : OutWf (execAchn f s) := by
  refine wordOp_wf h _ (fun r => accTile_wf _ _ (esOwned_wf _ ?_))
  split
  · exact gotWf_fault
  · split
    · exact gotWf_fault
    · exact accReads_wf _ _ _ (by simp [h])

theorem execCksv_wf (f : WF) : OutWf (execCksv f s) := wordOp_wf h _ (fun r => by simp [h])

theorem execMsig_wf (f : WF) : OutWf (execMsig f s) := by
  refine wordOp_wf h _ (fun r => ?_)
  dsimp only
  split
  · exact gotWf_fault
  · split
    · next e => simp [semSignal_mem e, h]
    · exact gotWf_fault

/-! ### Epilogue instructions -/

theorem execEpiDone_wf (f : PF) : OutWf (execEpiDone f s) := by
  refine epiOp_wf h _ (fun r e => ?_)
  refine gotWf_ite.2 ⟨fun _ => accReads_wf _ _ _ ?_, fun _ => ?_⟩ <;> simp [h]

theorem execLdb_wf (f : PF) : OutWf (execLdb f s) := by
  refine epiOp_wf h _ (fun r e => ?_)
  dsimp only
  split <;> simp [h]

theorem execEpiTbl_wf (f : PF) : OutWf (execEpiTbl f s) := by
  refine epiOp_wf h _ (fun r e => ?_)
  dsimp only
  split
  · exact gotWf_meets
  · exact epiWrite_wf h _ _ _ _

theorem execEpiNrw_wf (f : PF) : OutWf (execEpiNrw f s) := epiOp_wf h _ (fun r e => esOwned_wf _ (by simp [h]))

theorem execWrt_wf (f : PF) : OutWf (execWrt f s) := by
  refine epiOp_wf h _ (fun r e => ?_)
  extract_lets mode d m off bs xs bytes cells e'
  split
  · exact gotWf_fault
  · split
    · exact gotWf_fault
    · split
      · exact gotWf_wait
      · exact gotWf_fault
      · exact gotWf_meets
      · next t ht =>
        have hw : Memory.wf t.mem = true := by
          split at ht
          · rw [fillWrite_mem ht]; exact h
          · cases ht; exact h
        extract_lets recs
        clear_value recs
        split
        · simpa using hw
        · exact gotWf_fault
        · exact gotWf_meets
        · split
          · exact gotWf_meets
          · simp [memWrite_wf, hw]

theorem execEpiPush_wf (f : PF) : OutWf (execEpiPush f s) := epiOp_wf h _ (fun r e => by simp [h])

theorem runWordOf_wf (i : Instr) : OutWf (runWordOf i s) := by
  unfold runWordOf
  cases i with
  | munop f | wstr f | astr f | mlp f | mbrn f | mend f | mwait f | padd f | pset f => exact wordOp_wf h _ (fun _ => by simp [h])
  | zacc f => exact wordOp_wf h _ (fun r => accTile_wf _ _ (by simp [h]))
  | drn f => exact wordOp_wf h _ (fun r => accTile_wf _ _ (accReads_wf _ _ _ (by simp [h])))
  | wld f => exact execWld_wf h f
  | achn f => exact execAchn_wf h f
  | runW f => exact execRunW_wf h f
  | oprk f => exact execOprk_wf h f
  | spsel f => exact execSpsel_wf h f
  | cksv f => exact execCksv_wf h f
  | msig f => exact execMsig_wf h f
  | epiAdd f | epiMul f | epiMax f | epiMin f | epiFma f | clmp f | epiSel f | relu f | epiExp2 f | epiCvt f | scal f | rmax f | rsum f =>
    exact epiOp_wf h _ (fun _ _ => epiWrite_wf h _ _ _ _)
  | epiTbl f => exact execEpiTbl_wf h f
  | epiDone f => exact execEpiDone_wf h f
  | ldb f => exact execLdb_wf h f
  | epiNrw f => exact execEpiNrw_wf h f
  | wrt f => exact execWrt_wf h f
  | epiPush f => exact execEpiPush_wf h f
  | _ => exact outWf_next.2 h

/-! ### A bundle -/

theorem slot_wf (i : Instr) : Memory.wf (s.slot i).mem = true := by
  unfold State.slot
  split
  · next e => exact runSlot_wf h i _ e
  · exact h
  · exact h

omit h in
theorem runOps_wf : ∀ (is : List Instr) {s : State}, Memory.wf s.mem = true → Memory.wf (runOps is s).mem = true
  | [], _, h => h
  | i :: is, s, h => by
    unfold runOps
    dsimp only
    rw [ite_mem_wf]
    exact ⟨fun _ => runOps_wf is (slot_wf h i), fun _ => slot_wf h i⟩

theorem ckptBefore_wf (b : Bundle) : Memory.wf (s.ckptBefore b).mem = true := by
  simp [State.ckptBefore, driftAppend_wf, h]

theorem issued_wf (b : Bundle) (pc rep : Nat) (lf : Nat × Nat) : Memory.wf (s.issued b pc rep lf).mem = true := by
  simp [State.issued, traceTick_wf, h]

theorem refault_wf (t : State) : Memory.wf (refault s t).mem = true := by
  unfold refault
  dsimp only
  split
  · exact endLaunch_wf _ _ (by exact h)
  · simpa using h

theorem settleOps_wf {t : State} (ht : Memory.wf t.mem = true) (b : Bundle) (pc rep guard : Nat) :
    Memory.wf (settleOps s t b pc rep guard).mem = true := by
  unfold settleOps
  split
  · split <;> simp [park_wf, issued_wf, h, ht]
  · exact ht
  · exact refault_wf h t

theorem tick_wf (ws : List W32) (b : Bundle) : Memory.wf (s.tick ws b).mem = true := by
  unfold State.tick
  extract_lets pc rep latched ops ck u s₀ n s₁
  have hu : Memory.wf u.mem = true := by simp [u, ckptBefore_wf, h]
  have h₀ : Memory.wf s₀.mem = true := by simpa [s₀] using hu
  have h₁ : Memory.wf s₁.mem = true := noticeIn_wf (by simpa [latched] using h₀) b
  simp [issueFault_wf, settleOps_wf, runOps_wf, hu, h₀, h₁]

theorem issueBundle_wf : Memory.wf s.issueBundle.mem = true := by
  unfold State.issueBundle
  split
  · exact fetchFault_wf h _
  · split
    · exact h
    · exact tick_wf (by simpa using h) _ _

end

end Sys2Proof.Laws
end

section
/-! SUPPORT. The canonical form of memory over the events of the machine, and so over every instruction and every step. -/

set_option Elab.async false

namespace Sys2Proof.Laws

open Sys2Proof Sys2Proof.Machine

section
variable {s : State} (h : Memory.wf s.mem = true)
include h

/-! ### The contexts and the core -/

theorem execResultLand_wf (c : Fin 4) : OutWf (execResultLand c s) := by simp [execResultLand, endTick_wf, h]

theorem execLoadReturn_wf (c : Fin 4) : OutWf (execLoadReturn c s) := by simp [execLoadReturn, endTick_wf, h]

theorem execBundleIssue_wf : OutWf (execBundleIssue s) := by simp [execBundleIssue, issueBundle_wf, h]

theorem execBundleSkip_wf : OutWf (execBundleSkip s) := by
  unfold execBundleSkip
  split
  · exact outWf_next.2 h
  · split
    · exact outWf_next.2 (fetchFault_wf h _)
    · simp [h]

theorem execContextSwitch_wf : OutWf (execContextSwitch s) := by
  have hc : Memory.wf (ctxIds.foldl (fun u c => match (u.ctx c).wait with
      | .nodePeers _ _ => u.settle c
      | _ => u) s).mem = true := by
    refine foldl_wf (fun u c hu => ?_) _ h
    split
    · exact settle_wf hu c
    · exact hu
  simp only [execContextSwitch, outWf_ite, outWf_next]
  exact ⟨fun _ => hc, fun _ => hc⟩

theorem execDebuggerStop_wf (c : Fin 4) : OutWf (execDebuggerStop c s) := by simp [execDebuggerStop, h]

theorem execDebuggerResume_wf (c : Fin 4) : OutWf (execDebuggerResume c s) := by simp [execDebuggerResume, h]

theorem execTrapRestore_wf (c : Fin 4) : OutWf (execTrapRestore c s) := by simp [execTrapRestore, h]

theorem execResume_wf (c : Fin 4) : OutWf (execResume c s) := by
  unfold execResume
  split
  · exact outWf_next.2 h
  · split
    · exact outWf_next.2 h
    · dsimp only
      split
      · exact outWf_next.2 h
      · refine outWf_next.2 (foldl_wf (fun u p hu => ?_) _ ?_)
        · simp [collsGoOn_wf, restoreCtx_wf, hu]
        · simp [takeBack_wf, h]

theorem execGtbTargetReached_wf : OutWf (execGtbTargetReached s) := by
  unfold execGtbTargetReached
  rw [outWf_next]
  refine foldl_wf ?_ ctxIds h
  intro u c hu
  generalize (u.ctx c).mode = m
  generalize (u.ctx c).wait = w
  cases m with
  | starting g => simp [hu]
  | live => cases w <;> simp [hu]
  | _ => exact hu

/-! ### Queues, semaphores and barriers -/

theorem execQueueEntryVisible_wf (c : Fin 4) (q : Fin 8) (arr : Option QEntry) : OutWf (execQueueEntryVisible c q arr s) := by
  unfold execQueueEntryVisible
  split <;> simp [h]

theorem execSemWaitSatisfied_wf (n : BitVec 8) : OutWf (execSemWaitSatisfied n s) := by
  unfold execSemWaitSatisfied
  split
  · exact outWf_next.2 h
  · simp [fatal_wf, h]

theorem execSsigSignal_wf (c : Fin 4) : OutWf (execSsigSignal c s) := by
  unfold execSsigSignal
  split
  · exact outWf_next.2 h
  · split
    · exact outWf_next.2 h
    · dsimp only
      split
      · simp [h]
      · split
        · next e => simp [semSignal_mem e, h]
        · exact outWf_next.2 (fatal_wf _ _ _ _ (by simpa using h))

theorem execHaspReleaseDelivery_wf (c : Fin 4) : OutWf (execHaspReleaseDelivery c s) := by
  unfold execHaspReleaseDelivery
  dsimp only
  split
  · exact outWf_next.2 h
  · split <;> simp [h]

/-! ### Engine commands, calls and tiles -/

theorem execCommandStart_wf (c : Fin 4) (e : Engine) (timed : Bool) : OutWf (execCommandStart c e timed s) := by
  unfold execCommandStart
  dsimp only
  split
  · exact outWf_next.2 (beginColl_wf h _ _)
  · split
    · exact outWf_next.2 h
    · simp [startCmd_wf, h]

theorem execCopyElement_wf (c : Fin 4) (id : BitVec 16) : OutWf (execCopyElement c id s) := by
  unfold execCopyElement
  split
  · exact outWf_next.2 h
  · simp [copyElem_wf, loadWord_wf, h]

theorem execCommandComplete_wf (c : Fin 4) (id : BitVec 16) : OutWf (execCommandComplete c id s) := by
  unfold execCommandComplete
  split
  · exact outWf_next.2 h
  · extract_lets done u v sig count
    have hv : v.mem = s.mem := by simp [v, u]
    have hs : ∀ t, sig = some t → t.mem = s.mem := by
      intro t e
      simp only [sig] at e
      split at e
      · rw [← Option.some.inj e]; exact hv
      · exact (semSignal_mem e).trans hv
    clear_value sig v
    split
    · exact outWf_next.2 h
    · split
      · next t =>
        have ht : t.mem = s.mem := hs t rfl
        exact outWf_next.2 (settle_wf (by simpa [count, ht] using h) _)
      · exact outWf_next.2 (fatal_wf _ _ _ _ (by simpa [count, hv] using h))

theorem execCallComplete_wf : OutWf (execCallComplete s) := by
  unfold execCallComplete
  split
  · exact outWf_next.2 h
  · split
    · exact outWf_next.2 h
    · extract_lets m7 inc u done
      have hu : Memory.wf u.mem = true := by simpa [u] using h
      have hd : ∀ t : State, Memory.wf t.mem = true → Memory.wf (done t).mem = true := fun t ht => settle_wf (by simpa using ht) _
      split
      · exact outWf_next.2 (hd _ hu)
      · split
        · next e => exact outWf_next.2 (hd _ (by rw [semSignal_mem e]; exact hu))
        · exact outWf_next.2 (callFault_wf _ _ (by exact hu))

theorem execWeightBlockDeliver_wf (c : Fin 4) : OutWf (execWeightBlockDeliver c s) := by
  unfold execWeightBlockDeliver
  dsimp only
  split
  · exact outWf_next.2 h
  · split
    · exact outWf_next.2 h
    · split
      · exact outWf_next.2 h
      · split
        · exact outWf_next.2 (cmdFault_wf (by simpa using h) _ _ _)
        · simp [h]

theorem execBankAccess_wf (e : BankEvent) : OutWf (execBankAccess e s) := by
  unfold execBankAccess
  dsimp only
  split
  · split
    · exact outWf_next.2 h
    · exact outWf_next.2 (foldl_wf (fun _ _ hu => serveBank_wf hu _) _ (by exact h))
  · simp [h]
  · simp [h]

theorem execTileDrainComplete_wf (t : BitVec 8) : OutWf (execTileDrainComplete t s) := by simp [execTileDrainComplete, h]

theorem execTileStallTimeout_wf (w : TileWaiter) : OutWf (execTileStallTimeout w s) := by
  unfold execTileStallTimeout
  split
  · simp [fatal_wf, h]
  · split <;> simp [cmdFault_wf, h]
  · split <;> simp [callFault_wf, h]

theorem execCallSelect_wf : OutWf (execCallSelect s) := by
  unfold execCallSelect
  split
  · split
    · exact outWf_next.2 (callMeets_wf h _ _)
    · exact outWf_next.2 (callFault_wf _ _ h)
    · exact outWf_next.2 h
  · split
    · exact outWf_next.2 h
    · split
      · exact outWf_next.2 h
      · extract_lets x thr r u₀ u v
        have hu : Memory.wf u.mem = true := by simpa [u, u₀] using h
        have hv : Memory.wf v.mem = true := by simp [v, hu]
        clear_value v u
        split
        · exact outWf_next.2 (callFault_wf _ _ hu)
        · split
          · exact outWf_next.2 (callMeets_wf hu _ _)
          · split
            · exact outWf_next.2 (callFault_wf _ _ hv)
            · exact outWf_next.2 hv

/-! ### Memory and the stations -/

theorem execStorePerform_wf (c : Fin 4) (id : Nat) : OutWf (execStorePerform c id s) := by
  unfold execStorePerform
  split
  · exact outWf_next.2 h
  · simp [perform_wf, h]

theorem execPropagateStep_wf (lvl : Level) (id : Nat) : OutWf (execPropagateStep lvl id s) := by
  simp [execPropagateStep, endTorn_wf, putStation_wf, h]

theorem execFillStep_wf (lvl : Level) (pa : BitVec 56) : OutWf (execFillStep lvl pa s) := by
  simp [execFillStep, putStation_wf, h]

theorem execDropStep_wf (lvl : Level) (pa : BitVec 56) : OutWf (execDropStep lvl pa s) := by cases lvl <;> exact outWf_next.2 h

theorem execLoadStep_wf (c : Fin 4) (id : Nat) : OutWf (execLoadStep c id s) := by
  unfold execLoadStep
  split
  · exact outWf_next.2 h
  · split
    · exact outWf_next.2 h
    · split
      · exact outWf_next.2 (metBy_wf _ _ _ (by simpa using h))
      · simp [supply_wf, h]

theorem execReleaseComplete_wf (c : Fin 4) : OutWf (execReleaseComplete c s) := by simp [execReleaseComplete, h]

theorem execHomeServe_wf (id : Nat) : OutWf (execHomeServe id s) := by
  unfold execHomeServe
  split
  · exact outWf_next.2 (homeServe_wf h _)
  · dsimp only
    split <;> simp [sketchStep_wf, h]

theorem execTlbWalk_wf (asid : BitVec 16) (va : BitVec 56) : OutWf (execTlbWalk asid va s) := by
  unfold execTlbWalk
  split <;> simp [h]

theorem execWriteRetranslate_wf (c : Fin 4) (id : Nat) : OutWf (execWriteRetranslate c id s) := by
  unfold execWriteRetranslate
  dsimp only
  split
  · exact outWf_next.2 h
  · split
    · simp [h]
    · exact outWf_next.2 (fatal_wf _ _ _ _ (by simpa using h))

theorem execTlbInvalidationApplied_wf (t : TlbRef) : OutWf (execTlbInvalidationApplied t s) := by
  unfold execTlbInvalidationApplied
  dsimp only
  split
  · exact outWf_next.2 h
  · split
    · exact outWf_next.2 h
    · exact outWf_next.2 (foldl_wf (fun _ _ hu => logRetry_wf (by simpa using hu) _) _ (by exact h))

theorem execInvalidate_wf : OutWf (execInvalidate s) := by
  unfold execInvalidate
  split
  · exact outWf_next.2 h
  · simp [iqDone_wf, invalEnd_wf, h]

theorem execHtlbi_wf (f : RF) : OutWf (execHtlbi f s) := by simp [execHtlbi, h]

theorem execHtlbf_wf (f : RF) : OutWf (execHtlbf f s) := by simp [execHtlbf, invalEnd_wf, h]

theorem execManagementCoreAccess_wf (wr : Bool) (pa : BitVec 56) (bytes : List (BitVec 8)) :
    OutWf (execManagementCoreAccess wr pa bytes s) := by simp [execManagementCoreAccess, memPut_wf, h]

theorem execHostBar2Access_wf (wr : Bool) (off : BitVec 39) (bytes : List (BitVec 8)) : OutWf (execHostBar2Access wr off bytes s) := by
  simp [execHostBar2Access, memPut_wf, h]

/-! ### Launches -/

theorem execLaunchEnd_wf (lid : BitVec 32) : OutWf (execLaunchEnd lid s) := by
  unfold execLaunchEnd
  split
  · exact outWf_next.2 h
  · simp [endBare_wf, finishLaunch_wf, h]

theorem execTimeLimit_wf (lid : BitVec 32) : OutWf (execTimeLimit lid s) := by
  unfold execTimeLimit
  split
  · exact outWf_next.2 h
  · simp [endBare_wf, h]

theorem execKilled_wf (lid : BitVec 32) : OutWf (execKilled lid s) := by
  unfold execKilled
  split
  · exact outWf_next.2 (endBare_wf h _ _)
  · split
    · exact outWf_next.2 h
    · simp [notRun_wf, h]

theorem execPreemptionOrder_wf (c : Fin 4) : OutWf (execPreemptionOrder c s) := by simp [execPreemptionOrder, h]

theorem execSchedulerPass_wf : OutWf (execSchedulerPass s) := by
  unfold execSchedulerPass
  split
  · exact outWf_next.2 h
  · generalize List.range 64 = queues
    extract_lets u q v q'
    have hu : Memory.wf v.mem = true := foldl_wf (fun _ n hu => writeOff_wf hu n) queues h
    clear_value v
    split
    · exact outWf_next.2 hu
    · split
      · exact outWf_next.2 (startLaunch_wf hu _ _ _)
      · extract_lets w
        have hw : Memory.wf w.mem = true := evict_wf (by exact hu) _
        clear_value w
        split
        · exact outWf_next.2 (startLaunch_wf hw _ _ _)
        · exact outWf_next.2 hw

theorem execBallastAdmit_wf : OutWf (execBallastAdmit s) := by
  unfold execBallastAdmit
  extract_lets u
  have hu : Memory.wf u.mem = true := h
  clear_value u
  split
  · exact outWf_next.2 h
  · split
    · exact outWf_next.2 (foldl_wf (fun v l hv => by simp [endBare_wf, hv]) _ hu)
    · split
      · split
        · next n d _ =>
          have ht := startLaunch_wf h n d 7
          generalize s.startLaunch n d 7 = t at ht ⊢
          exact outWf_next.2 ht
        · exact outWf_next.2 h
      · exact outWf_next.2 h

/-! ### Collectives and multicast -/

theorem execDigest_wf (c : Fin 4) (id : BitVec 16) (m : MemberDigest) : OutWf (execDigest c id m s) := by
  unfold execDigest
  dsimp only
  split
  · simp [settled_wf, gotDigest_wf, h]
  · split
    · exact outWf_next.2 h
    · simp [endLaunch_wf, h]

theorem execSendPermit_wf (c : Fin 4) (id : BitVec 16) (e : PermitEvent) : OutWf (execSendPermit c id e s) := by
  unfold execSendPermit
  dsimp only
  split
  · split
    · exact outWf_next.2 h
    · cases e <;> simp [settled_wf, grant_wf, goOn_wf, h]
  · simp [h]

theorem execChunkSend_wf : OutWf (execChunkSend s) := by
  unfold execChunkSend
  split
  · exact outWf_next.2 h
  · split
    · dsimp only
      refine outWf_ite.2 ⟨fun _ => outWf_next.2 h, fun _ => outWf_next.2 (orMeets_wf h _ _ _ (goOn_wf ?_ _ _))⟩
      simp [h]
    · exact outWf_next.2 h

theorem execChunkReceive_wf (c : Fin 4) (id : BitVec 16) (bytes : List (BitVec 8)) : OutWf (execChunkReceive c id bytes s) := by
  unfold execChunkReceive
  split
  · exact outWf_next.2 h
  · split
    · dsimp only
      split
      · exact outWf_next.2 h
      · split
        · simp [h]
        · split
          · split
            · exact outWf_next.2 (chunkArrives_wf (by exact h) _ _ _ _ _)
            · exact outWf_next.2 h
          · simp [chunkArrives_wf, h]
    · exact outWf_next.2 h

theorem execMcstStamp_wf (g : BitVec 12) (ext : Option McBlock) : OutWf (execMcstStamp g ext s) := by
  unfold execMcstStamp
  extract_lets n x cs u
  split
  · simp [h]
  · split
    · exact outWf_next.2 h
    · have hu : Memory.wf u.mem = true := h
      clear_value u
      refine outWf_ite.2 ⟨fun _ => outWf_next.2 h, fun _ => ?_⟩
      refine outWf_ite.2 ⟨fun _ => outWf_next.2 (cmdFault_wf hu _ _ _), fun _ => ?_⟩
      refine outWf_ite.2 ⟨fun _ => outWf_next.2 (cmdFault_wf hu _ _ _), fun _ => ?_⟩
      refine outWf_ite.2 ⟨fun _ => outWf_next.2 hu, fun _ => ?_⟩
      split
      · exact outWf_next.2 (failMcst_wf (by simpa using hu) _ _ _)
      · simp [hu]

theorem execBlockApply_wf (g : BitVec 12) : OutWf (execBlockApply g s) := by
  unfold execBlockApply
  dsimp only
  split
  · exact outWf_next.2 h
  · split <;> simp [applyStep_wf, skipStep_wf, h]

theorem execViewChange_wf (g : BitVec 12) (v : ViewInfo) : OutWf (execViewChange g v s) := by
  unfold execViewChange
  extract_lets n u x c top dead y
  split
  · exact outWf_next.2 h
  · have hu : Memory.wf u.mem = true := by simp [u, h]
    clear_value u
    exact outWf_next.2 (foldl_wf (fun _ _ hv => failMcst_wf hv _ _ _) _ (newView_wf (by simpa using hu) _ _))

theorem execPackageLoss_wf (p : BitVec 10) : OutWf (execPackageLoss p s) := by
  unfold execPackageLoss
  split
  · exact outWf_next.2 h
  · extract_lets was u gs v w x y
    have hu : Memory.wf u.mem = true := h
    clear_value u
    have hv : Memory.wf v.mem = true := foldl_wf (fun _ _ ht => by simp [ht]) _ hu
    have hw : Memory.wf w.mem = true := losePeers_wf hv p
    have hx : Memory.wf x.mem = true := foldl_wf (fun _ c hu => loseCtx_wf hu p c) _ hw
    clear_value x
    have hy : Memory.wf y.mem = true := foldl_wf (fun _ _ hu => by simpa using hu) _ hx
    clear_value y
    exact outWf_next.2 hy

theorem execFabricPathLoss_wf (p : BitVec 10) : OutWf (execFabricPathLoss p s) := outWf_next.2 (losePeers_wf h p)

/-! ### Self-tests, heat, power and boot -/

theorem execParityTrap_wf (c : Fin 4) (p : ParityEvent) : OutWf (execParityTrap c p s) := by
  unfold execParityTrap
  extract_lets x t noted checked
  have hn : Memory.wf noted.mem = true := by
    simp only [noted]
    split
    · exact errAppend_wf h _
    · exact h
  have hc : Memory.wf checked.mem = true := by simp [checked, fatal_wf, hn]
  simp [h, hc]

theorem execSelfTest_wf (u : UnitRef) (cause : TestCause) : OutWf (execSelfTest u cause s) := by
  unfold execSelfTest
  split
  · exact outWf_next.2 h
  · split
    · split
      · exact outWf_next.2 h
      · simp [checksumMiss_wf, h]
    · simp [h]
    · simp [h]
    · simp [h]
    · simp [uncorrectable_wf, h]

theorem execSelfTestResult_wf (u : UnitRef) (pass : Bool) : OutWf (execSelfTestResult u pass s) := by
  unfold execSelfTestResult
  extract_lets ts r v
  split
  · simp [h]
  · extract_lets w
    have hv : Memory.wf v.mem = true := foldl_wf (fun _ _ hu => errAppend_wf hu _) _ (by simpa [r] using h)
    simp [w, hv]

theorem execSensorRefresh_wf (die : Fin 6) (n : BitVec 8) (raw : BitVec 16) : OutWf (execSensorRefresh die n raw s) := by
  simp [execSensorRefresh, h]

theorem execThermalEvaluation_wf : OutWf (execThermalEvaluation s) := by
  unfold execThermalEvaluation
  dsimp only
  split
  · exact outWf_next.2 h
  · split <;> simp [h]

theorem execDramRefresh_wf (bank : Nat) : OutWf (execDramRefresh bank s) := by simp [execDramRefresh, h]

theorem execActivationAlert_wf (bank : Nat) : OutWf (execActivationAlert bank s) := by simp [execActivationAlert, h]

theorem execWholeCoreSelfTest_wf (pass : Bool) : OutWf (execWholeCoreSelfTest pass s) := by simp [execWholeCoreSelfTest, h]

theorem execLinkRetry_wf (port : BitVec 8) : OutWf (execLinkRetry port s) := by simp [execLinkRetry, h]

theorem execBoot_wf (fail : Option (Fin 6)) (rollback : BitVec 32) : OutWf (execBoot fail rollback s) := by
  simp [execBoot, moveWindow_wf, h]

/-- What power loss leaves of memory is a part of it. -/
theorem execPowerOff_wf : OutWf (execPowerOff s) := outWf_next.2 (filter_wf _ (moveWindow_wf h _))

theorem execAttestationReport_wf (nonce : BitVec 256) (lid : BitVec 32) : OutWf (execAttestationReport nonce lid s) := by
  simp [execAttestationReport, h]

/-! ### Debugging and register writes -/

theorem execSample_wf : OutWf (execSample s) := outWf_next.2 (foldl_wf (fun _ c hu => sampleCtx_wf hu c) _ h)

theorem execQtail_wf : OutWf (execQtail s) := by
  unfold execQtail
  split
  · exact outWf_next.2 h
  · next e => simp [takeWrite_mem e, h]

theorem execQstat_wf : OutWf (execQstat s) := by
  unfold execQstat
  split
  · exact outWf_next.2 h
  · next e => simp [takeWrite_mem e, h]

theorem execIqtail_wf : OutWf (execIqtail s) := by
  unfold execIqtail
  split
  · exact outWf_next.2 h
  · next e => simp [takeWrite_mem e, h]

theorem execPfack_wf : OutWf (execPfack s) := by
  unfold execPfack
  split
  · exact outWf_next.2 h
  · next t e =>
    have ht : Memory.wf t.mem = true := by rw [takeWrite_mem e]; exact h
    split
    · exact outWf_next.2 ht
    · split
      · exact outWf_next.2 ht
      · split <;> simp [fatal_wf, ht]

theorem execErrdrop_wf : OutWf (execErrdrop s) := by simp [execErrdrop, h]

theorem execDbgsel_wf : OutWf (execDbgsel s) := by
  unfold execDbgsel
  split
  · exact outWf_next.2 h
  · next e =>
    dsimp only
    split
    · simp [takeWrite_mem e, h]
    · split <;> simp [takeWrite_mem e, h]

theorem execThcfg_wf : OutWf (execThcfg s) := by
  unfold execThcfg
  split
  · exact outWf_next.2 h
  · next e => simp [takeWrite_mem e, h]

theorem execThstat_wf : OutWf (execThstat s) := by
  unfold execThstat
  split
  · exact outWf_next.2 h
  · next e => simp [takeWrite_mem e, h]

theorem execPwrcfg_wf : OutWf (execPwrcfg s) := by
  unfold execPwrcfg
  split
  · exact outWf_next.2 h
  · next e => simp [takeWrite_mem e, h]

theorem execMgmtRegWrite_wf : OutWf (execMgmtRegWrite s) := by
  unfold execMgmtRegWrite
  split
  · exact outWf_next.2 h
  · next t e =>
    have ht : Memory.wf t.mem = true := by rw [takeWrite_mem e]; exact h
    split
    · exact outWf_next.2 ht
    · split
      · simp [ht]
      · split
        · exact outWf_next.2 ht
        · split
          · exact outWf_next.2 ht
          · extract_lets u
            have hu : Memory.wf u.mem = true := by simp [u, moveWindow_wf, ht]
            simp only [outWf_next, ite_mem_wf]
            exact ⟨fun _ => foldl_wf (fun _ c hv => parkedAppend_wf hv c) _ hu, fun _ => hu⟩

/-! ### Every instruction and every step -/

/-- Every instruction and event keeps the canonical form: those of a slot by `runSlot`, the words and epilogue instructions by `runWordOf`,
the events each by its own lemma. -/
theorem exec_wf (i : Instr) : OutWf (exec i s) := by
  have hslot := runSlot_wf h i
  have hword := runWordOf_wf h i
  unfold exec
  cases i with
  | resultLand c => exact execResultLand_wf h c
  | loadReturn c => exact execLoadReturn_wf h c
  | queueEntryVisible c q arr => exact execQueueEntryVisible_wf h c q arr
  | skqryAnswer c | randomEntryGenerated c => exact outWf_next.2 (by simpa using h)
  | semWaitSatisfied n => exact execSemWaitSatisfied_wf h n
  | ssigSignal c => exact execSsigSignal_wf h c
  | commandStart c e timed => exact execCommandStart_wf h c e timed
  | copyElement c id => exact execCopyElement_wf h c id
  | commandComplete c id => exact execCommandComplete_wf h c id
  | weightBlockDeliver c => exact execWeightBlockDeliver_wf h c
  | bankAccess bank => exact execBankAccess_wf h bank
  | tileDrainComplete t => exact execTileDrainComplete_wf h t
  | tileStallTimeout w => exact execTileStallTimeout_wf h w
  | storePerform c id => exact execStorePerform_wf h c id
  | propagateStep lvl id => exact execPropagateStep_wf h lvl id
  | fillStep lvl pa => exact execFillStep_wf h lvl pa
  | dropStep lvl pa => exact execDropStep_wf h lvl pa
  | loadStep c id => exact execLoadStep_wf h c id
  | releaseComplete c => exact execReleaseComplete_wf h c
  | homeServe id => exact execHomeServe_wf h id
  | haspReleaseDelivery c => exact execHaspReleaseDelivery_wf h c
  | trapRestore c => exact execTrapRestore_wf h c
  | parityTrap c p => exact execParityTrap_wf h c p
  | debuggerStop c => exact execDebuggerStop_wf h c
  | launchEnd lid => exact execLaunchEnd_wf h lid
  | timeLimit lid => exact execTimeLimit_wf h lid
  | killed lid => exact execKilled_wf h lid
  | resume c => exact execResume_wf h c
  | tlbWalk asid va => exact execTlbWalk_wf h asid va
  | writeRetranslate c id => exact execWriteRetranslate_wf h c id
  | mcstStamp g ext => exact execMcstStamp_wf h g ext
  | blockApply g => exact execBlockApply_wf h g
  | viewChange g v => exact execViewChange_wf h g v
  | packageLoss p => exact execPackageLoss_wf h p
  | digest c id d => exact execDigest_wf h c id d
  | sendPermit c id e => exact execSendPermit_wf h c id e
  | chunkReceive c id bytes => exact execChunkReceive_wf h c id bytes
  | selfTest u cause => exact execSelfTest_wf h u cause
  | selfTestResult u pass => exact execSelfTestResult_wf h u pass
  | sensorRefresh die n raw => exact execSensorRefresh_wf h die n raw
  | dramRefresh bank => exact execDramRefresh_wf h bank
  | activationAlert bank => exact execActivationAlert_wf h bank
  | boot fail rollback => exact execBoot_wf h fail rollback
  | attestationReport nonce lid => exact execAttestationReport_wf h nonce lid
  | hostBar2Access wr off bytes => exact execHostBar2Access_wf h wr off bytes
  | htlbi f => exact execHtlbi_wf h f
  | htlbf f => exact execHtlbf_wf h f
  | debuggerResume c => exact execDebuggerResume_wf h c
  | preemptionOrder c => exact execPreemptionOrder_wf h c
  | tlbInvalidationApplied t => exact execTlbInvalidationApplied_wf h t
  | managementCoreAccess wr pa bytes => exact execManagementCoreAccess_wf h wr pa bytes
  | wholeCoreSelfTest pass => exact execWholeCoreSelfTest_wf h pass
  | linkRetry port => exact execLinkRetry_wf h port
  | fabricPathLoss p => exact execFabricPathLoss_wf h p
  | bundleIssue => exact execBundleIssue_wf h
  | bundleSkip => exact execBundleSkip_wf h
  | contextSwitch => exact execContextSwitch_wf h
  | callSelect => exact execCallSelect_wf h
  | callComplete => exact execCallComplete_wf h
  | schedulerPass => exact execSchedulerPass_wf h
  | ballastAdmit => exact execBallastAdmit_wf h
  | invalidate => exact execInvalidate_wf h
  | chunkSend => exact execChunkSend_wf h
  | holdRelease | holdTimeout => exact outWf_next.2 (by simpa using h)
  | sample => exact execSample_wf h
  | thermalEvaluation => exact execThermalEvaluation_wf h
  | qtail => exact execQtail_wf h
  | qstat => exact execQstat_wf h
  | iqtail => exact execIqtail_wf h
  | pfack => exact execPfack_wf h
  | errdrop => exact execErrdrop_wf h
  | dbgsel => exact execDbgsel_wf h
  | thcfg => exact execThcfg_wf h
  | thstat => exact execThstat_wf h
  | pwrcfg => exact execPwrcfg_wf h
  | mgmtRegWrite => exact execMgmtRegWrite_wf h
  | gtbTargetReached => exact execGtbTargetReached_wf h
  | powerOff => exact execPowerOff_wf h
  | munop f | zacc f | wld f | wstr f | astr f | achn f | runW f | oprk f | spsel f | drn f | cksv f | mlp f | mbrn f | mend f | mwait f | msig f
    | padd f | pset f | epiDone f | ldb f | epiAdd f | epiMul f | epiFma f | epiMax f | epiMin f | relu f | epiTbl f | epiExp2 f | epiCvt f
    | epiNrw f | rmax f | rsum f | wrt f | epiPush f | scal f | clmp f | epiSel f => exact hword
  | _ => exact hslot

end

/-- Settles O59: what is up next has the memory of the state, the instruction keeps its canonical form, and so does the time that passes. -/
theorem memCanonical : Obligations.MemCanonical := by
  unfold Obligations.MemCanonical
  intro s t h e
  obtain ⟨i, u, v, hu, hv, rfl⟩ := step_next e
  have hm : Memory.wf u.mem = true := by rw [upNext_mem hu]; exact h
  exact passTime_wf (exec_wf hm i v hv)

end Sys2Proof.Laws
end

section
/-! SUPPORT. What a slot operation adds to the landing buffer, what landing does to the guards and the mask registers (R13, R88), and what
the machine holds after reset. -/

set_option Elab.async false

namespace Sys2Proof.Laws

open Sys2Proof Sys2Proof.Machine

/-! ### Slot operations that only add a result to the landing buffer (R88, R89, R106) -/

/-- `State.land` in the words of the statements: one entry more in the landing buffer of the context that issues. -/
theorem land_eq_lands (s : State) (k pos : Nat) (act : Land) (fl : BitVec 6) : s.land k pos act fl = s.lands [s.entry k pos act fl] := rfl

@[simp] theorem lands_me_landing (s : State) (es : List LandEntry) : (s.lands es).me.arch.landing = s.me.arch.landing ++ es := by
  simp [State.lands]

/-- CMP, register form (R111). -/
theorem exec_cmp {f : AF} {s : State} (h : Guarded f.g s) :
    exec (.cmp f) s = .next (s.lands [s.entry 1 1 (landGuard f.d.toNat (cmpCond f.q.toNat (s.aA f) (s.aB f)))]) := by
  change execCmp f s = _
  rw [execCmp, slotOp_true h, land_eq_lands]

/-- KMOV to a mask register (R142): bit 22 picks the half. -/
theorem exec_kmovToK {f : SF} {s : State} (h : Guarded f.g s) :
    exec (.kmovToK f) s = .next (s.lands [s.entry 1 0 (.k (f.f 18 4) ((BitVec.allOnes 64).setWidth 128 <<< (64 * (f.f 22 2 % 2)))
      ((s.me.arch.rs f.n).setWidth 128 <<< (64 * (f.f 22 2 % 2))))]) := by
  change execKmovToK f s = _
  rw [execKmovToK, slotOp_true h, land_eq_lands]

/-! ### Landing in the guards and the mask registers (R13) -/

/-- A guard write changes the guards of its mask, g0 apart. -/
theorem apply_g_rg (a : Arch) (mask val : BitVec 16) {i : Nat} (h0 : 0 < i) (h16 : i < 16) :
    (a.apply (.g mask val)).rg i = if mask.getLsbD i then val.getLsbD i else a.rg i := by
  have hi : (i == 0) = false := beq_false_of_ne (by omega)
  have hbits : ∀ j < 16, 0 < j → (0xFFFE : BitVec 16).getLsbD j = true := by decide
  have hbit := hbits i h16 h0
  simp only [Arch.apply, Arch.rg, hi, Bool.false_or, BitVec.getLsbD_or, BitVec.getLsbD_and, BitVec.getLsbD_not, h16, decide_true, hbit]
  cases mask.getLsbD i <;> simp

/-- A write of k0 changes no register. -/
theorem apply_k_zero (a : Arch) (mask val : BitVec 128) : a.apply (.k 0 mask val) = a := rfl

/-- A mask register write changes the bits of its mask, k0 apart. -/
theorem apply_k_rk {a : Arch} (h : Store.wf a.k = true) (r : Nat) (mask val : BitVec 128) {i : Nat} (hi : i ≠ 0) :
    (a.apply (.k r mask val)).rk i = if r = i then (a.rk i &&& ~~~mask) ||| (val &&& mask) else a.rk i := by
  by_cases hr : r = 0
  · subst hr
    rw [if_neg hi.symm, apply_k_zero]
  · simp only [Arch.apply, Arch.rk, hr, hi, ↓reduceIte, get_put _ _ _ h]
    by_cases e : r = i
    · subst e
      simp only [↓reduceIte]
    · simp only [e, Ne.symm e, ↓reduceIte]

/-- The result of a comparison into g0 changes no register. -/
theorem apply_landGuard_zero (a : Arch) (v : Bool) : a.apply (landGuard 0 v) = a := by
  have hmask : BitVec.ofNat 16 (2 ^ 0) &&& 0xFFFE = 0#16 := by decide
  simp only [landGuard, Arch.apply, hmask, BitVec.not_zero, BitVec.and_allOnes, BitVec.and_zero, BitVec.or_zero]

/-- Settles O44: g0 and k0 do not read from the registers that landing writes, and an entry for g0 or k0 lands without an effect. -/
theorem hardwiredRegisters : Obligations.HardwiredRegisters := by
  unfold Obligations.HardwiredRegisters
  refine ⟨fun a l => ⟨rg_zero _, rk_zero _⟩, fun a mask val i => apply_g_rg a mask val, fun a r mask val i h => apply_k_rk h r mask val,
    fun f s hg hd => ⟨_, _, exec_cmp hg, lands_me_landing _ _, fun a i => ?_⟩,
    fun f s hg hk => ⟨_, _, exec_kmovToK hg, lands_me_landing _ _, fun a => ?_⟩⟩
  · have happly (v : Bool) : a.apply (landGuard f.d.toNat v) = a := by rw [hd]; exact apply_landGuard_zero a v
    simp [State.entry, happly]
  · simp only [State.entry, hk, apply_k_zero]

/-! ### The machine after reset -/

/-- Every hardware context is as new. -/
theorem reset_ctx (c : Fin 4) : State.reset.ctx c = {} := by
  match c with
  | 0 | 1 | 2 | 3 => rfl

theorem reset_reg (o : Nat) : State.reset.reg o = resetRegs.get o := rfl

/-- The registers that are not 0 at reset begin with THCFG of die 0 (R451). -/
theorem resetRegs_wfFrom : Store.wfFrom 0x500080 resetRegs = true := by decide

/-- Settles O60: memory, semaphores and tiles list nothing at reset; of the registers only THCFG and PWRCFG do. -/
theorem resetValues : Obligations.ResetValues := by
  unfold Obligations.ResetValues
  refine ⟨rfl, rfl, rfl, rfl, fun c => ?_, fun n => ⟨rfl, rfl⟩, fun k => rfl, fun a => rfl, ?_, rfl, fun n hn => ?_⟩
  · rw [reset_ctx]; exact ⟨rfl, rg_zero _, rk_zero _⟩
  · decide
  · rw [reset_reg]; exact get_of_lt resetRegs_wfFrom (by omega)

end Sys2Proof.Laws
end

section
/-! SUPPORT. RUN and OPRK (R207 to R209): the accumulator after a word has put its rows, and what the words answer once they can read all
that they need. -/

set_option Elab.async false

namespace Sys2Proof.Laws

open Sys2Proof Sys2Proof.Machine

/-! ### Rows of the accumulator, put one after the other -/

/-- The state after rows of tile `t`, each with its number, have been put in order, as RUN and OPRK put them. -/
def putAccRows (s : State) (t : Nat) (l : List (Nat × List W32)) : State := l.foldl (fun u p => u.putAccRow t p.1 p.2) s

theorem putAccRows_cons (s : State) (t : Nat) (p : Nat × List W32) (l : List (Nat × List W32)) :
    putAccRows s t (p :: l) = putAccRows (s.putAccRow t p.1 p.2) t l := rfl

/-- Putting rows changes the accumulator and the failing words of the state, and nothing else. -/
theorem putAccRows_frame (t : Nat) : ∀ (l : List (Nat × List W32)) (s : State),
    putAccRows s t l = { s with acc := (putAccRows s t l).acc, bad := (putAccRows s t l).bad }
  | [], _ => rfl
  | p :: l, s => by rw [putAccRows_cons]; exact putAccRows_frame t l (s.putAccRow t p.1 p.2)

theorem putAccRow_acc_wf {s : State} (t row : Nat) (ws : List W32) (h : Store.wf s.acc = true) : Store.wf (s.putAccRow t row ws).acc = true :=
  putList_wf _ _ h

/-- A word outside a row keeps its value when the row is put. -/
theorem get_putAccRow_outside {s : State} {t row j : Nat} (ws : List W32) (h : Store.wf s.acc = true)
    (hj : j < accIdx t row 0 ∨ accIdx t (row + 1) 0 ≤ j) : (s.putAccRow t row ws).acc.get j = s.acc.get j := by
  refine get_putList_of_lt_or_ge _ _ _ h ?_
  simp only [accIdx, List.length_take] at hj ⊢
  omega

/-- A word of a row that has been put is the row's word for its column. -/
theorem get_putAccRow_inside {s : State} {t row n : Nat} {ws : List W32} (h : Store.wf s.acc = true) (hws : ws.length = 128) (hn : n < 128) :
    (s.putAccRow t row ws).acc.get (accIdx t row n) = ws[n] := by
  have htake : ws.take 128 = ws := List.take_of_length_le (Nat.le_of_eq hws)
  simp only [State.putAccRow, htake]
  exact get_putList (accIdx t row 0) ws n h (hws ▸ hn)

/-- A word outside every row that is put keeps its value. -/
theorem get_putAccRows_outside {t j : Nat} : ∀ {l : List (Nat × List W32)} {s : State}, Store.wf s.acc = true →
    (∀ p ∈ l, j < accIdx t p.1 0 ∨ accIdx t (p.1 + 1) 0 ≤ j) → (putAccRows s t l).acc.get j = s.acc.get j
  | [], _, _, _ => rfl
  | p :: l, s, h, hj => by
    rw [putAccRows_cons, get_putAccRows_outside (putAccRow_acc_wf t p.1 p.2 h) fun q hq => hj q (List.mem_cons_of_mem p hq)]
    exact get_putAccRow_outside p.2 h (hj p List.mem_cons_self)

/-- Of rows with different numbers each stays as it was put, since the later ones lie elsewhere. -/
theorem get_putAccRows_inside {t row n : Nat} {ws : List W32} (hws : ws.length = 128) (hn : n < 128) :
    ∀ {l : List (Nat × List W32)} {s : State}, Store.wf s.acc = true → (l.map Prod.fst).Nodup → (row, ws) ∈ l →
      (putAccRows s t l).acc.get (accIdx t row n) = ws[n]
  | [], _, _, _, hmem => absurd hmem List.not_mem_nil
  | p :: l, s, h, hl, hmem => by
    have hwf := putAccRow_acc_wf t p.1 p.2 h
    obtain ⟨hp, hl⟩ := List.nodup_cons.1 hl
    rw [putAccRows_cons]
    rcases List.mem_cons.1 hmem with rfl | hmem
    · rw [get_putAccRows_outside hwf, get_putAccRow_inside h hws hn]
      intro q hq
      have hne : q.1 ≠ row := fun e => hp (List.mem_map.2 ⟨q, hq, e⟩)
      simp only [accIdx]
      omega
    · exact get_putAccRows_inside hws hn hwf hl hmem

/-! ### Rows made of the old words of their columns -/

/-- What `op` gives for the old words of an accumulator row and their columns. -/
def rowOp (s : State) (t row : Nat) (op : W32 → Nat → W32 × BitVec 6) : List (W32 × BitVec 6) :=
  (s.accRow t row).zipIdx.map (fun p => op p.1 p.2)

/-- `m` rows from row `r0` on, each with its number; `op i` makes the words of row `r0 + i`. -/
def opRows (s : State) (t r0 m : Nat) (op : Nat → W32 → Nat → W32 × BitVec 6) : List (Nat × List W32) :=
  (List.range m).map (fun i => (r0 + i, (rowOp s t (r0 + i) (op i)).map Prod.fst))

/-- What `op` gives for the first `m` rows of a tile. -/
def tileOp (s : State) (t m : Nat) (op : Nat → W32 → Nat → W32 × BitVec 6) : List (List (W32 × BitVec 6)) :=
  (List.range m).map (fun i => rowOp s t i (op i))

theorem rowOp_length (s : State) (t row : Nat) (op : W32 → Nat → W32 × BitVec 6) : (rowOp s t row op).length = 128 := by
  simp [rowOp, State.accRow]

theorem rowOp_getElem (s : State) (t row : Nat) (op : W32 → Nat → W32 × BitVec 6) {n : Nat} (hn : n < (rowOp s t row op).length) :
    (rowOp s t row op)[n] = op (s.acc.get (accIdx t row n)) n := by
  simp [rowOp, State.accRow]

section

variable {s : State} {t r0 m : Nat} {op : Nat → W32 → Nat → W32 × BitVec 6}

/-- A word of the rows put is what `op` makes of the word's old value. -/
theorem get_opRows_inside (h : Store.wf s.acc = true) {i n : Nat} (hi : i < m) (hn : n < 128) :
    (putAccRows s t (opRows s t r0 m op)).acc.get (accIdx t (r0 + i) n) = (op i (s.acc.get (accIdx t (r0 + i) n)) n).1 := by
  have hlen : ((rowOp s t (r0 + i) (op i)).map Prod.fst).length = 128 := by rw [List.length_map, rowOp_length]
  have hnums : (opRows s t r0 m op).map Prod.fst = List.range' r0 m := by
    simp [opRows, List.range'_eq_map_range, Function.comp_def]
  have hmem : (r0 + i, (rowOp s t (r0 + i) (op i)).map Prod.fst) ∈ opRows s t r0 m op :=
    List.mem_map.2 ⟨i, List.mem_range.2 hi, rfl⟩
  rw [get_putAccRows_inside hlen hn h (hnums ▸ List.nodup_range') hmem, List.getElem_map, rowOp_getElem]

/-- A word outside the rows put stays. -/
theorem get_opRows_outside (h : Store.wf s.acc = true) {j : Nat} (hj : j < accIdx t r0 0 ∨ accIdx t (r0 + m) 0 ≤ j) :
    (putAccRows s t (opRows s t r0 m op)).acc.get j = s.acc.get j := by
  refine get_putAccRows_outside h fun p hp => ?_
  obtain ⟨i, hi, rfl⟩ := List.mem_map.1 hp
  have him := List.mem_range.1 hi
  simp only [accIdx] at hj ⊢
  omega

/-- The rows that OPRK puts, each at its place in the list, are the rows from 0 on. -/
theorem foldl_zipIdx_tileOp : (tileOp s t m op).zipIdx.foldl (fun u p => u.putAccRow t p.2 (p.1.map Prod.fst)) s =
    putAccRows s t (opRows s t 0 m op) := by
  have hrows : opRows s t 0 m op = (tileOp s t m op).zipIdx.map (fun p => (p.2, p.1.map Prod.fst)) :=
    List.ext_getElem (by simp [opRows, tileOp]) (by simp [opRows, tileOp])
  rw [hrows, putAccRows, List.foldl_map]

/-! ### Words that need the array -/

/-- A call stands at a word, the array is not under test, and tile `t` is of the call's share: a well-formed word of the array takes effect. -/
structure ArrayReady (s : State) (r : CallRun) (t : Nat) : Prop where
  run : s.run = some r
  epi : r.epi = none
  ended : r.ended = false
  fenced : s.arrayFenced = false
  share : (s.ctx r.ctx).share.hasAcc t = true

variable {r : CallRun} {f : WF}

/-- A word of the array whose effect is a state goes on with that state. -/
theorem arrayWord_got {i : Instr} {eff : CallRun → Got State} {u : State} (h : ArrayReady s r t) (hi : i.wf = true) (he : eff r = .got u) :
    (if s.arrayFenced then .next s else wordOp i s (fun r => accTile s r t (eff r))) = (.next u : Out) := by
  have hok : operandsOk i = true := hi
  simp [h.fenced, wordOp, h.run, h.epi, h.ended, hok, accTile, State.callCtx, h.share, he]

/-- Rows of the accumulator without a failing word are read. -/
theorem accReads_of_sound {α : Type} {row n : Nat} (h : s.badAt .acc (List.range' (accIdx t row 0) (128 * n)) = none) (eff : Got α) :
    s.accReads t row n eff = eff := by
  rw [State.accReads, h]

/-- BF16 goes with BF16 alone (R194). -/
theorem pairOk_of_iff {a : Nat} {w : BitVec 4} (h : a = 3 ↔ w = 3) : pairOk a w.toNat = true := by
  have hw : w.toNat = 3 ↔ w = 3 := BitVec.toNat_inj (y := 3#4)
  simp [pairOk, h, hw]

/-- Bit 3 of f0 names the bank of a RUN. -/
theorem bank_f0 (r : CallRun) (f : WF) : r.bank (nfld f.f0.toNat 3 1) = if f.f0.getLsbD 3 then r.wb1 else r.wb0 := by
  have hbit : nfld f.f0.toNat 3 1 = 0 ↔ f.f0.getLsbD 3 = false := by
    simp [nfld, BitVec.getLsbD, Nat.testBit_eq_decide_div_mod_eq, Nat.shiftRight_eq_div_pow]
  simp only [CallRun.bank, hbit]
  cases f.f0.getLsbD 3 <;> rfl

/-- Rows in a format, with their scale records, as values. -/
def rowsVals (fmt : BitVec 4) (rows : List (List Byte)) (scales : List (List Half)) : List (List FV) :=
  (rows.zip scales).map (fun p => rowVals fmt.toNat p.1 p.2 128)

/-! ### What RUN and OPRK leave behind -/

/-- A word puts the rows that `opRows` makes and goes on at the next word; only the flags and the verification count of the call change
beside. -/
def PutsRows (i : Instr) (s : State) (r : CallRun) (t r0 m : Nat) (op : Nat → W32 → Nat → W32 × BitVec 6) : Prop :=
  ∃ fl v, exec i s = .next ((putAccRows s t (opRows s t r0 m op)).nextWord { r with flags := fl, verif := v })

/-- Words put by row: each of them the new value of its old one, the others as before, and the rest of the state too; the call goes on at
its next word with its parameters. -/
theorem PutsRows.spec {i : Instr} (h : PutsRows i s r t r0 m op) (hacc : Store.wf s.acc = true) :
    ∃ u, exec i s = .next u ∧
      (∀ i n, i < m → n < 128 → u.acc.get (accIdx t (r0 + i) n) = (op i (s.acc.get (accIdx t (r0 + i) n)) n).1) ∧
      (∀ j, (j < accIdx t r0 0 ∨ accIdx t (r0 + m) 0 ≤ j) → u.acc.get j = s.acc.get j) ∧
      { u with acc := s.acc, run := s.run, bad := s.bad } = s ∧ u.run.map (fun r' => (r'.word, r'.p)) = some (r.word + 1, r.p) := by
  obtain ⟨fl, v, hexec⟩ := h
  refine ⟨_, hexec, fun i n hi hn => get_opRows_inside hacc hi hn, fun j hj => get_opRows_outside hacc hj, ?_, rfl⟩
  rw [putAccRows_frame]
  rfl

/-! ### RUN -/

/-- What a RUN makes of a word of its row `i`, whose A row has the values `av i`. -/
def runOp (a : ASource) (bk : Bank) (w : List (List FV)) (sparse : Bool) (av : Nat → List FV) (i : Nat) (old : W32) (n : Nat) : W32 × BitVec 6 :=
  accWord (decide (a.fmt = 0) && decide (bk.fmt = 0)) (decide (bk.fmt = 3)) old (runPairs bk w sparse (av i) n)

/-- Where every A row is readable, a RUN's rows are read without a change of the state and come out as `runOp` makes them. -/
theorem runRows_of_readable {a : ASource} {bk : Bank} {w : List (List FV)} {sparse : Bool} {av : Nat → List FV} : ∀ {m i : Nat},
    (∀ j, i ≤ j → j < i + m → aRow s r a f.imm j (if sparse then 2 * bk.rows.length else bk.rows.length) = .got (s, av j)) →
    ∃ fl, runRows r a bk w sparse (decide (a.fmt = 0) && decide (bk.fmt = 0)) f t m i s =
      .got (s, (List.range' i m).map (fun j => (f.f3.toNat + j, (rowOp s t (f.f3.toNat + j) (runOp a bk w sparse av j)).map Prod.fst)), fl)
  | 0, _, _ => ⟨0, rfl⟩
  | m + 1, i, hread => by
    obtain ⟨fl, hrest⟩ := runRows_of_readable (w := w) (m := m) (i := i + 1) fun j hij hj => hread j (by omega) (by omega)
    refine ⟨(rowOp s t (f.f3.toNat + i) (runOp a bk w sparse av i)).foldl (fun o p => o ||| p.2) fl, ?_⟩
    simp only [runRows, hread i (Nat.le_refl i) (by omega), hrest, List.range'_succ, List.map_cons]
    rfl

/-- RUN (R207, R208, R213) once it can read its rows. -/
theorem runW_putsRows {a : ASource} {bk : Bank} {av : Nat → List FV} (h : ArrayReady s r t) (ht : nfld f.f0.toNat 0 3 = t)
    (hb : r.bank (nfld f.f0.toNat 3 1) = bk) (hwf : Instr.wf (.runW f) = true) (ha : r.aSource = some a) (hfull : bk.full = true)
    (hmeta : f.f0.getLsbD 4 = true → bk.hasMeta = true) (hfmt : a.fmt = 3 ↔ bk.fmt = 3)
    (hchain : ∀ c, a = .chain c → f.imm.toNat < 128 ∧ f.imm.toNat + (f.f4.toNat + 1) ≤ c.rows.length ∧ c.tile ≠ t)
    (hbad : s.badAt .acc (List.range' (accIdx t f.f3.toNat 0) (128 * (f.f4.toNat + 1))) = none)
    (hread : ∀ i, i ≤ f.f4.toNat → aRow s r a f.imm i (if f.f0.getLsbD 4 then 2 * bk.rows.length else bk.rows.length) = .got (s, av i)) :
    PutsRows (.runW f) s r t f.f3.toNat (f.f4.toNat + 1)
      (runOp a bk (rowsVals bk.fmt bk.rows bk.scales) (f.f0.getLsbD 4) av) := by
  obtain ⟨fl, hrows⟩ := runRows_of_readable (t := t) (w := rowsVals bk.fmt bk.rows bk.scales)
    (m := f.f4.toNat + 1) (i := 0) fun j _ hj => hread j (by omega)
  refine ⟨r.flags ||| fl, r.verif + (f.f4.toNat + 1) * ceilDiv bk.rows.length (if bk.fmt = 3 then 4 else 16) * (1 + r.mismatch), ?_⟩
  change execRunW f s = _
  unfold execRunW
  refine arrayWord_got (ht ▸ h) hwf ?_
  rw [rowsVals] at hrows
  simp only [ha, hb, ht, accReads_of_sound hbad, hrows]
  rw [if_neg, opRows, List.range_eq_range']
  · rfl
  · cases a with
    | sp src => simpa [hfull, pairOk_of_iff hfmt] using hmeta
    | chain c =>
      obtain ⟨himm, hlen, htile⟩ := hchain c rfl
      simpa [hfull, pairOk_of_iff hfmt, himm, htile] using ⟨hmeta, hlen⟩

/-! ### OPRK -/

/-- What an OPRK makes of the word of row `i` and column `j`. -/
def oprkOp (sa sw : Src) (av bv : List (List FV)) (i : Nat) (old : W32) (j : Nat) : W32 × BitVec 6 :=
  accWord (decide (sa.fmt = 0) && decide (sw.fmt = 0)) (decide (sw.fmt = 3)) old
    ((av.zip bv).map (fun q => (q.1.getD i (.fin false 0 0), q.2.getD j (.fin false 0 0))))

/-- OPRK (R209) once it can read the rows of its two sources. -/
theorem oprk_putsRows {sa sw : Src} {ar br : List (List Byte)} {asc bsc : List (List Half)} {n : Nat} (h : ArrayReady s r t)
    (ht : nfld f.f0.toNat 0 3 = t) (hn : f.f3.toNat + 256 * nfld f.f4.toNat 0 1 + 1 = n) (hwf : Instr.wf (.oprk f) = true)
    (ha : r.aSource = some (.sp sa)) (hw : r.wsrc = some sw) (htload : sw.tload = false) (hfmt : sa.fmt = 3 ↔ sw.fmt = 3)
    (hbad : s.badAt .acc (List.range' (accIdx t 0 0) (128 * 128)) = none)
    (hra : readRows s r sa 128 n (r.pr sa.preg) = .got (s, ar, asc)) (hrw : readRows s r sw 128 n (r.pr sw.preg) = .got (s, br, bsc)) :
    PutsRows (.oprk f) s r t 0 128 (oprkOp sa sw (rowsVals sa.fmt ar asc) (rowsVals sw.fmt br bsc)) := by
  have hpair : pairOk sa.fmt.toNat sw.fmt.toNat = true := pairOk_of_iff ((BitVec.toNat_inj (y := 3#4)).trans hfmt)
  refine ⟨r.flags ||| (tileOp s t 128 (oprkOp sa sw (rowsVals sa.fmt ar asc) (rowsVals sw.fmt br bsc))).foldl
      (fun o row => row.foldl (fun o p => o ||| p.2) o) 0,
    r.verif + ceilDiv n (if sw.fmt = 3 then 4 else 16) * (1 + r.mismatch), ?_⟩
  change execOprk f s = _
  unfold execOprk
  refine arrayWord_got (ht ▸ h) hwf ?_
  simp only [ha, hw, ht, hn, htload, hpair, accReads_of_sound hbad, hra, hrw, Bool.not_true, Bool.false_eq_true, or_self, ↓reduceIte]
  rw [← foldl_zipIdx_tileOp]
  rfl

end

/-- Settles O38: both words put rows whose words are the sums of their old values and their products. -/
theorem wordProducts : Obligations.WordProducts := by
  unfold Obligations.WordProducts
  intro f s r hrun hepi hended hfenced hacc t hshare bk sparse k w
  have hready : ArrayReady s r t := ⟨hrun, hepi, hended, hfenced, hshare⟩
  refine ⟨fun a av hwf ha hfull hmeta hfmt hchain hbad hread => ?_, fun sa sw ar asc br bsc hwf ha hw htload hfmt hbad => ?_⟩
  · obtain ⟨u, hexec, hin, hout, hrest⟩ :=
      (runW_putsRows hready rfl (bank_f0 r f) hwf ha hfull hmeta hfmt hchain hbad hread).spec hacc
    exact ⟨u, hexec, fun i n hi => hin i n (Nat.lt_succ_of_le hi), hout, hrest⟩
  · intro n hra hrw av bv
    obtain ⟨u, hexec, hin, hout, hrest⟩ := (oprk_putsRows hready rfl rfl hwf ha hw htload hfmt hbad hra hrw).spec hacc
    simp only [Nat.zero_add] at hin hout
    exact ⟨u, hexec, hin, hout, hrest⟩

end Sys2Proof.Laws
end

section
/-! SUPPORT. BFXCFG and the operations on es registers (R129 to R131): what each adds to the landing buffer once its checks pass. -/

set_option Elab.async false

namespace Sys2Proof.Laws

open Sys2Proof Sys2Proof.Machine

section
variable {f : AF} {s : State}

/-- BFXCFG with a valid pattern (R129). -/
theorem exec_bfxcfg (h : Guarded f.g s) (hp : bxOk (s.aB f ++ s.aA f) = true) :
    exec (.bfxcfg f) s = .next (s.lands [s.entry 1 1 (.bx f.d.toNat (s.aB f ++ s.aA f))]) := by
  change execBfxcfg f s = _
  rw [execBfxcfg, slotOp_true h]
  simp only [pair128, hp, if_true, land_eq_lands]

/-! ### Writes of an es register (R56, R130, R131) -/

/-- A write of an es register that no uncompleted call names has its effect. -/
theorem esWrite_free {eff : State → State} (h : Guarded f.g s) (hb : s.esBusy f.d.toNat = false) : esWrite f s eff = .next (eff s) := by
  rw [esWrite, slotOp_true h, if_neg (by simp [hb])]

/-- A write of an es register that an uncompleted call names faults. -/
theorem esWrite_busy {eff : State → State} (h : Guarded f.g s) (hb : s.esBusy f.d.toNat = true) :
    esWrite f s eff = .next (s.issueFault cSHAPER_BUSY) := by
  rw [esWrite, slotOp_true h, if_pos hb]

/-- A descriptor below 2^60 has zero in the bits that R42 reserves. -/
theorem fld_reserved_of_lt {d : BitVec 128} (h : d.toNat / 2 ^ 60 = 0) : fld d 60 68 = 0 := by
  rw [fld, Nat.shiftRight_eq_div_pow, h, Nat.zero_mod]

/-- SSRCFG with a valid descriptor: it lands with SATD at zero (R45, R130). -/
theorem exec_ssrcfg (h : Guarded f.g s) (hb : s.esBusy f.d.toNat = false) (hres : (s.aB f ++ s.aA f).toNat / 2 ^ 60 = 0)
    (hown : esOwn (s.aB f ++ s.aA f) ≠ 3) (hfmt : esFmt (s.aB f ++ s.aA f) ≤ 8) :
    exec (.ssrcfg f) s = .next (s.lands [s.entry 1 1 (.esCfg f.d.toNat (setFld (s.aB f ++ s.aA f) 57 1 0))]) := by
  change execSsrcfg f s = _
  rw [execSsrcfg, esWrite_free h hb]
  have hvalid : ¬(fld (s.aB f ++ s.aA f) 60 68 ≠ 0 ∨ esOwn (s.aB f ++ s.aA f) = 3 ∨ 8 < esFmt (s.aB f ++ s.aA f)) := by
    rintro (h60 | h3 | h8)
    · exact h60 (fld_reserved_of_lt hres)
    · exact hown h3
    · omega
  simp only [pair128, hvalid, if_false, land_eq_lands]

/-- SSRCFG of a register that an uncompleted call names (R56, R131). -/
theorem exec_ssrcfg_busy (h : Guarded f.g s) (hb : s.esBusy f.d.toNat = true) :
    exec (.ssrcfg f) s = .next (s.issueFault cSHAPER_BUSY) := by
  change execSsrcfg f s = _
  rw [execSsrcfg, esWrite_busy h hb]

/-- SSRCLR (R130). -/
theorem exec_ssrclr (h : Guarded f.g s) (hb : s.esBusy f.d.toNat = false) :
    exec (.ssrclr f) s = .next (s.lands [s.entry 1 1 (.esClear f.d.toNat true)]) := by
  change execSsrclr f s = _
  rw [execSsrclr, esWrite_free h hb, land_eq_lands]

/-- SSRCLR of SATD only (R130). -/
theorem exec_ssrclrSatd (h : Guarded f.g s) (hb : s.esBusy f.d.toNat = false) :
    exec (.ssrclrSatd f) s = .next (s.lands [s.entry 1 1 (.esClear f.d.toNat false)]) := by
  change execSsrclrSatd f s = _
  rw [execSsrclrSatd, esWrite_free h hb, land_eq_lands]

/-- SSRWR of one of the 384 error words (R130). -/
theorem exec_ssrwr (h : Guarded f.g s) (hb : s.esBusy f.d.toNat = false) (hn : (s.aA f).toNat < 384) :
    exec (.ssrwr f) s = .next (s.lands [s.entry 1 1 (.esWord f.d.toNat (s.aA f).toNat ((s.aB f).setWidth 32))]) := by
  change execSsrwr f s = _
  rw [execSsrwr, esWrite_free h hb]
  simp only [show ¬383 < (s.aA f).toNat by omega, if_false, land_eq_lands]

/-! ### Reads of an es register (R58, R130) -/

/-- What SSRRD reads at index `n` of es register `i`: an error word, or at 384 and 385 a half of the descriptor (R130). -/
def esRead (a : Arch) (i n : Nat) : W64 :=
  if n = 384 then (a.es i).setWidth 64 else if n = 385 then (a.es i >>> 64).setWidth 64 else (a.esw.get (384 * i + n)).setWidth 64

theorem esRead_word (a : Arch) (i : Nat) {n : Nat} (hn : n < 384) : esRead a i n = (a.esw.get (384 * i + n)).setWidth 64 := by
  rw [esRead, if_neg (by omega), if_neg (by omega)]

theorem esRead_low (a : Arch) (i : Nat) : esRead a i 384 = (a.es i).setWidth 64 := rfl

theorem esRead_high (a : Arch) (i : Nat) : esRead a i 385 = (a.es i).extractLsb' 64 64 := by
  rw [esRead, if_neg (by decide), if_pos rfl, BitVec.setWidth_ushiftRight_eq_extractLsb]

/-- SSRRD reads what the index names, where it does not wait for a call (R58). -/
theorem exec_ssrrd (h : Guarded f.g s) (hes : esOwn (s.me.arch.es f.a.toNat) ≠ 2 ∨ s.esBusy f.a.toNat = false)
    (hn : (s.aB f).toNat ≤ 385) :
    exec (.ssrrd f) s = .next (s.lands [s.entry 1 1 (.s f.d.toNat (esRead s.me.arch f.a.toNat (s.aB f).toNat))]) := by
  change execSsrrd f s = _
  rw [execSsrrd, slotOp_true h]
  have hgo : ¬(esOwn (s.me.arch.es f.a.toNat) = 2 ∧ s.esBusy f.a.toNat = true) := by
    rintro ⟨hown, hbusy⟩
    rcases hes with hne | hfree
    · exact hne hown
    · exact Bool.false_ne_true (hfree.symm.trans hbusy)
  simp only [Nat.not_lt.2 hn, hgo, if_false, land_eq_lands]
  rfl

end

/-- Settles O25: each operation adds its one result to the landing buffer, and a named register's SSRCFG faults at the bundle's address. -/
theorem shaperRegisters : Obligations.ShaperRegisters := by
  unfold Obligations.ShaperRegisters
  intro f s h d n lands
  refine ⟨exec_bfxcfg h, fun hb => ⟨exec_ssrcfg h hb, exec_ssrclr h hb, exec_ssrclrSatd h hb, exec_ssrwr h hb⟩, exec_ssrcfg_busy h,
    fun hes => ⟨fun hn => ?_, fun hn => ?_, fun hn => ?_⟩⟩
  · rw [exec_ssrrd h hes (by omega), esRead_word _ _ hn]
  · rw [exec_ssrrd h hes (by omega), show (s.aB f).toNat = 384 from hn, esRead_low]
  · rw [exec_ssrrd h hes (by omega), show (s.aB f).toNat = 385 from hn, esRead_high]

end Sys2Proof.Laws
end

section
/-! SUPPORT. The round trip (R72, R73, R93 to R98, R103, R199, R216, R261): every instruction is read back among those of its place, a place
that holds one instruction holds no other, and the units of a triad are read back together. -/

set_option Elab.async false

namespace Sys2Proof.Laws

open Sys2Proof Sys2Proof.Machine

/-! ### Every instruction -/

/-- Every instruction is read back from its words: each coded one by its own lemma, the machine's events having no words. -/
theorem encodeDecode (i : Instr) : EncodeDecode.Statement i := by
  cases i with
  | snop f => exact EncodeDecode.snop f
  | br f => exact EncodeDecode.br f
  | bri f => exact EncodeDecode.bri f
  | callS f => exact EncodeDecode.callS f
  | ret f => exact EncodeDecode.ret f
  | loopS f => exact EncodeDecode.loopS f
  | loopsp f => exact EncodeDecode.loopsp f
  | lbrk f => exact EncodeDecode.lbrk f
  | glog f => exact EncodeDecode.glog f
  | klog f => exact EncodeDecode.klog f
  | kmovFromK f => exact EncodeDecode.kmovFromK f
  | kmovToK f => exact EncodeDecode.kmovToK f
  | markS f => exact EncodeDecode.markS f
  | nodeS f => exact EncodeDecode.nodeS f
  | endCtx f => exact EncodeDecode.endCtx f
  | sstep f => exact EncodeDecode.sstep f
  | bara f => exact EncodeDecode.bara f
  | barw f => exact EncodeDecode.barw f
  | swait f => exact EncodeDecode.swait f
  | ssig f => exact EncodeDecode.ssig f
  | ssigClr f => exact EncodeDecode.ssigClr f
  | fcrw f => exact EncodeDecode.fcrw f
  | fsrr f => exact EncodeDecode.fsrr f
  | fsrrClear f => exact EncodeDecode.fsrrClear f
  | sysr f => exact EncodeDecode.sysr f
  | sysw f => exact EncodeDecode.sysw f
  | lsupd f => exact EncodeDecode.lsupd f
  | rseek f => exact EncodeDecode.rseek f
  | brk f => exact EncodeDecode.brk f
  | semrd f => exact EncodeDecode.semrd f
  | gtbr f => exact EncodeDecode.gtbr f
  | waitt f => exact EncodeDecode.waitt f
  | qmask f => exact EncodeDecode.qmask f
  | anop f => exact EncodeDecode.anop f
  | add f => exact EncodeDecode.add f
  | sub f => exact EncodeDecode.sub f
  | mul f => exact EncodeDecode.mul f
  | mulh f => exact EncodeDecode.mulh f
  | div f => exact EncodeDecode.div f
  | divu f => exact EncodeDecode.divu f
  | andA f => exact EncodeDecode.andA f
  | orA f => exact EncodeDecode.orA f
  | xorA f => exact EncodeDecode.xorA f
  | shl f => exact EncodeDecode.shl f
  | shr f => exact EncodeDecode.shr f
  | sra f => exact EncodeDecode.sra f
  | minA f => exact EncodeDecode.minA f
  | maxA f => exact EncodeDecode.maxA f
  | addi f => exact EncodeDecode.addi f
  | li f => exact EncodeDecode.li f
  | lih f => exact EncodeDecode.lih f
  | lihChunk1 f => exact EncodeDecode.lihChunk1 f
  | cmp f => exact EncodeDecode.cmp f
  | cmpImmediate f => exact EncodeDecode.cmpImmediate f
  | selA f => exact EncodeDecode.selA f
  | movmToM f => exact EncodeDecode.movmToM f
  | movmFromM f => exact EncodeDecode.movmFromM f
  | movsToS f => exact EncodeDecode.movsToS f
  | movsToG f => exact EncodeDecode.movsToG f
  | lds f => exact EncodeDecode.lds f
  | sts f => exact EncodeDecode.sts f
  | amo f => exact EncodeDecode.amo f
  | fence f => exact EncodeDecode.fence f
  | probe f => exact EncodeDecode.probe f
  | tdef f => exact EncodeDecode.tdef f
  | tfree f => exact EncodeDecode.tfree f
  | tstat f => exact EncodeDecode.tstat f
  | tdesc f => exact EncodeDecode.tdesc f
  | bfxcfg f => exact EncodeDecode.bfxcfg f
  | ssrcfg f => exact EncodeDecode.ssrcfg f
  | ssrclr f => exact EncodeDecode.ssrclr f
  | ssrclrSatd f => exact EncodeDecode.ssrclrSatd f
  | ssrrd f => exact EncodeDecode.ssrrd f
  | ssrwr f => exact EncodeDecode.ssrwr f
  | cvts f => exact EncodeDecode.cvts f
  | fadds f => exact EncodeDecode.fadds f
  | faddsNegated f => exact EncodeDecode.faddsNegated f
  | fmuls f => exact EncodeDecode.fmuls f
  | fmas f => exact EncodeDecode.fmas f
  | fcmps f => exact EncodeDecode.fcmps f
  | mnop f => exact EncodeDecode.mnop f
  | mcall f => exact EncodeDecode.mcall f
  | mquiet f => exact EncodeDecode.mquiet f
  | enop f => exact EncodeDecode.enop f
  | copy f => exact EncodeDecode.copy f
  | tload f => exact EncodeDecode.tload f
  | coll f => exact EncodeDecode.coll f
  | mcst f => exact EncodeDecode.mcst f
  | skadd f => exact EncodeDecode.skadd f
  | skscl f => exact EncodeDecode.skscl f
  | skzero f => exact EncodeDecode.skzero f
  | muload f => exact EncodeDecode.muload f
  | epload f => exact EncodeDecode.epload f
  | equiet f => exact EncodeDecode.equiet f
  | onop f => exact EncodeDecode.onop f
  | ord f => exact EncodeDecode.ord f
  | owr f => exact EncodeDecode.owr f
  | oadd f => exact EncodeDecode.oadd f
  | ozero f => exact EncodeDecode.ozero f
  | oscl f => exact EncodeDecode.oscl f
  | xnop f => exact EncodeDecode.xnop f
  | xcp f => exact EncodeDecode.xcp f
  | xbc f => exact EncodeDecode.xbc f
  | xsum f => exact EncodeDecode.xsum f
  | xmax f => exact EncodeDecode.xmax f
  | xshf f => exact EncodeDecode.xshf f
  | xs2v f => exact EncodeDecode.xs2v f
  | xv2s f => exact EncodeDecode.xv2s f
  | vnop f => exact EncodeDecode.vnop f
  | ldv f => exact EncodeDecode.ldv f
  | stv f => exact EncodeDecode.stv f
  | ldg f => exact EncodeDecode.ldg f
  | stg f => exact EncodeDecode.stg f
  | ldt f => exact EncodeDecode.ldt f
  | ldx f => exact EncodeDecode.ldx f
  | unpk f => exact EncodeDecode.unpk f
  | gath f => exact EncodeDecode.gath f
  | scat f => exact EncodeDecode.scat f
  | vamo f => exact EncodeDecode.vamo f
  | skupd f => exact EncodeDecode.skupd f
  | skqry f => exact EncodeDecode.skqry f
  | pushq f => exact EncodeDecode.pushq f
  | unitNone f => exact EncodeDecode.unitNone f
  | iadd f => exact EncodeDecode.iadd f
  | isub f => exact EncodeDecode.isub f
  | imul f => exact EncodeDecode.imul f
  | imulh f => exact EncodeDecode.imulh f
  | triadAnd f => exact EncodeDecode.triadAnd f
  | triadOr f => exact EncodeDecode.triadOr f
  | triadXor f => exact EncodeDecode.triadXor f
  | triadShl f => exact EncodeDecode.triadShl f
  | triadShr f => exact EncodeDecode.triadShr f
  | triadSra f => exact EncodeDecode.triadSra f
  | imin f => exact EncodeDecode.imin f
  | imax f => exact EncodeDecode.imax f
  | fadd f => exact EncodeDecode.fadd f
  | fsub f => exact EncodeDecode.fsub f
  | fmul f => exact EncodeDecode.fmul f
  | fmin f => exact EncodeDecode.fmin f
  | fmax f => exact EncodeDecode.fmax f
  | cmplt f => exact EncodeDecode.cmplt f
  | cmpeq f => exact EncodeDecode.cmpeq f
  | triadSel f => exact EncodeDecode.triadSel f
  | triadCvt f => exact EncodeDecode.triadCvt f
  | triadNrw f => exact EncodeDecode.triadNrw f
  | srnd f => exact EncodeDecode.srnd f
  | triadExp2 f => exact EncodeDecode.triadExp2 f
  | triadLog2 f => exact EncodeDecode.triadLog2 f
  | triadRcp f => exact EncodeDecode.triadRcp f
  | triadRsq f => exact EncodeDecode.triadRsq f
  | perm f => exact EncodeDecode.perm f
  | triadAbs f => exact EncodeDecode.triadAbs f
  | pack f => exact EncodeDecode.pack f
  | munop f => exact EncodeDecode.munop f
  | zacc f => exact EncodeDecode.zacc f
  | wld f => exact EncodeDecode.wld f
  | wstr f => exact EncodeDecode.wstr f
  | astr f => exact EncodeDecode.astr f
  | achn f => exact EncodeDecode.achn f
  | runW f => exact EncodeDecode.runW f
  | oprk f => exact EncodeDecode.oprk f
  | spsel f => exact EncodeDecode.spsel f
  | drn f => exact EncodeDecode.drn f
  | cksv f => exact EncodeDecode.cksv f
  | mlp f => exact EncodeDecode.mlp f
  | mbrn f => exact EncodeDecode.mbrn f
  | mend f => exact EncodeDecode.mend f
  | mwait f => exact EncodeDecode.mwait f
  | msig f => exact EncodeDecode.msig f
  | padd f => exact EncodeDecode.padd f
  | pset f => exact EncodeDecode.pset f
  | epiDone f => exact EncodeDecode.epiDone f
  | ldb f => exact EncodeDecode.ldb f
  | epiAdd f => exact EncodeDecode.epiAdd f
  | epiMul f => exact EncodeDecode.epiMul f
  | epiFma f => exact EncodeDecode.epiFma f
  | epiMax f => exact EncodeDecode.epiMax f
  | epiMin f => exact EncodeDecode.epiMin f
  | relu f => exact EncodeDecode.relu f
  | epiTbl f => exact EncodeDecode.epiTbl f
  | epiExp2 f => exact EncodeDecode.epiExp2 f
  | epiCvt f => exact EncodeDecode.epiCvt f
  | epiNrw f => exact EncodeDecode.epiNrw f
  | rmax f => exact EncodeDecode.rmax f
  | rsum f => exact EncodeDecode.rsum f
  | wrt f => exact EncodeDecode.wrt f
  | epiPush f => exact EncodeDecode.epiPush f
  | scal f => exact EncodeDecode.scal f
  | clmp f => exact EncodeDecode.clmp f
  | epiSel f => exact EncodeDecode.epiSel f
  | htlbi f => exact EncodeDecode.htlbi f
  | htlbf f => exact EncodeDecode.htlbf f
  | _ => exact event_reads rfl (fun _ => rfl)

theorem mem_decodeAt {i : Instr} (hw : i.wf = true) (hp : i.place ≠ .event) (stop : Bool) : i ∈ decodeAt i.place (encode stop i) := by
  have h := encodeDecode i hw stop
  rwa [if_neg hp] at h

/-! ### Places that hold one instruction -/

theorem toList_eq_singleton {α : Type} {o : Option α} {a : α} (h : a ∈ o.toList) : o.toList = [a] := by
  rw [Option.mem_toList.1 h]; rfl

/-- Every position but those of the triads holds one instruction (R73). -/
theorem decodeSlot_eq_singleton {n : Nat} (hn : n < 7) {w0 w1 : W32} {i : Instr} (h : i ∈ decodeSlot n w0 w1) : decodeSlot n w0 w1 = [i] := by
  match n, hn with
  | 0, _ | 1, _ | 2, _ | 3, _ | 4, _ | 5, _ | 6, _ => exact toList_eq_singleton h

theorem decodeAt_eq_singleton {p : Place} (hp : ∀ n, 7 ≤ n → p ≠ .slot n) {ws : List W32} {i : Instr} (h : i ∈ decodeAt p ws) :
    decodeAt p ws = [i] := by
  cases p with
  | slot n => exact decodeSlot_eq_singleton (Nat.lt_of_not_le fun hn => hp n hn rfl) h
  | word | epi | mgmt => exact toList_eq_singleton h
  | event => cases h

/-! ### Triads -/

/-- The units of a triad's fields, in cascade order (R98). -/
def triadUnits (f : TF) : List Instr :=
  [UPos.alpha, UPos.beta, UPos.gamma].filterMap (fun p => unitInstr ({ f with pos := p } : TF).code { f with pos := p })

/-- The words of a triad whose opcodes pass check 7 read as its units (R96, R98). -/
theorem decodeAt_encT {f : TF} (hu : f.unitsOk = true) (stop : Bool) : decodeAt f.place (encT f stop) = triadUnits f := by
  obtain ⟨w0, w1, e, hf⟩ := encT_fields f stop
  simp only [decodeAt, TF.place, e, nth, List.getD_cons_zero, List.getD_cons_succ, decodeSlot_triad, decodeT, hf]
  exact if_pos hu

/-- Every opcode below 31 is that of a unit operation (R103). -/
theorem unitInstr_isSome (f : TF) {c : Nat} (hc : c < 31) : (unitInstr c f).isSome = true := by
  match c, hc with
  | 0, _ | 1, _ | 2, _ | 3, _ | 4, _ | 5, _ | 6, _ | 7, _ | 8, _ | 9, _ | 10, _ | 11, _ | 12, _ | 13, _ | 14, _ | 15, _
    | 16, _ | 17, _ | 18, _ | 19, _ | 20, _ | 21, _ | 22, _ | 23, _ | 24, _ | 25, _ | 26, _ | 27, _ | 28, _ | 29, _ | 30, _ => rfl
  | n + 31, h => omega

theorem lt_of_unitAllowed {p : UPos} {c : Nat} (h : unitAllowed p c = true) : c < 31 := by
  simp only [unitAllowed, Bool.and_eq_true, decide_eq_true_eq] at h
  exact h.1

/-- Check 7 leaves every unit with an opcode that is assigned. -/
theorem code_lt_of_unitsOk {f : TF} (h : f.unitsOk = true) (p : UPos) : ({ f with pos := p } : TF).code < 31 := by
  simp only [TF.unitsOk, Bool.and_eq_true] at h
  obtain ⟨⟨ha, hb⟩, hg⟩ := h
  cases p with
  | alpha => exact lt_of_unitAllowed ha
  | beta => exact lt_of_unitAllowed hb
  | gamma => exact lt_of_unitAllowed hg

theorem triadUnits_length {f : TF} (h : f.unitsOk = true) : (triadUnits f).length = 3 := by
  have hsome (p : UPos) : (unitInstr ({ f with pos := p } : TF).code { f with pos := p }).isSome = true :=
    unitInstr_isSome _ (code_lt_of_unitsOk h p)
  obtain ⟨a, ha⟩ := Option.isSome_iff_exists.1 (hsome .alpha)
  obtain ⟨b, hb⟩ := Option.isSome_iff_exists.1 (hsome .beta)
  obtain ⟨g, hg⟩ := Option.isSome_iff_exists.1 (hsome .gamma)
  simp [triadUnits, ha, hb, hg]

/-- Settles O1: the words of each format give back its fields and its opcode, which the decoder's row for that opcode turns into the
instruction. -/
theorem roundTrip : Obligations.RoundTrip := by
  unfold Obligations.RoundTrip
  refine ⟨fun i stop hw hp => ?_, fun f stop hu => ?_⟩
  · have h := mem_decodeAt hw hp stop
    exact ⟨h, fun hone => decodeAt_eq_singleton hone h⟩
  · have h := decodeAt_encT hu stop
    exact ⟨h, h ▸ triadUnits_length hu⟩

end Sys2Proof.Laws
end

section
/-! SUPPORT. The decode checks of a bundle (R75): the header's fields, the stop bits and check 6 in the words of the statement, and the
opcodes that no table of R103 assigns. -/

set_option Elab.async false

namespace Sys2Proof.Laws

open Sys2Proof Sys2Proof.Machine

/-! ### The header (R72) -/

theorem nfld_eq (x lo len : Nat) : nfld x lo len = x / 2 ^ lo % 2 ^ len := by rw [nfld, Nat.shiftRight_eq_div_pow]

theorem getLsbD_eq_decide (x : W32) (i : Nat) : x.getLsbD i = decide (x.toNat / 2 ^ i % 2 = 1) := by
  rw [BitVec.getLsbD, Nat.testBit_eq_decide_div_mod_eq]

/-- Check 2: bits 31:29 of a header are zero. -/
theorem reserved_iff (h : W32) : nfld h.toNat 30 2 ≠ 0 ∨ h.getLsbD 29 = true ↔ h.toNat / 2 ^ 29 ≠ 0 := by
  have := h.isLt
  rw [getLsbD_eq_decide, decide_eq_true_eq, nfld_eq]
  omega

/-! ### Stop bits (R74) -/

/-- A stop bit that does not agree with the bundle's length: 1 before the last syllable, or 0 in it. -/
theorem stopsOk_eq_false_iff (ws : List W32) :
    stopsOk ws = false ↔ ∃ i w, ws[i]? = some w ∧ w.getLsbD 0 ≠ decide (i + 1 = ws.length) := by
  simp only [stopsOk, List.all_eq_false, Prod.exists, List.mem_zipIdx_iff_getElem?, beq_iff_eq]
  exact exists_comm

/-! ### Check 6 (R79, R80) -/

/-- The slots of a template stand at its positions. -/
theorem mem_splitSlots : ∀ {ps : List Nat} {ws : List W32} {x : Slot}, x ∈ splitSlots ps ws →
    x.pos ∈ ps ∧ x.ops = decodeSlot x.pos x.w0 x.w1
  | _ :: _, _, _, h => by
    rcases List.mem_cons.1 h with rfl | h
    · exact ⟨List.mem_cons_self, rfl⟩
    · exact ⟨List.mem_cons_of_mem _ (mem_splitSlots h).1, (mem_splitSlots h).2⟩

theorem encoded_pairwise (h : W32) : (encoded h).Pairwise (· < ·) := List.pairwise_lt_range.filter _

/-- Only the first slot of a template can be the S slot. -/
theorem pos_ne_zero_of_mem_tail {h : W32} {ws : List W32} {x y : Slot} {rest : List Slot} (e : splitSlots (encoded h) ws = x :: rest)
    (hy : y ∈ rest) : y.pos ≠ 0 := by
  have hlt := encoded_pairwise h
  cases hp : encoded h with
  | nil => simp [hp, splitSlots] at e
  | cons p ps =>
    rw [hp] at hlt e
    obtain ⟨-, rfl⟩ := List.cons.inj e
    have := (List.pairwise_cons.1 hlt).1 _ (mem_splitSlots hy).1
    omega

/-- A control operation beside rep or sticky (R79). -/
def Transfers (h : W32) (x : Slot) : Prop := isControl (opField x.w0) = true ∧ (h.toNat / 4 % 16 ≠ 0 ∨ x.w0.getLsbD 1 = true)

/-- A NODE or END beside another slot, a pop or a checkpoint (R80). -/
def NotAlone (h : W32) (slots : List Slot) (x : Slot) : Prop :=
  (opField x.w0 = 0x0C ∨ opField x.w0 = 0x0D) ∧ (slots ≠ [x] ∨ h.toNat / 64 % 256 ≠ 0 ∨ h.getLsbD 1 = true)

/-- What check 6 asks of the S slot, where it is the first of the slots. -/
theorem boundaryOk_cons_eq_false_iff (h : W32) (x : Slot) (rest : List Slot) :
    boundaryOk h (x :: rest) = false ↔ x.pos = 0 ∧ (Transfers h x ∨ NotAlone h (x :: rest) x) := by
  by_cases h0 : x.pos = 0
  · have hrest : x :: rest ≠ [x] ↔ rest.isEmpty = false := by cases rest <;> simp
    have hrep : nfld h.toNat 2 4 = h.toNat / 4 % 16 := nfld_eq _ _ _
    have hpop : nfld h.toNat 6 8 = h.toNat / 64 % 256 := nfld_eq _ _ _
    simp only [boundaryOk, h0, if_true, true_and, Transfers, NotAlone, hrest, hrep, hpop, Bool.and_eq_false_iff, Bool.or_eq_false_iff,
      Bool.not_eq_false', Bool.or_eq_true, beq_iff_eq, beq_eq_false_iff_ne, or_assoc]
  · simp [boundaryOk, h0]

theorem boundaryOk_eq_false_iff (h : W32) (ws : List W32) :
    let slots := splitSlots (encoded h) ws
    boundaryOk h slots = false ↔ ∃ x ∈ slots, x.pos = 0 ∧ (Transfers h x ∨ NotAlone h slots x) := by
  intro slots
  cases e : slots with
  | nil => simp [boundaryOk]
  | cons x rest =>
    rw [boundaryOk_cons_eq_false_iff]
    refine ⟨fun hx => ⟨x, List.mem_cons_self, hx⟩, fun ⟨y, hy, h0, hbad⟩ => ?_⟩
    rcases List.mem_cons.1 hy with rfl | hy
    · exact ⟨h0, hbad⟩
    · exact absurd h0 (pos_ne_zero_of_mem_tail e hy)

/-! ### The checks in order (R75) -/

/-- A bundle's slots, as the decoder takes them from its syllables. -/
def slotsOf (ws : List W32) : List Slot := splitSlots (encoded (nth ws 0)) (ws.drop 1)

/-- Checks 2 to 6 in the words of R75. -/
def IllegalBundle (ws : List W32) : Prop :=
  let h := nth ws 0
  h.toNat / 2 ^ 29 ≠ 0 ∨ (h.toNat / 2 ^ 14 % 2 ^ 16 = 0 ∧ h.getLsbD 0 = false) ∨
    (∃ i w, ws[i]? = some w ∧ w.getLsbD 0 ≠ decide (i + 1 = ws.length)) ∨
    ∃ x ∈ slotsOf ws, x.pos = 0 ∧ (Transfers h x ∨ NotAlone h (slotsOf ws) x)

/-- The five tests of the decoder that come to ILLEGAL_BUNDLE. -/
theorem illegalBundle_iff (ws : List W32) :
    IllegalBundle ws ↔ nfld (nth ws 0).toNat 30 2 ≠ 0 ∨ (nth ws 0).getLsbD 29 = true ∨
      (nfld (nth ws 0).toNat 14 16 = 0 ∧ (!(nth ws 0).getLsbD 0) = true) ∨ (!stopsOk ws) = true ∨
      (!boundaryOk (nth ws 0) (slotsOf ws)) = true := by
  have hboundary := boundaryOk_eq_false_iff (nth ws 0) (ws.drop 1)
  dsimp only at hboundary
  simp only [Bool.not_eq_true', slotsOf, hboundary, stopsOk_eq_false_iff, ← or_assoc, reserved_iff]
  simp only [nfld_eq, IllegalBundle, slotsOf, or_assoc]

/-- Checks 2 to 6 come first. -/
theorem decodeBundle_illegal {ws : List W32} (h : IllegalBundle ws) : decodeBundle ws = .error 0x02 := by
  rw [illegalBundle_iff, slotsOf] at h
  rcases h with h | h | h | h | h <;>
    simp only [decodeBundle, h, ne_eq, not_false_eq_true, and_self, if_true, ite_self]

/-- Checks 7 and 8 are made of a bundle that passes the ones before. -/
theorem decodeBundle_legal {ws : List W32} (h : ¬IllegalBundle ws) :
    decodeBundle ws =
      if (slotsOf ws).any (fun x => x.ops.isEmpty) then .error 0x03
      else if (slotsOf ws).any (fun x => x.ops.any (fun i => !i.wf)) then .error 0x14
      else .ok ⟨(nth ws 0).extractLsb' 6 8, nfld (nth ws 0).toNat 2 4, (nth ws 0).getLsbD 1, bundleLen (nth ws 0), slotsOf ws⟩ := by
  simp only [illegalBundle_iff, slotsOf, not_or] at h
  obtain ⟨h30, h29, hempty, hstops, hboundary⟩ := h
  simp only [decodeBundle]
  rw [if_neg h30, if_neg h29, if_neg hempty, if_neg hstops, if_neg hboundary]
  rfl

theorem any_isEmpty_iff (l : List Slot) : l.any (fun x => x.ops.isEmpty) = true ↔ ∃ x ∈ l, x.ops = [] := by
  simp only [List.any_eq_true, List.isEmpty_iff]

theorem any_illFormed_iff (l : List Slot) : l.any (fun x => x.ops.any (fun i => !i.wf)) = true ↔ ∃ x ∈ l, ∃ i ∈ x.ops, i.wf = false := by
  simp only [List.any_eq_true, Bool.not_eq_true']

/-! ### Opcodes that no table assigns (R103) -/

section
variable {w0 : W32} (w1 : W32)

theorem decodeS_unassigned (h : 30 ≤ opField w0) : decodeS w0 = none := by
  obtain ⟨n, hn⟩ := Nat.exists_eq_add_of_le' h
  rw [decodeS, hn]; rfl

theorem decodeA_unassigned (h : 41 ≤ opField w0) : decodeA w0 w1 = none := by
  obtain ⟨n, hn⟩ := Nat.exists_eq_add_of_le' h
  rw [decodeA, hn]; rfl

theorem decodeM_unassigned (h : 3 ≤ opField w0) : decodeM w0 = none := by
  obtain ⟨n, hn⟩ := Nat.exists_eq_add_of_le' h
  rw [decodeM, hn]; rfl

theorem decodeE_unassigned (h : 11 ≤ opField w0) : decodeE w0 w1 = none := by
  obtain ⟨n, hn⟩ := Nat.exists_eq_add_of_le' h
  rw [decodeE, hn]; rfl

theorem decodeO_unassigned (h : 6 ≤ opField w0) : decodeO w0 w1 = none := by
  obtain ⟨n, hn⟩ := Nat.exists_eq_add_of_le' h
  rw [decodeO, hn]; rfl

theorem decodeX_unassigned (h : 8 ≤ opField w0) : decodeX w0 = none := by
  obtain ⟨n, hn⟩ := Nat.exists_eq_add_of_le' h
  rw [decodeX, hn]; rfl

theorem decodeV_unassigned (h : 14 ≤ opField w0) : decodeV w0 w1 = none := by
  obtain ⟨n, hn⟩ := Nat.exists_eq_add_of_le' h
  rw [decodeV, hn]; rfl

theorem decodeT_unassigned (g : BitVec 3) (h : (tfOf g .alpha w0 w1).unitsOk = false) : decodeT g w0 w1 = [] := by
  rw [decodeT, if_neg (by simp [h])]

theorem decodeEpi_unassigned (h : 19 ≤ w0.toNat % 32) : decodeEpi w0 = none := by
  obtain ⟨n, hn⟩ := Nat.exists_eq_add_of_le' h
  have hop : nfld w0.toNat 0 5 = n + 19 := by rw [nfld_eq, Nat.pow_zero, Nat.div_one]; exact hn
  rw [decodeEpi, hop]; rfl

theorem decodeMgmt_unassigned (h : w0.toNat % 128 ≠ 0x0B) : decodeMgmt w0 = none := by
  have hop : ¬(nfld w0.toNat 0 7 = 0x0B ∧ nfld w0.toNat 25 7 = 0) := fun ⟨h0, _⟩ => h (by simpa [nfld_eq] using h0)
  rw [decodeMgmt, if_neg hop]

end

theorem decodeWord_unassigned {w : W64} (h : 18 ≤ w.toNat % 64) : decodeWord w = none := by
  obtain ⟨n, hn⟩ := Nat.exists_eq_add_of_le' h
  have hop : nfld w.toNat 0 6 = n + 18 := by rw [nfld_eq, Nat.pow_zero, Nat.div_one]; exact hn
  rw [decodeWord, hop]; rfl

/-- Settles O3: the decoder's tests are those of the statement, in its order, and each decoder's last row gives no instruction. -/
theorem bundleChecks : Obligations.BundleChecks := by
  unfold Obligations.BundleChecks
  refine ⟨fun ws => ?_, fun w0 w1 => ⟨decodeS_unassigned, decodeA_unassigned w1, decodeM_unassigned, decodeE_unassigned w1,
    decodeO_unassigned w1, decodeX_unassigned, decodeV_unassigned w1, decodeT_unassigned w1, decodeEpi_unassigned,
    fun _ => decodeWord_unassigned, decodeMgmt_unassigned⟩⟩
  refine ⟨decodeBundle_illegal, fun hb ho => ?_, fun hb ho hi => ?_, fun hb ho hi => ?_⟩
  · rw [decodeBundle_legal hb, if_pos ((any_isEmpty_iff (slotsOf ws)).2 ho)]
  · rw [decodeBundle_legal hb, if_neg (mt (any_isEmpty_iff (slotsOf ws)).1 ho), if_pos ((any_illFormed_iff (slotsOf ws)).2 hi)]
  · rw [decodeBundle_legal hb, if_neg (mt (any_isEmpty_iff (slotsOf ws)).1 ho), if_neg (mt (any_illFormed_iff (slotsOf ws)).1 hi), nfld_eq]
    rfl

end Sys2Proof.Laws
end

section
/-! SUPPORT. The slots of a bundle: `exec` of a slot's instruction is its slot operation, and with a false guard it has no effect (R81, R89,
R139). -/

set_option Elab.async false

namespace Sys2Proof.Laws

open Sys2Proof Sys2Proof.Machine

/-! ### Slot operations -/

/-- The instructions of the slots are those that `runSlot` gives a meaning, the same as `exec` does. -/
theorem exec_of_inSlot {i : Instr} (s : State) (h : inSlot i = true) : exec i s = runSlot i s := by
  cases i <;> simp only [inSlot, Instr.place, TF.place, Bool.false_eq_true] at h <;> rfl

/-! ### The guard of a slot is in its first syllable (R93, R94, R96) -/

section
variable {i : Instr} (hi : inSlot i = true) {op : Nat} (hop : op < 64)
include hi

theorem guardField_eq {w0 : W32} {ws : List W32} (he : encode false i = w0 :: ws) : guardField i = guardOf w0 := by
  simp only [guardField, he, hi, if_true]

include hop

theorem guardField_encS {f : SF} (he : encode false i = encS op f false) : guardField i = f.g := by
  obtain ⟨w, e, rfl, -⟩ := encS_fields op hop f false
  exact guardField_eq hi (he.trans e)

theorem guardField_encX {f : XF} (he : encode false i = encX op f false) : guardField i = f.g := by
  obtain ⟨w, e, rfl, -⟩ := encX_fields op hop f false
  exact guardField_eq hi (he.trans e)

theorem guardField_encA {f : AF} (he : encode false i = encA op f false) : guardField i = f.g := by
  obtain ⟨w0, w1, e, rfl, -⟩ := encA_fields op hop f false
  exact guardField_eq hi (he.trans e)

theorem guardField_encV {f : VF} (he : encode false i = encV op f false) : guardField i = f.g := by
  obtain ⟨w0, w1, e, rfl, -⟩ := encV_fields op hop f false
  exact guardField_eq hi (he.trans e)

theorem guardField_encE {f : EF} (he : encode false i = encE op f false) : guardField i = f.g := by
  obtain ⟨w0, w1, e, rfl, -⟩ := encE_fields op hop f false
  exact guardField_eq hi (he.trans e)

theorem guardField_encO {f : OF} (he : encode false i = encO op f false) : guardField i = f.g := by
  obtain ⟨w0, w1, e, rfl, -⟩ := encO_fields op hop f false
  exact guardField_eq hi (he.trans e)

omit hop in
theorem guardField_encT {f : TF} (he : encode false i = encT f false) : guardField i = f.g := by
  obtain ⟨w0, w1, e, hf⟩ := encT_fields f false
  exact (guardField_eq hi (he.trans e)).trans (congrArg TF.g (hf f.pos))

end

/-! ### A false guard (R89, R139) -/

/-- Outside every active body no loop encloses a bundle. -/
theorem loop_of_not_inLoop {a : Arch} (h : a.inLoop = false) : a.loop = none := by
  have hactive : a.lps.zipIdx.filter (fun p => p.1.active) = [] := by
    rw [List.filter_eq_nil_iff]
    intro p hp
    exact List.any_eq_false.1 h p.1 (List.fst_mem_of_mem_zipIdx hp)
  rw [Arch.loop, innermost, hactive]
  rfl

/-- A control operation outside every active body (R139). -/
theorem outsideLoop_eq_slotOp {f : SF} {s : State} {eff : State → State} (h : s.me.arch.inLoop = false) :
    outsideLoop f s eff = slotOp f.g s eff := by
  rw [outsideLoop, h]; rfl

/-- A loop instruction outside every active body (R139). -/
theorem loopOp_eq_slotOp {f : SF} {s : State} {eff : State → State} (h : s.me.arch.inLoop = false) :
    loopOp f s eff = slotOp f.g s eff := by
  rw [loopOp, loopAllowed, loop_of_not_inLoop h]; rfl

section
variable {s : State}

/-! The shapes of the slot operations, each of them a `slotOp`. -/

theorem haspOp_false {f : SF} {eff : State → State} (hg : s.me.arch.rg f.g.toNat = false) : haspOp f s eff = .next s := slotOp_false hg

theorem ssigOp_false {f : SF} {k : AccKind} (hg : s.me.arch.rg f.g.toNat = false) : ssigOp f s k = .next s := slotOp_false hg

theorem aluReg_false {k : Nat} {op : Nat → Nat → Nat → Nat} {f : AF} (hg : s.me.arch.rg f.g.toNat = false) : aluReg k op f s = .next s :=
  slotOp_false hg

theorem tileOp_false {f : AF} {eff : Nat → State → State} (hg : s.me.arch.rg f.g.toNat = false) : Machine.tileOp f s eff = .next s :=
  slotOp_false hg

theorem esWrite_false {f : AF} {eff : State → State} (hg : s.me.arch.rg f.g.toNat = false) : esWrite f s eff = .next s := slotOp_false hg

theorem scalarF_false {f : AF} {op : FCtl → W32 → Nat × BitVec 6} (hg : s.me.arch.rg f.g.toNat = false) : scalarF f s op = .next s :=
  slotOp_false hg

theorem cmdOp_false {f : EF} {check : List Byte → State → Got Unit} {go : List Byte → State → State}
    (hg : s.me.arch.rg f.g.toNat = false) : cmdOp f s check go = .next s := slotOp_false hg

theorem execMcst_false {f : EF} (hg : s.me.arch.rg f.g.toNat = false) : execMcst f s = .next s := by
  rw [execMcst, hg]
  exact cmdOp_false hg

theorem accOpn_false {f : OF} {eff : Nat → State → State} (hg : s.me.arch.rg f.g.toNat = false) : accOpn f s eff = .next s :=
  slotOp_false hg

theorem crossReduce_false {f : XF} {op : Nat → Nat → Nat × BitVec 6} (hg : s.me.arch.rg f.g.toNat = false) : crossReduce f s op = .next s :=
  slotOp_false hg

theorem unitOp_false {f : TF} {reads rnd : Bool} {op : State → List W32 → List W32 → List (W32 × BitVec 6)}
    (hg : s.me.arch.rg f.g.toNat = false) : unitOp f s reads rnd op = .next s := slotOp_false hg

theorem laneOp_false {f : TF} {op : W32 → W32 → W32 × BitVec 6} (hg : s.me.arch.rg f.g.toNat = false) : laneOp f s op = .next s :=
  unitOp_false hg

theorem fltOp_false {f : TF} {op : Fmt → FCtl → W32 → Nat → Nat → Nat × BitVec 6} (hg : s.me.arch.rg f.g.toNat = false) :
    fltOp f s op = .next s := by
  unfold fltOp
  dsimp only
  split <;> exact unitOp_false hg

theorem fusedOp_false {f : TF} {sub : Bool} (hg : s.me.arch.rg f.g.toNat = false) : fusedOp f s sub = .next s := by
  unfold fusedOp
  dsimp only
  split <;> exact unitOp_false hg

/-- A slot with a false guard leaves the state as it is, outside every active body. -/
theorem runSlot_false {i : Instr} (hi : inSlot i = true) (hg : s.me.arch.rg (guardField i).toNat = false)
    (hl : s.me.arch.inLoop = false) : runSlot i s = .next s := by
  have hS {op : Nat} {f : SF} (hop : op < 64) (he : encode false i = encS op f false) : s.me.arch.rg f.g.toNat = false :=
    guardField_encS hi hop he ▸ hg
  have hX {op : Nat} {f : XF} (hop : op < 64) (he : encode false i = encX op f false) : s.me.arch.rg f.g.toNat = false :=
    guardField_encX hi hop he ▸ hg
  have hA {op : Nat} {f : AF} (hop : op < 64) (he : encode false i = encA op f false) : s.me.arch.rg f.g.toNat = false :=
    guardField_encA hi hop he ▸ hg
  have hV {op : Nat} {f : VF} (hop : op < 64) (he : encode false i = encV op f false) : s.me.arch.rg f.g.toNat = false :=
    guardField_encV hi hop he ▸ hg
  have hE {op : Nat} {f : EF} (hop : op < 64) (he : encode false i = encE op f false) : s.me.arch.rg f.g.toNat = false :=
    guardField_encE hi hop he ▸ hg
  have hO {op : Nat} {f : OF} (hop : op < 64) (he : encode false i = encO op f false) : s.me.arch.rg f.g.toNat = false :=
    guardField_encO hi hop he ▸ hg
  have hT {f : TF} (he : encode false i = encT f false) : s.me.arch.rg f.g.toNat = false := guardField_encT hi he ▸ hg
  clear hg
  unfold runSlot
  cases i with
  | br f | bri f | callS f | ret f | sstep f | nodeS f | endCtx f | brk f =>
    exact (outsideLoop_eq_slotOp hl).trans (slotOp_false (hS (by decide) rfl))
  | loopS f | loopsp f => exact (loopOp_eq_slotOp hl).trans (slotOp_false (hS (by decide) rfl))
  | snop f | lbrk f | glog f | klog f | kmovFromK f | kmovToK f | markS f | swait f | fcrw f | fsrr f | fsrrClear f | sysr f | sysw f
    | lsupd f | rseek f | semrd f | gtbr f | waitt f | qmask f | mnop f | mcall f | mquiet f => exact slotOp_false (hS (by decide) rfl)
  | bara f | barw f => exact haspOp_false (hS (by decide) rfl)
  | ssig f | ssigClr f => exact ssigOp_false (hS (by decide) rfl)
  | anop f | addi f | li f | lih f | lihChunk1 f | cmp f | cmpImmediate f | selA f | movmToM f | movmFromM f | movsToS f | movsToG f | lds f
    | sts f | amo f | fence f | probe f | bfxcfg f | ssrrd f | cvts f | fcmps f => exact slotOp_false (hA (by decide) rfl)
  | add f | sub f | mul f | mulh f | div f | divu f | andA f | orA f | xorA f | shl f | shr f | sra f | minA f | maxA f =>
    exact aluReg_false (hA (by decide) rfl)
  | tdef f | tfree f | tstat f | tdesc f => exact tileOp_false (hA (by decide) rfl)
  | ssrcfg f | ssrclr f | ssrclrSatd f | ssrwr f => exact esWrite_false (hA (by decide) rfl)
  | fadds f | faddsNegated f | fmuls f | fmas f => exact scalarF_false (hA (by decide) rfl)
  | enop f | equiet f => exact slotOp_false (hE (by decide) rfl)
  | mcst f => exact execMcst_false (hE (by decide) rfl)
  | copy f | tload f | coll f | skadd f | skscl f | skzero f | muload f | epload f => exact cmdOp_false (hE (by decide) rfl)
  | onop f => exact slotOp_false (hO (by decide) rfl)
  | ord f | owr f | oadd f | ozero f | oscl f => exact accOpn_false (hO (by decide) rfl)
  | xnop f | xcp f | xbc f | xshf f | xs2v f | xv2s f => exact slotOp_false (hX (by decide) rfl)
  | xsum f | xmax f => exact crossReduce_false (hX (by decide) rfl)
  | vnop f | ldv f | stv f | ldg f | stg f | ldt f | ldx f | unpk f | gath f | scat f | vamo f | skupd f | skqry f | pushq f =>
    exact slotOp_false (hV (by decide) rfl)
  | fadd f | fsub f =>
    have hg := hT rfl
    exact (ite_congr rfl (fun _ => fusedOp_false hg) (fun _ => fltOp_false hg)).trans (ite_self _)
  | fmul f => exact fltOp_false (hT rfl)
  | unitNone f | triadSel f | perm f => exact unitOp_false (hT rfl)
  | triadNrw f => exact slotOp_false (hT rfl)
  | iadd f | isub f | imul f | imulh f | triadAnd f | triadOr f | triadXor f | triadShl f | triadShr f | triadSra f | imin f | imax f | fmin f
    | fmax f | cmplt f | cmpeq f | triadCvt f | srnd f | triadExp2 f | triadLog2 f | triadRcp f | triadRsq f | triadAbs f | pack f =>
    exact laneOp_false (hT rfl)
  | _ => rfl

end

/-! ### The encoded NOPs (R81) -/

/-- A slot operation without an effect leaves the state as it is, whatever its guard. -/
theorem slotOp_id (g : BitVec 4) (s : State) : slotOp g s (fun s => s) = .next s := ite_self _

/-- Settles O12: the guard in the first syllable is the one that every slot operation tests before its effect, and the NOPs have none. -/
theorem falseGuard : Obligations.FalseGuard := by
  unfold Obligations.FalseGuard
  refine ⟨fun i s hi hg hl => ?_, fun a b c d e f s => ?_⟩
  · rw [exec_of_inSlot s hi, runSlot_false hi hg hl]
  · exact ⟨slotOp_id _ _, slotOp_id _ _, slotOp_id _ _, slotOp_id _ _, slotOp_id _ _, slotOp_id _ _, slotOp_id _ _⟩

end Sys2Proof.Laws
end

section
/-! SUPPORT. The register-only instructions (R88, R89, R106): they add entries to the landing buffer, or block for a random word, and what
either leaves as it was. -/

set_option Elab.async false

namespace Sys2Proof.Laws

open Sys2Proof Sys2Proof.Machine

/-! ### States that differ in the landing buffer alone -/

/-- `t` is `s` with results added to the landing buffer of the context that issues, and nothing else. -/
def LandsOnly (s t : State) : Prop := ∃ es, t = s.lands es

theorem lands_nil (s : State) : s.lands [] = s := by
  simp only [State.lands, List.append_nil]
  exact setCtx_self s s.cur

theorem lands_lands (s : State) (as bs : List LandEntry) : (s.lands as).lands bs = s.lands (as ++ bs) := by
  simp only [State.lands, modMe_modMe, List.append_assoc]

theorem LandsOnly.refl (s : State) : LandsOnly s s := ⟨[], (lands_nil s).symm⟩

theorem LandsOnly.land {s t : State} (h : LandsOnly s t) (k pos : Nat) (act : Land) (fl : BitVec 6) : LandsOnly s (t.land k pos act fl) := by
  obtain ⟨es, rfl⟩ := h
  exact ⟨_, (land_eq_lands _ k pos act fl).trans (lands_lands s es _)⟩

/-- A fold of operations that each add a result (XBC, XSHF). -/
theorem LandsOnly.foldl {β : Type} {s : State} {f : State → β → State} (hf : ∀ t b, LandsOnly s t → LandsOnly s (f t b)) (l : List β) :
    LandsOnly s (l.foldl f s) := foldl_keeps (LandsOnly s) f hf l s (.refl s)

/-! ### What stays as it was -/

/-- Registers do not depend on the landing buffer. -/
theorem sameRegs_landing (a : Arch) (l : List LandEntry) : a.SameRegs { a with landing := l } where
  s _ := rfl
  g _ := rfl
  k _ := rfl
  m _ := rfl
  v _ _ _ := rfl
  es _ := rfl
  esw _ := rfl
  bx _ := rfl
  lps := rfl
  fcr := rfl
  fsr := rfl
  lscale := rfl
  lscfg := rfl
  rkey := rfl
  rctr := rfl
  trel := rfl
  heap := rfl
  driftcfg := rfl
  tracecfg := rfl
  pc := rfl
  rep := rfl

/-- A change of the context that issues reaches no storage. -/
theorem sameStorage_modMe (s : State) (f : Context → Context) : SameStorage s (s.modMe f) where
  mem _ := by rw [modMe_mem]
  sp _ := by rw [modMe_sp]
  acc _ := by rw [modMe_acc]
  mu _ := by rw [State.muWord, modMe_mu]; rfl
  ep _ := by rw [State.epWord, modMe_ep]; rfl
  semVal _ := by rw [modMe_semVal]
  semLatch _ := by rw [modMe_semLatch]
  semCode _ := by rw [modMe_semCode]
  tiles _ := by rw [State.tile, modMe_tiles]; rfl
  hasps := modMe_hasps s f
  regs _ := by rw [State.reg, modMe_mreg]; rfl
  hart := modMe_hart s f
  stations := by rw [modMe_stCore, modMe_stCluster, modMe_stDie]

/-- A change of the context that issues reaches no other. -/
theorem sameOthers_modMe (s : State) (f : Context → Context) : SameOthers s (s.modMe f) :=
  ⟨modMe_cur s f, fun c hc => modMe_ctx_ne s c f hc⟩

/-- `t` differs from `s` in the landing buffer, and perhaps the wait, of the context that issues. -/
structure RegisterFrame (s t : State) : Prop where
  regs : s.me.arch.SameRegs t.me.arch
  storage : SameStorage s t
  others : SameOthers s t
  hold : t.me.hold = s.me.hold
  queue : t.me.queue = s.me.queue
  cmds : t.me.cmds = s.me.cmds
  calls : t.me.calls = s.me.calls
  landing : ∃ es, t.me.arch.landing = s.me.arch.landing ++ es

theorem registerFrame_lands (s : State) (es : List LandEntry) : RegisterFrame s (s.lands es) where
  regs := by rw [State.lands, modMe_me]; exact sameRegs_landing _ _
  storage := sameStorage_modMe s _
  others := sameOthers_modMe s _
  hold := by rw [State.lands, modMe_me]
  queue := by rw [State.lands, modMe_me]
  cmds := by rw [State.lands, modMe_me]
  calls := by rw [State.lands, modMe_me]
  landing := ⟨es, lands_me_landing s es⟩

theorem registerFrame_block (s : State) : RegisterFrame s s.block where
  regs := by rw [block_arch]; exact sameRegs_landing _ _
  storage := sameStorage_modMe s _
  others := sameOthers_modMe s _
  hold := by rw [State.block, modMe_me]
  queue := by rw [State.block, modMe_me]
  cmds := by rw [State.block, modMe_me]
  calls := by rw [State.block, modMe_me]
  landing := ⟨[], by rw [block_arch, List.append_nil]⟩

/-! ### What the instructions come to -/

/-- The outcome adds results to the landing buffer, or blocks the repetition. -/
def LandsOrBlocks (s : State) (o : Out) : Prop := ∃ t, o = .next t ∧ (LandsOnly s t ∨ t = s.block)

theorem LandsOrBlocks.frame {s : State} {o : Out} (h : LandsOrBlocks s o) : ∃ t, o = .next t ∧ RegisterFrame s t := by
  obtain ⟨t, ht, ⟨es, rfl⟩ | rfl⟩ := h
  · exact ⟨_, ht, registerFrame_lands s es⟩
  · exact ⟨_, ht, registerFrame_block s⟩

section
variable {s : State}

/-- A slot whose effect adds results. -/
theorem slotOp_lands {g : BitVec 4} {eff : State → State} (h : LandsOnly s (eff s)) : LandsOrBlocks s (slotOp g s eff) := by
  obtain ⟨-, e⟩ | ⟨-, e⟩ := slotOp_cases g s eff
  · exact ⟨_, e, .inl h⟩
  · exact ⟨_, e, .inl (.refl s)⟩

/-- A slot whose effect needs a random word and adds results (R465). -/
theorem slotOp_needRnd {g : BitVec 4} {uses : State → Bool} {eff : State → State} (h : LandsOnly s (eff s)) :
    LandsOrBlocks s (slotOp g s (fun s => s.needRnd (uses s) (eff s))) := by
  obtain ⟨-, e⟩ | ⟨-, e⟩ := slotOp_cases g s (fun s => s.needRnd (uses s) (eff s))
  · refine ⟨_, e, ?_⟩
    unfold State.needRnd
    split
    · exact .inr rfl
    · exact .inl h
  · exact ⟨_, e, .inl (.refl s)⟩

theorem land_only (s : State) (k pos : Nat) (act : Land) (fl : BitVec 6) : LandsOnly s (s.land k pos act fl) :=
  (LandsOnly.refl s).land k pos act fl

theorem aluReg_lands (k : Nat) (op : Nat → Nat → Nat → Nat) (f : AF) : LandsOrBlocks s (aluReg k op f s) :=
  slotOp_lands (land_only s _ _ _ _)

theorem scalarF_lands (f : AF) (op : FCtl → W32 → Nat × BitVec 6) : LandsOrBlocks s (scalarF f s op) := slotOp_needRnd (land_only s _ _ _ _)

theorem crossReduce_lands (f : XF) (op : Nat → Nat → Nat × BitVec 6) : LandsOrBlocks s (crossReduce f s op) :=
  slotOp_lands (land_only s _ _ _ _)

/-- Every register-only instruction adds results to the landing buffer or blocks. -/
theorem registerOnly_lands {i : Instr} (h : registerOnly i = true) : LandsOrBlocks s (exec i s) := by
  unfold exec
  cases i with
  | add f | sub f | mul f | mulh f | div f | divu f | andA f | orA f | xorA f | shl f | shr f | sra f | minA f | maxA f =>
    exact aluReg_lands _ _ f
  | addi f | li f | lih f | lihChunk1 f | cmp f | cmpImmediate f | selA f | movmToM f | movmFromM f | movsToS f | movsToG f | fcmps f
    | glog f | klog f | kmovFromK f | kmovToK f | fsrr f | sysr f | xcp f | xs2v f | xv2s f | unpk f =>
    exact slotOp_lands (land_only s _ _ _ _)
  | fsrrClear f => exact slotOp_lands ((land_only s _ _ _ _).land _ _ _ _)
  | lsupd f => exact slotOp_lands (((land_only s _ _ _ _).land _ _ _ _).land _ _ _ _)
  | fadds f | faddsNegated f | fmuls f | fmas f => exact scalarF_lands f _
  | cvts f => exact slotOp_needRnd (land_only s _ _ _ _)
  | xsum f | xmax f => exact crossReduce_lands f _
  | xbc f | xshf f => exact slotOp_lands (.foldl (fun _ _ ht => ht.land _ _ _ _) _)
  | snop f | anop f | mnop f | enop f | onop f | xnop f | vnop f => exact slotOp_lands (.refl s)
  | _ => exact absurd h Bool.false_ne_true

end

/-- Settles O11: the instructions add to the landing buffer or block, and neither reaches a register, storage or another context. -/
theorem registerOnlyFrame : Obligations.RegisterOnlyFrame := by
  unfold Obligations.RegisterOnlyFrame
  intro i s h
  obtain ⟨t, ht, frame⟩ := (registerOnly_lands (s := s) h).frame
  exact ⟨t, ht, frame.regs, frame.storage, frame.others, frame.hold, frame.queue, frame.cmds, frame.calls, frame.landing⟩

end Sys2Proof.Laws
end

section
/-! SUPPORT. ILLEGAL_OPERAND in the scalar slots (R76, R116, R136, R144): which operands the checks refuse, and the fault they take. -/

set_option Elab.async false

namespace Sys2Proof.Laws

open Sys2Proof Sys2Proof.Machine

/-! ### Operands of the S slot -/

/-- A jump to an address that is not word aligned (R136). -/
theorem jumpTo_misaligned {v : W64} (s : State) (h : v.toNat % 4 ≠ 0) : jumpTo v s = s.issueFault cILLEGAL_OPERAND := by
  have hlow : fld v 0 2 ≠ 0 := h
  rw [jumpTo, if_pos (.inl hlow)]

/-- A value above 63 has a bit above bit 5 (R144). -/
theorem fld_ne_zero_of_large {v : W64} (h : 64 ≤ v.toNat) : fld v 6 58 ≠ 0 := by
  have hv := v.isLt
  rw [fld, Nat.shiftRight_eq_div_pow]
  omega

section
variable {f : SF} {s : State} (hg : Guarded f.g s)
include hg

theorem exec_bri_misaligned (hl : s.me.arch.inLoop = false) (h : (s.me.arch.rs f.n).toNat % 4 ≠ 0) :
    exec (.bri f) s = .next (s.issueFault cILLEGAL_OPERAND) := by
  change execBri f s = _
  rw [execBri, outsideLoop_eq_slotOp hl, slotOp_true hg, jumpTo_misaligned s h]

theorem exec_ret_misaligned (hl : s.me.arch.inLoop = false) (h : (s.me.arch.rs 63).toNat % 4 ≠ 0) :
    exec (.ret f) s = .next (s.issueFault cILLEGAL_OPERAND) := by
  change execRet f s = _
  rw [execRet, outsideLoop_eq_slotOp hl, slotOp_true hg, jumpTo_misaligned s h]

theorem exec_fcrw_large (h : 64 ≤ (s.me.arch.rs f.n).toNat) : exec (.fcrw f) s = .next (s.issueFault cILLEGAL_OPERAND) := by
  change execFcrw f s = _
  rw [execFcrw, slotOp_true hg]
  exact congrArg _ (if_pos (fld_ne_zero_of_large h))

end

/-! ### Addresses of LDS and STS -/

/-- An address that no scalar access may have (R116). -/
theorem scalarAddr_illegal {s : State} {n : Need} {width va : Nat} {once : Bool} (h : 2 ^ 56 ≤ va ∨ va % width ≠ 0) :
    scalarAddr s n width va once = .error cILLEGAL_OPERAND := if_pos h

/-- An access that faults ILLEGAL_OPERAND has met no failing word (R428). -/
theorem accFault_illegal (s : State) (vas : List Nat) : s.accFault cILLEGAL_OPERAND vas = s.issueFault cILLEGAL_OPERAND := by
  have hcode : cILLEGAL_OPERAND ≠ cUNCORRECTABLE_MEM := by decide
  have hhit : s.walkHit s.cur cILLEGAL_OPERAND vas = s := by
    unfold State.walkHit State.hit
    split
    · exact if_neg hcode
    · rfl
  rw [State.accFault, hhit]

section
variable {f : AF} {s : State} (hg : Guarded f.g s)
  (h : 2 ^ 56 ≤ (s.aA f + s.aImm f).toNat ∨ (s.aA f + s.aImm f).toNat % 2 ^ f.w.toNat ≠ 0)
include hg h

theorem exec_lds_illegal : exec (.lds f) s = .next (s.issueFault cILLEGAL_OPERAND) := by
  change execLds f s = _
  rw [execLds, slotOp_true hg]
  simp only [scalarAddr_illegal h, accFault_illegal]

theorem exec_sts_illegal : exec (.sts f) s = .next (s.issueFault cILLEGAL_OPERAND) := by
  change execSts f s = _
  rw [execSts, slotOp_true hg]
  simp only [scalarAddr_illegal h, accFault_illegal]

end

/-- Settles O10: each check comes before the operation's effect, and its fault is the issue fault at the bundle's address. -/
theorem scalarFaults : Obligations.ScalarFaults := by
  unfold Obligations.ScalarFaults
  exact ⟨fun f s hg hl => ⟨exec_bri_misaligned hg hl, exec_ret_misaligned hg hl, exec_fcrw_large hg⟩,
    fun f s hg h => ⟨exec_lds_illegal hg h, exec_sts_illegal hg h⟩⟩

end Sys2Proof.Laws
end

section
/-! SUPPORT. What a step runs (R73, R86, R187, R217, R261): the next instruction with the time it takes, and the repetition of a bundle
whose slot operations all take effect. -/

set_option Elab.async false

namespace Sys2Proof.Laws

open Sys2Proof Sys2Proof.Machine

/-! ### The next instruction -/

theorem step_of_upNext {s u : State} {i : Instr} (h : s.upNext = .ok (i, u)) : step s = thenTime (exec i u) := by
  rw [step, h]
  dsimp only
  cases exec i u <;> rfl

/-- The event that the outside brings about. -/
theorem upNext_agenda {s : State} {i : Instr} {is : List Instr} (ht : s.turn = .any) (ha : s.agenda = i :: is) :
    s.upNext = .ok (i, { s with agenda := is }) := by
  rw [State.upNext, ht]
  dsimp only
  rw [ha]

/-- The hart's instruction: it raises no exception (R261). -/
theorem hartStep_of_hartMove {s : State} {i : Instr} (h : s.hartMove = some i) : s.hartStep = (i, s) := by
  have htraps : s.hartTraps = false := by
    have hnone : s.hartMove.isNone = false := by rw [h]; rfl
    exact Bool.and_eq_false_imp.2 fun _ => hnone
  rw [State.hartStep, h, htraps]
  rfl

/-- The word or epilogue instruction that the sequencer has reached is one that its store holds intact (R191, R428). -/
theorem nextOf_eq_ok {s : State} {r : CallRun} {i : Instr}
    (h : match r.epi with
      | some e => e.word < 64 ∧ s.badAt .ep [64 * e.prog + e.word] = none ∧ decodeEpi (s.epWord (64 * e.prog + e.word)) = some i
      | none => r.word < 8192 ∧ s.badAt .mu [r.word] = none ∧ decodeWord (s.muWord r.word) = some i) : s.nextOf r = .ok i := by
  unfold State.nextOf
  cases he : r.epi
  all_goals
    rw [he] at h
    obtain ⟨hw, hb, hd⟩ := h
    dsimp only
    rw [if_neg (Nat.not_le.2 hw), hb, hd]
    rfl

theorem sequencerMove_of_nextOf {s : State} {r : CallRun} {i : Instr} (hr : s.run = some r) (he : r.ended = false) (h : s.nextOf r = .ok i) :
    s.sequencerMove = i := by
  rw [State.sequencerMove, hr]
  dsimp only
  rw [he, h]
  rfl

/-! ### A fetch does not depend on whose turn it is -/

section
variable (s : State) (u : Turn) (c : Fin 4)

theorem syllables_turn : ∀ n va, State.syllables { s with turn := u } c n va = s.syllables c n va
  | 0, _ => rfl
  | n + 1, va => by
    have hone : State.syllable { s with turn := u } c va = s.syllable c va := rfl
    rw [State.syllables, State.syllables, hone, syllables_turn n]

theorem bundleAt_turn (va : Nat) : State.bundleAt { s with turn := u } c va = s.bundleAt c va := by
  have hone : State.syllable { s with turn := u } c va = s.syllable c va := rfl
  have hword (n : Nat) : State.codeWord { s with turn := u } c va n = s.codeWord c va n := rfl
  have hctx : State.ctx { s with turn := u } c = s.ctx c := rfl
  simp only [State.bundleAt, hone, hword, hctx, syllables_turn]

theorem fetchBundle_turn (va : Nat) : State.fetchBundle { s with turn := u } c va = s.fetchBundle c va := by
  rw [State.fetchBundle, State.fetchBundle, bundleAt_turn]

end

/-- A bundle that the nullifier does not skip issues (R86, R91). -/
theorem coreMove_of_fetch {s : State} {ws : List W32} {b : Bundle} (hf : s.fetchBundle s.cur s.me.arch.pc = .ok (ws, b))
    (hn : s.me.arch.rep = 0 → s.me.arch.nullifies b = false) : s.coreMove = .bundleIssue := by
  have hskip : ¬(s.me.arch.rep = 0 ∧ s.me.arch.nullifies b = true) := fun ⟨h0, h1⟩ => Bool.false_ne_true ((hn h0).symm.trans h1)
  rw [State.coreMove, hf]
  exact if_neg hskip

/-! ### What the decoder reads in a slot is an instruction of a slot (R73) -/

/-- Where a bit picks the form of an opcode. -/
theorem inSlot_ite {p : Prop} [Decidable p] {a b : Instr} (ha : inSlot a = true) (hb : inSlot b = true) :
    inSlot (if p then a else b) = true := by
  split
  · exact ha
  · exact hb

theorem inSlot_of_decodeS {w : W32} {i : Instr} (h : i ∈ decodeS w) : inSlot i = true := by
  unfold decodeS at h
  split at h
  case h_11 | h_19 | h_21 => cases h; exact inSlot_ite rfl rfl
  all_goals cases h <;> rfl

theorem inSlot_of_decodeA {w0 w1 : W32} {i : Instr} (h : i ∈ decodeA w0 w1) : inSlot i = true := by
  unfold decodeA at h
  split at h
  case h_18 | h_19 | h_21 | h_22 | h_34 | h_38 => cases h; exact inSlot_ite rfl rfl
  all_goals cases h <;> rfl

theorem inSlot_of_decodeM {w : W32} {i : Instr} (h : i ∈ decodeM w) : inSlot i = true := by
  unfold decodeM at h
  split at h <;> cases h <;> rfl

theorem inSlot_of_decodeE {w0 w1 : W32} {i : Instr} (h : i ∈ decodeE w0 w1) : inSlot i = true := by
  unfold decodeE at h
  split at h <;> cases h <;> rfl

theorem inSlot_of_decodeO {w0 w1 : W32} {i : Instr} (h : i ∈ decodeO w0 w1) : inSlot i = true := by
  unfold decodeO at h
  split at h <;> cases h <;> rfl

theorem inSlot_of_decodeX {w : W32} {i : Instr} (h : i ∈ decodeX w) : inSlot i = true := by
  unfold decodeX at h
  split at h <;> cases h <;> rfl

theorem inSlot_of_decodeV {w0 w1 : W32} {i : Instr} (h : i ∈ decodeV w0 w1) : inSlot i = true := by
  unfold decodeV at h
  split at h <;> cases h <;> rfl

theorem inSlot_of_unitInstr {c : Nat} {f : TF} {i : Instr} (h : unitInstr c f = some i) : inSlot i = true := by
  unfold unitInstr at h
  split at h <;> cases h <;> rfl

theorem inSlot_of_decodeT {g : BitVec 3} {w0 w1 : W32} {i : Instr} (h : i ∈ decodeT g w0 w1) : inSlot i = true := by
  unfold decodeT at h
  split at h
  · obtain ⟨p, -, hp⟩ := List.mem_filterMap.1 h
    exact inSlot_of_unitInstr hp
  · cases h

theorem inSlot_of_decodeSlot {p : Nat} {w0 w1 : W32} {i : Instr} (h : i ∈ decodeSlot p w0 w1) : inSlot i = true := by
  unfold decodeSlot at h
  split at h
  · exact inSlot_of_decodeS (Option.mem_toList.1 h)
  · exact inSlot_of_decodeA (Option.mem_toList.1 h)
  · exact inSlot_of_decodeM (Option.mem_toList.1 h)
  · exact inSlot_of_decodeE (Option.mem_toList.1 h)
  · exact inSlot_of_decodeO (Option.mem_toList.1 h)
  · exact inSlot_of_decodeX (Option.mem_toList.1 h)
  · exact inSlot_of_decodeV (Option.mem_toList.1 h)
  · exact inSlot_of_decodeT h

/-- A bundle that passes the checks has the slots of its template. -/
theorem slots_of_decodeBundle {ws : List W32} {b : Bundle} (h : decodeBundle ws = .ok b) : b.slots = slotsOf ws := by
  by_cases hi : IllegalBundle ws
  · rw [decodeBundle_illegal hi] at h; cases h
  · rw [decodeBundle_legal hi] at h
    split at h
    · cases h
    · split at h <;> cases h
      rfl

theorem decodeBundle_of_fetchBundle {s : State} {c : Fin 4} {va : Nat} {ws : List W32} {b : Bundle} (h : s.fetchBundle c va = .ok (ws, b)) :
    decodeBundle ws = .ok b := by
  unfold State.fetchBundle at h
  split at h
  · cases h
  · split at h
    · cases h
    · next hb => cases h; exact hb

/-- What a repetition runs are operations of slots: of the bundle's, or of latches that re-issue (R82, R86). -/
theorem inSlot_of_tickOps {ws : List W32} {b : Bundle} (hb : decodeBundle ws = .ok b) {ls : List Latch} {i : Instr} (h : i ∈ tickOps b ls) :
    inSlot i = true := by
  obtain ⟨p, -, hp⟩ := List.mem_flatMap.1 h
  split at hp
  · next x hx =>
    have hmem : x ∈ slotsOf ws := slots_of_decodeBundle hb ▸ List.mem_of_find?_eq_some hx
    rw [(mem_splitSlots hmem).2] at hp
    exact inSlot_of_decodeSlot hp
  · dsimp only at hp
    split at hp
    · exact inSlot_of_decodeSlot hp
    · cases hp

/-! ### Slot operations one after the other (R86) -/

theorem slot_of_exec {i : Instr} {s u : State} (hi : inSlot i = true) (h : exec i s = .next u) : s.slot i = u := by
  rw [exec_of_inSlot s hi] at h
  rw [State.slot, h]

/-- A slot operation answers a next state, or leaves its state. -/
theorem slot_cases {i : Instr} (hi : inSlot i = true) (s : State) : exec i s = .next (s.slot i) ∨ s.slot i = s := by
  rw [exec_of_inSlot s hi, State.slot]
  cases runSlot i s with
  | next t => exact .inl rfl
  | fault _ | refused _ => exact .inr rfl

/-- No operation that, tried alone, ends in another wait makes the repetition block (R65). -/
theorem anyBlocks_eq_false {ops : List Instr} {s : State} (hi : ∀ i ∈ ops, inSlot i = true) (hs : s.me.wait ≠ .blocked)
    (h : ∀ i ∈ ops, ∀ t, exec i s = .next t → t.me.mode = .live → t.me.wait ≠ .blocked) : anyBlocks s ops = false := by
  refine List.any_eq_false.2 fun i hmem => ?_
  rw [Bool.and_eq_true, decide_eq_true_eq, decide_eq_true_eq]
  rintro ⟨hlive, hblocked⟩
  obtain e | e := slot_cases (hi i hmem) s
  · exact h i hmem _ e hlive hblocked
  · exact hs (e ▸ hblocked)

/-- Slot operations that all take effect run to the end. -/
theorem runOps_of_runsAll : ∀ {ops : List Instr} {s t : State}, (∀ i ∈ ops, inSlot i = true) → RunsAll ops s t → runOps ops s = t
  | [], _, _, _, h => h.symm
  | i :: is, s, t, hi, ⟨u, hu, hlive, hgo, hrest⟩ => by
    have hslot := slot_of_exec (hi i List.mem_cons_self) hu
    have hrec := runOps_of_runsAll (fun j hj => hi j (List.mem_cons_of_mem i hj)) hrest
    rw [runOps, hslot]
    exact (if_pos ⟨hlive, congrArg not hgo⟩).trans hrec

/-- They leave the context live, in no wait that is tried again. -/
theorem runsAll_ends : ∀ {ops : List Instr} {s t : State}, s.me.mode = .live → s.me.wait.retried = false → RunsAll ops s t →
    t.me.mode = .live ∧ t.me.wait.retried = false
  | [], _, _, hm, hw, h => by cases h; exact ⟨hm, hw⟩
  | _ :: _, _, _, _, _, ⟨_, _, hm, hw, h⟩ => runsAll_ends hm hw h

/-! ### One repetition of a bundle (R86) -/

section
variable (b : Bundle)

/-- The state with the latches as repetition `rep` of the bundle uses them. -/
def latchedFor (rep : Nat) (s : State) : State :=
  s.modMe (fun x => { x with arch := { x.arch with latches := stepLatches b rep x.arch.latches } })

/-- The operations of the repetition. -/
def opsAt (rep : Nat) (s : State) : List Instr := tickOps b (latchedFor b rep s).me.arch.latches

/-- The state after the checkpoint before the repetition, where one is taken. -/
def checkpointed (rep : Nat) (s : State) : State := if takesCkpt (latchedFor b rep s) b (opsAt b rep s) then s.checkpoint s.cur else s

/-- The state in which the first slot operation runs: `s` is the state after the checkpoint. -/
def slotsStart (rep : Nat) (s : State) : State :=
  { latchedFor b rep (s.modMe (fun x => { x with wait := .run, ckptDone := true })) with casc := [] }

/-- The context that issues, after its checkpoint: what the issue of the bundle goes on to read. -/
theorem checkpointed_me (rep : Nat) (s : State) :
    (checkpointed b rep s).me.mode = s.me.mode ∧ (checkpointed b rep s).me.stopReq = s.me.stopReq := by
  unfold checkpointed
  split
  · simp [State.checkpoint, State.me, Context.checkpoint]
  · exact ⟨rfl, rfl⟩

/-- The implicit checkpoint of a holding buffer that is not over its limit leaves no record (R316). -/
theorem ckptBefore_eq_checkpoint {s : State} (h : s.me.hold.length ≤ 352) : s.ckptBefore b = s.checkpoint s.cur := by
  have hlog : decide (352 < s.me.hold.length) = false := decide_eq_false (by omega)
  simp only [State.ckptBefore, hlog, Bool.and_false, Bool.false_eq_true, if_false]

theorem slotsStart_me (rep : Nat) (s : State) :
    (slotsStart b rep s).me =
      { s.me with wait := .run, ckptDone := true, arch := { s.me.arch with latches := stepLatches b rep s.me.arch.latches } } := by
  change (latchedFor b rep _).me = _
  rw [latchedFor, modMe_me, modMe_me]

end

/-- A bundle that does not pop q3 records no notice (R446). -/
theorem noticeIn_of_no_pop {b : Bundle} (s : State) (h : b.pop.getLsbD 3 = false) : s.noticeIn b = s := by
  rw [State.noticeIn, h]; rfl

/-- What holds of every latch that the bundle pops fails of none (R87). -/
theorem any_bundlePops_eq_false {b : Bundle} {p : Nat → Bool} (h : ∀ q, q < 8 → b.pop.getLsbD q = true → p q = true) :
    (bundlePops b).any (fun q => !p q) = false := by
  refine List.any_eq_false.2 fun q hq => ?_
  obtain ⟨hlt, hpop⟩ := List.mem_filter.1 hq
  rw [h q (List.mem_range.1 hlt) hpop]
  exact Bool.false_ne_true

/-- Operations that leave the context live and in no retried wait have issued the repetition. -/
theorem settleOps_of_live {s t : State} {b : Bundle} {pc rep guard : Nat} (hm : t.me.mode = .live) (hw : t.me.wait.retried = false) :
    settleOps s t b pc rep guard = t.issued b pc rep (loopFields s.me.arch guard) := by
  rw [settleOps, hm]
  dsimp only
  split
  case h_4 => rfl
  all_goals next h => rw [h] at hw; cases hw

/-- A repetition whose operations all take effect has issued, its results still to land (R86, R88, R319). -/
theorem tick_runsAll {s t : State} {ws : List W32} {b : Bundle} {rep : Nat} (hrep : s.me.arch.rep = rep) (hlive : s.me.mode = .live)
    (hstop : s.me.stopReq = false) (hhold : s.me.hold.length ≤ 352) (hnotice : b.pop.getLsbD 3 = false)
    (hslots : ∀ i ∈ opsAt b rep s, inSlot i = true)
    (hpops : ∀ q, q < 8 → b.pop.getLsbD q = true →
      (checkpointed b rep s).me.share.mayRead q = true ∧ (checkpointed b rep s).me.hasHead q = true)
    (hblocks : ∀ i ∈ opsAt b rep s, ∀ t', exec i (slotsStart b rep (checkpointed b rep s)) = .next t' → t'.me.mode = .live →
      t'.me.wait ≠ .blocked)
    (hruns : RunsAll (opsAt b rep s) (slotsStart b rep (checkpointed b rep s)) t) :
    s.tick ws b = t.issued b s.me.arch.pc rep (loopFields (checkpointed b rep s).me.arch (guardOfBundle ws)) := by
  subst hrep
  obtain ⟨hmode, hreq⟩ := checkpointed_me b _ s
  unfold State.tick
  extract_lets pc rep latched ops ck w s0 noticed s1
  have hw : w = checkpointed b rep s := by
    simp only [w, ckptBefore_eq_checkpoint b hhold]; rfl
  have hs1 : s1 = slotsStart b rep w := by
    simp only [s1, noticed, s0, noticeIn_of_no_pop _ hnotice, modMe_modMe]
    rfl
  have hs0 : s0.me.arch = w.me.arch := by rw [modMe_me]
  clear_value w s0 noticed s1
  subst hw hs1
  have hmode' : (slotsStart b rep (checkpointed b rep s)).me.mode = .live := by rw [slotsStart_me]; exact hmode.trans hlive
  have hwait : (slotsStart b rep (checkpointed b rep s)).me.wait = .run := by rw [slotsStart_me]
  have hgo : ¬(ck = true ∧ (checkpointed b rep s).me.stopReq = true) :=
    fun h => Bool.false_ne_true ((hreq.trans hstop).symm.trans h.2)
  have hread : (bundlePops b).any (fun q => !(checkpointed b rep s).me.share.mayRead q) = false :=
    any_bundlePops_eq_false fun q hq hp => (hpops q hq hp).1
  have hhead : (bundlePops b).any (fun q => !(checkpointed b rep s).me.hasHead q) = false :=
    any_bundlePops_eq_false fun q hq hp => (hpops q hq hp).2
  have hfree : anyBlocks (slotsStart b rep (checkpointed b rep s)) ops = false :=
    anyBlocks_eq_false hslots (by rw [hwait]; exact Wait.noConfusion) hblocks
  obtain ⟨hends, hretried⟩ := runsAll_ends hmode' (by rw [hwait]; rfl) hruns
  have hend : runOps ops (slotsStart b rep (checkpointed b rep s)) = t := runOps_of_runsAll hslots hruns
  rw [if_neg (fun h => h (hmode.trans hlive)), if_neg hgo, hread, hhead, hfree, hend, settleOps_of_live hends hretried, hs0,
    if_neg (fun h => Bool.false_ne_true h.2)]
  rfl

/-! ### The issue of a bundle (R86) -/

/-- The state that has fetched the syllables of the current bundle: the loop buffer takes those of a body (R137). -/
def fetched (s : State) (ws : List W32) : State :=
  s.modMe (fun x => { x with hdr := nth ws 0, arch := x.arch.buffer s.me.arch.pc ws })

@[simp] theorem buffer_pc (a : Arch) (pc : Nat) (ws : List W32) : (a.buffer pc ws).pc = a.pc := by unfold Arch.buffer; split <;> rfl
@[simp] theorem buffer_rep (a : Arch) (pc : Nat) (ws : List W32) : (a.buffer pc ws).rep = a.rep := by unfold Arch.buffer; split <;> rfl

/-- A bundle that passes the checks and that the nullifier does not skip runs a repetition. -/
theorem exec_bundleIssue {s : State} {ws : List W32} {b : Bundle} (hmay : s.me.mayIssue = true) (hbarred : s.issueBarred = false)
    (hyields : s.yields = false) (hf : s.fetchBundle s.cur s.me.arch.pc = .ok (ws, b))
    (hn : s.me.arch.rep = 0 → s.me.arch.nullifies b = false) : exec .bundleIssue s = .next ((fetched s ws).tick ws b) := by
  have hskip : ¬(s.me.arch.rep = 0 ∧ s.me.arch.nullifies b = true) := fun ⟨h0, h1⟩ => Bool.false_ne_true ((hn h0).symm.trans h1)
  have hissues : ¬((!s.me.mayIssue) = true ∨ s.issueBarred = true ∨ s.yields = true) := by simp [hmay, hbarred, hyields]
  change execBundleIssue s = _
  rw [execBundleIssue, if_neg hissues, State.issueBundle, hf]
  dsimp only
  rw [if_neg hskip]
  rfl

theorem live_of_mayIssue {x : Context} (h : x.mayIssue = true) : x.mode = .live := by
  simp only [Context.mayIssue, Bool.and_eq_true, decide_eq_true_eq] at h
  exact h.1

/-- Settles O43: what is up next is the event, the hart's instruction, the sequencer's or the core's bundle, whose operations all take
effect. -/
theorem stepRunsDecoded : Obligations.StepRunsDecoded := by
  unfold Obligations.StepRunsDecoded
  refine ⟨fun s i is ht ha => step_of_upNext (upNext_agenda ht ha), fun s i ht hd => step_of_upNext ?_,
    fun s i r ht hr he hd => step_of_upNext ?_, fun s t ws b ht => ?_⟩
  · have hmove : State.hartMove { s with turn := .any } = some i := hd
    rw [State.upNext, ht]
    exact congrArg Except.ok (hartStep_of_hartMove hmove)
  · have hmove : State.sequencerMove s = i := sequencerMove_of_nextOf hr he (nextOf_eq_ok hd)
    rw [State.upNext, ht, ← hmove]
  · intro u hmay hbarred hyields hf hn hstop hhold hnotice rep pc v latched ops w hpops w1 hblocks hruns lf
    have hlive : v.me.mode = .live := by simpa [v] using live_of_mayIssue hmay
    have hrep : v.me.arch.rep = rep := by simp [v, rep]
    have hpc : v.me.arch.pc = pc := by simp [v, pc]
    have hdecoded := decodeBundle_of_fetchBundle hf
    have htick : v.tick ws b = t.issued b pc rep lf := by
      rw [← hpc]
      exact tick_runsAll hrep hlive (by simpa [v] using hstop) (by simpa [v] using hhold) hnotice (fun i hi => inSlot_of_tickOps hdecoded hi)
        hpops hblocks hruns
    have hexec : exec .bundleIssue u = .next (t.issued b pc rep lf) := by
      rw [exec_bundleIssue hmay hbarred hyields hf hn]
      exact congrArg _ htick
    refine ⟨?_, hexec⟩
    have hup : s.upNext = .ok (.bundleIssue, u) := by
      have hmove : s.coreMove = .bundleIssue := coreMove_of_fetch ((fetchBundle_turn s .any s.cur s.me.arch.pc).symm.trans hf) hn
      rw [State.upNext, ht, hmove]
    rw [step_of_upNext hup, hexec]
    rfl

end Sys2Proof.Laws
end
